-- ==== Sys2Proof/Word.lean ====
section
/-! DEFINITION. The word types of the RLN-4880 and the one sparse map that the state is built from.
Bits are numbered from 0 and multi-byte fields are little-endian (R3). -/

namespace Sys2Proof

/-- A scalar register, CSR, device register or fabric address: 64 bits. -/
abbrev W64 := BitVec 64
/-- One 32-bit lane, parcel or code-stream half-bundle. -/
abbrev W32 := BitVec 32
/-- One byte. -/
abbrev Byte := BitVec 8
/-- A row or a vector register: 128 B, 1,024 bits, lane l in bits [32l+31 : 32l] (R305). -/
abbrev Row := BitVec 1024
/-- A code-word address: 48 bits (R231). -/
abbrev CodeAddr := BitVec 48
/-- A guard register: lanes in [31:0], the c bit in [32] (R174). -/
abbrev Guard := BitVec 33
/-- A scale register: 32 bytes. -/
abbrev Scale := BitVec 256

/-- A sparse table from numbers to values: keys strictly rising; a key that is not listed holds the table's default. -/
abbrev AMap (α : Type) := List (Nat × α)

/-- The value at key `k`, or `d` when nothing is listed there. -/
def AMap.get {α : Type} (d : α) (k : Nat) : AMap α → α
  | [] => d
  | (k', v) :: m => if k = k' then v else AMap.get d k m

/-- The value listed at key `k`, if any. -/
def AMap.find {α : Type} (k : Nat) : AMap α → Option α
  | [] => none
  | (k', v) :: m => if k = k' then some v else AMap.find k m

/-- The table with `v` listed at `k`. -/
def AMap.put {α : Type} (k : Nat) (v : α) : AMap α → AMap α
  | [] => [(k, v)]
  | (k', v') :: m =>
    if k < k' then (k, v) :: (k', v') :: m
    else if k = k' then (k, v) :: m
    else (k', v') :: AMap.put k v m

/-- The table with nothing listed at `k`. -/
def AMap.del {α : Type} (k : Nat) : AMap α → AMap α
  | [] => []
  | (k', v') :: m => if k = k' then m else (k', v') :: AMap.del k m

/-- Bits `lo` to `lo + n - 1` of a number. -/
def bitsOf (x lo n : Nat) : Nat := x / 2 ^ lo % 2 ^ n

/-- The low `n` bits of a word, as a two's-complement integer. -/
def sextNat (x n : Nat) : Int :=
  if x % 2 ^ n < 2 ^ (n - 1) then ((x % 2 ^ n : Nat) : Int) else ((x % 2 ^ n : Nat) : Int) - ((2 ^ n : Nat) : Int)

end Sys2Proof
end

