-- ==== Sys2Proof/Syntax.lean ====
section
/-! DEFINITION. The steps of the RLN-4880: one constructor of `Instr` per row of the opcode table. The slot operations
of a bundle carry their parcel fields (R240 to R246); the device's own steps carry the unit they act on and what the
outside supplies. -/

namespace Sys2Proof

/-- The two pair slots (R236). -/
inductive PSlot where
  | p0 | p1
  deriving DecidableEq, Repr

/-- The slots whose all-zero parcels are the instruction NOP (R262). -/
inductive NSlot where
  | ls | ss | ps | gs | mx | sq | ec | kt
  deriving DecidableEq, Repr

/-- A guard field: register and inversion (R242, R244). -/
structure Gd where
  g : BitVec 4
  inv : Bool
  deriving DecidableEq, Repr

/-- Register form of the scalar half (R241), with the pair's guard. -/
structure RArgs where
  p : PSlot
  gd : Gd
  sd : BitVec 6
  sa : BitVec 6
  sb : BitVec 6
  deriving DecidableEq, Repr

/-- Immediate form of the scalar half (R241). -/
structure IArgs where
  p : PSlot
  gd : Gd
  sd : BitVec 6
  sa : BitVec 6
  imm : BitVec 12
  deriving DecidableEq, Repr

/-- Long-immediate form of the scalar half (R241). -/
structure LArgs where
  p : PSlot
  gd : Gd
  sd : BitVec 6
  imm : BitVec 18
  deriving DecidableEq, Repr

/-- The vector half (R242). -/
structure VArgs where
  p : PSlot
  gd : Gd
  fmt : BitVec 4
  vc : BitVec 11
  vb : BitVec 11
  va : BitVec 11
  vd : BitVec 11
  mod : Bool
  deriving DecidableEq, Repr

/-- A memory-slot parcel (R244). -/
structure MArgs where
  gd : Gd
  mods : BitVec 5
  ext : BitVec 4
  off : BitVec 20
  base : BitVec 6
  rows : BitVec 3
  v : BitVec 11
  lat : BitVec 4
  deriving DecidableEq, Repr

/-- An MX parcel (R245). -/
structure XArgs where
  fn : BitVec 5
  s : BitVec 6
  gb : Bool
  ga : Bool
  m : Bool
  pi : BitVec 2
  brow : BitVec 15
  arow : BitVec 15
  acc : Bool
  tile : BitVec 3
  fmtb : BitVec 4
  fmta : BitVec 4
  deriving DecidableEq, Repr

/-- An SQ parcel (R246): the scale register and the operand bits [31:11]. -/
structure QArgs where
  ops : BitVec 21
  k : BitVec 5
  deriving DecidableEq, Repr

/-- An EC parcel (R355). -/
structure EArgs where
  pri : Bool
  flag : BitVec 4
  off : BitVec 15
  n : BitVec 6
  deriving DecidableEq, Repr

/-- A link flit (R34): header fields, two payload rows and the trailer. -/
structure Flit where
  addr : W64
  word : W32
  srcCore : BitVec 9
  srcCtx : BitVec 2
  kind : BitVec 4
  rows : BitVec 2
  i : Bool
  c : Bool
  vc : BitVec 3
  srcDev : BitVec 6
  kg : Bool
  part : BitVec 3
  pay0 : Row
  pay1 : Row
  trailer : BitVec 128
  deriving DecidableEq, Repr, Inhabited

/-- A link that arbitrates among virtual channels (R42): an optical transmit slot 8f + w, a bridge in one direction,
a mesh link of a core router in one of four directions. -/
inductive Link where
  | tx (slot : Nat)
  | bridge (b : Nat) (up : Bool)
  | mesh (core dir : Nat)
  deriving DecidableEq, Repr

/-- A configuration image (R10, R11, R28): its bytes, its signature, and the fields the device takes from it. -/
structure Image where
  body : List Byte
  sig : List Byte
  cap : Nat
  devid : BitVec 6
  tx : AMap Byte
  rx : AMap Byte
  deriving DecidableEq, Repr

/-- One finding of the built-in array test: array code (R208), unit number, failing rows. -/
structure ArrayFail where
  array : Nat
  unit : Nat
  rows : Nat
  deriving DecidableEq, Repr

/-- What memory training and test found (R11): dead stacks and channels, reduced capacities in MiB, and the 4 KiB pages retired. -/
structure MemTest where
  hbms : List Nat
  chans : List Nat
  pages : List Nat
  stackCap : List (Nat × Nat)
  chanCap : List (Nat × Nat)
  deriving DecidableEq, Repr

/-- What link bring-up found (R11, R28, R81). -/
structure LinkTest where
  bridges : List Nat
  locked : List Nat
  rxLocked : List Nat
  heard : List (Nat × Nat)
  hostUp : Bool
  half : Bool
  slow : Bool
  deriving DecidableEq, Repr

/-- An event report that reaches the map agent (R16); `returned` lists the contained units that failed their test. -/
inductive MapReport where
  | coreLost (n : Nat)
  | panelLost (n : Nat)
  | dieLost (n : Nat)
  | stackLost (n : Nat)
  | stackCap (n mib : Nat)
  | chanLost (n : Nat)
  | chanCap (n mib : Nat)
  | bridgeLost (n : Nat)
  | slotLost (n : Nat)
  | clockStep (die mhz : Nat)
  | planLoaded
  | peers (mask : W64)
  | returned (kind unit : Nat) (failed : List Nat) (cap : Nat)
  deriving DecidableEq, Repr

/-- What a router finds of a seam of a tree that another device owns, in the owner's answer to a refill (R47, R52, R54): the tree's entry, the seam's index,
parent (place and device) and port there, and in port order its children's keys, devices and places and the members below each. -/
structure FarSeam where
  entry : BitVec 2048
  idx : Nat
  parent : Option (Nat × Nat)
  pport : Nat
  ports : List Nat
  kidAt : List (Nat × Nat)
  subs : List (List Nat)
  deriving DecidableEq, Repr

/-- The answer to a refill (R54): the handle is refused, it is that of a tree of this device, or it is another device's, with what its owner tells. -/
inductive RefillAns where
  | refused
  | own
  | other (seam : FarSeam)
  deriving DecidableEq, Repr

/-- What a commit acknowledgement names (R74): the ring, and the context and the sequence number of the record. -/
structure RingAck where
  ring : W64
  ctx : Nat
  seq : Nat
  deriving DecidableEq, Repr

/-- The four engines of a core, the collective engine by its two register sets (R76, R146). -/
inductive Eng where
  | copy | offload | main | shadow | record
  deriving DecidableEq, Repr

/-- Every step of the device: one constructor per row of spec/opcode_table.json. An event whose operands are one or two
numbers carries none here: `State.unit` and `State.arg` hold them, and the comment beside it names them. (The
constructors that carry fields stand first.) -/
inductive Instr where
  -- reset, power and the map (01)
  | newImageAccept (img : Image)
  | arrayTest (fails : List ArrayFail)
  | coreSelfTest (failed : List Nat)
  | memoryTest (r : MemTest)
  | linkBringup (r : LinkTest)
  | powerMeasurement (watts : List Nat)
  | mapEvent (r : MapReport)
  -- links (02)
  | flitArbitration (l : Link)
  | write (rx : Nat) (f : Flit)
  | read (rx : Nat) (f : Flit)
  | atomic (rx : Nat) (f : Flit)
  | resp (rx : Nat) (f : Flit)
  | mapnote (rx : Nat) (f : Flit)
  | credit (rx : Nat) (f : Flit)
  | nak (rx : Nat := 0) (f : Flit := default)
  | drainAnswer (rx : Nat := 0) (f : Flit := default)
  | drainMarker (rx : Nat) (f : Flit)
  | slotLock (slot : Nat) (allow : List Nat)
  -- trees (03)
  | treeup (seam : Nat) (f : Flit)
  | refill (seam : Nat) (f : Flit)
  | refillAnswer (seam : Nat) (handle : W32) (ans : RefillAns)
  | slotInstall (seam : Nat) (handle : W32)
  | treeCredit (child : Nat) (f : Flit)
  | seamTimeout (seam : Nat) (handle : W32)
  | lateMark (seam : Nat) (f : Flit)
  | treedown (seam : Nat) (f : Flit)
  | deliveryStatus (handle : W32) (member : Nat) (seg : W32) (torn part : Bool)
  | postCompletionNotice (handle : W32) (member : Nat) (seg : W32) (status : Nat)
  -- experts and chunks (04)
  | expert (die : Nat) (f : Flit)
  | commitAcknowledgement (die entry rep bytes : Nat) (ack : RingAck)
  | engineAccept (core : Nat) (e : Eng)
  | engineCommandComplete (core : Nat) (e : Eng)
  -- host queues and commands (05)
  | mapsetRetestDone (cmd : Nat) (fault : Bool) (failed : List Nat) (cap : Nat)
  -- scheduler and sync engines (06, 14)
  | syncStore (addr val : W64)
  | syncDec (addr : W64)
  | syncAtomic (addr : W64) (op : Nat) (x cv : W64) (wide : Bool)
  | rendezvousArrival (addr : W64) (epoch : W32) (rank parties ctx : Nat)
  -- cores and memory (07, 08, 09, 11)
  | hostMemoryAccess (addr : Nat) (store : Bool) (data : BitVec 512)
  | migrate (core : Nat) (q1 : Bool)
  | dbgcfgModeWrite (core mode : Nat)
  | einjcWrite (v : W64)
  | accownWrite (core : Nat) (v : W64)
  | katcfgWrite (core : Nat) (v : W64)
  | ttabWrite (n : Nat) (v : W64)
  | rngselWrite (ctx : Nat) (v : W64)
  | registerWrite (ctx num : Nat) (v : W64)
  -- the empty bundle and the control slot (12, 14)
  | emptyBundle (seg : Bool) (wf : BitVec 16)
  | br (off : BitVec 24)
  | brz (s : BitVec 6) (off : BitVec 18)
  | brnz (s : BitVec 6) (off : BitVec 18)
  | brg (g : BitVec 4) (inv : Bool) (off : BitVec 19)
  | jmp (s : BitVec 6)
  | call (off : BitVec 24)
  | loop (base : BitVec 6) (body : BitVec 4) (off : BitVec 14)
  | loopbrk (g : BitVec 4) (inv : Bool)
  | twait (s : BitVec 6) (off : BitVec 18)
  | tsig (s : BitVec 6)
  | tspawn (s : BitVec 6) (off : BitVec 18)
  | rdv (sa se : BitVec 6)
  | fset (m : BitVec 16)
  | fclr (m : BitVec 16)
  | fence (scope : BitVec 3) (kind : BitVec 2)
  | trap (cause : BitVec 8) (code : BitVec 16)
  | csrr (s : BitVec 6) (csr : BitVec 12)
  | csrw (s : BitVec 6) (csr : BitVec 12)
  | bkpt (imm : BitVec 24)
  | rot (n : BitVec 10)
  -- the scalar half (15)
  | snop (p : PSlot) (gd : Gd)
  | add (a : RArgs)
  | sub (a : RArgs)
  | addi (a : IArgs)
  | li (a : LArgs)
  | lui (a : LArgs)
  | mul (a : RArgs)
  | mulh (a : RArgs)
  | mulhu (a : RArgs)
  | div (a : RArgs)
  | divu (a : RArgs)
  | rem (a : RArgs)
  | remu (a : RArgs)
  | and (a : RArgs)
  | or (a : RArgs)
  | xor (a : RArgs)
  | andi (a : IArgs)
  | ori (a : IArgs)
  | xori (a : IArgs)
  | shl (a : RArgs)
  | shr (a : RArgs)
  | sra (a : RArgs)
  | shli (a : IArgs)
  | shri (a : IArgs)
  | srai (a : IArgs)
  | min (a : RArgs)
  | max (a : RArgs)
  | minu (a : RArgs)
  | maxu (a : RArgs)
  | sel (a : RArgs)
  | cmpeq (a : RArgs)
  | cmplt (a : RArgs)
  | cmpltu (a : RArgs)
  | cmpeqi (a : IArgs)
  | cmplti (a : IArgs)
  | clz (a : RArgs)
  | popc (a : RArgs)
  | bfx (a : IArgs)
  | bfi (a : IArgs)
  | ixr (a : IArgs)
  | elen (a : IArgs)
  | elenPiece (a : IArgs)
  -- the vector half (16)
  | vnop (p : PSlot) (gd : Gd)
  | vadd (a : VArgs)
  | vsub (a : VArgs)
  | vmul (a : VArgs)
  | vfma (a : VArgs)
  | vfms (a : VArgs)
  | vfnma (a : VArgs)
  | vmin (a : VArgs)
  | vmax (a : VArgs)
  | vabs (a : VArgs)
  | vneg (a : VArgs)
  | vcmp (a : VArgs)
  | vsel (a : VArgs)
  | vcvt (a : VArgs)
  | vrnd (a : VArgs)
  | vscalb (a : VArgs)
  | vexp2 (a : VArgs)
  | vlog2 (a : VArgs)
  | vrcp (a : VArgs)
  | vrsqrt (a : VArgs)
  | vsqrt (a : VArgs)
  | vtanh (a : VArgs)
  | vsigm (a : VArgs)
  | vexp (a : VArgs)
  | viadd (a : VArgs)
  | visub (a : VArgs)
  | viadds (a : VArgs)
  | vimul (a : VArgs)
  | vimad (a : VArgs)
  | vand (a : VArgs)
  | vor (a : VArgs)
  | vxor (a : VArgs)
  | vshl (a : VArgs)
  | vshr (a : VArgs)
  | vsra (a : VArgs)
  | vimin (a : VArgs)
  | vimax (a : VArgs)
  | vicmp (a : VArgs)
  | vmov (a : VArgs)
  | vbcast (a : VArgs)
  | vbcastI (a : VArgs)
  | vext (a : VArgs)
  | vins (a : VArgs)
  | vperm (a : VArgs)
  | vpermX (a : VArgs)
  | vrot (a : VArgs)
  | vrotV (a : VArgs)
  | vrmrg (a : VArgs)
  | vrmrgV (a : VArgs)
  | vpack (a : VArgs)
  | vunpk (a : VArgs)
  | vzip (a : VArgs)
  | vunzip (a : VArgs)
  | vlane (a : VArgs)
  | vlaneMul (a : VArgs)
  | vxs (a : VArgs)
  | vrsum (a : VArgs)
  | vrmax (a : VArgs)
  | vrmin (a : VArgs)
  | vramax (a : VArgs)
  | vrisum (a : VArgs)
  | gand (a : VArgs)
  | gor (a : VArgs)
  | gxor (a : VArgs)
  | gandn (a : VArgs)
  | gcnt (a : VArgs)
  | gset (a : VArgs)
  | gsetN (a : VArgs)
  | vrng (a : VArgs)
  | vrngf (a : VArgs)
  -- the memory, quantise, matrix, known-answer and engine slots (17 to 20)
  | nop (slot : NSlot)
  | ldr (a : MArgs)
  | ldrs (a : MArgs)
  | str (a : MArgs)
  | strs (a : MArgs)
  | stash (a : MArgs)
  | stmc (a : MArgs)
  | pld (a : MArgs)
  | pst (a : MArgs)
  | pstash (a : MArgs)
  | gld (a : MArgs)
  | gst (a : MArgs)
  | glds (a : MArgs)
  | gsts (a : MArgs)
  | qld (a : MArgs)
  | qscat (a : MArgs)
  | atom (a : MArgs)
  | atomr (a : MArgs)
  | scld (a : QArgs)
  | scst (a : QArgs)
  | scmov (a : QArgs)
  | scmovToVector (a : QArgs)
  | qmax (a : QArgs)
  | qcvt (a : QArgs)
  | qcvtDec (a : QArgs)
  | qstep (a : QArgs)
  | tmul (a : XArgs)
  | tmuls (a : XArgs)
  | tzero (a : XArgs)
  | tlda (a : XArgs)
  | tsta (a : XArgs)
  | ta2v (a : XArgs)
  | tv2a (a : XArgs)
  | tadd (a : XArgs)
  | tscale (a : XArgs)
  | tbias (a : XArgs)
  | tact (a : XArgs)
  | tred (a : XArgs)
  | ttrans (a : XArgs)
  | tnorm (a : XArgs)
  | tcopy (a : XArgs)
  | kat (pattern : BitVec 4) (seed : BitVec 16) (crc : W32)
  | copy (a : EArgs)
  | offl (a : EArgs)
  | onld (a : EArgs)
  | pub (a : EArgs)
  | post (a : EArgs)
  | xchg (a : EArgs)
  | esend (a : EArgs)
  | dictld (a : EArgs)
  | unpick (a : EArgs)
  | ckpt (a : EArgs)
  | drain (a : EArgs)
  | treeMake (a : EArgs)
  | treeFree (a : EArgs)
  | treeFreeze (a : EArgs)
  | treeSave (a : EArgs)
  | treeLoad (a : EArgs)
  | treeEdit (a : EArgs)
  | treeThaw (a : EArgs)
  | treeQuery (a : EArgs)
  | wplan (a : EArgs)
  | etab (a : EArgs)
  -- reset, power and the map (01)
  | coldReset
  | warmReset
  | imageCheck
  | thermalLimit  -- (die temp : Nat)
  | graceTimerExpiry  -- (ctx : Nat)
  | ident
  | attest
  | keywrap
  | keyretire
  -- links (02)
  | creditBatchTimer  -- (rx : Nat)

  | wplanDrainDone
  | retuneLatchTimeout
  | darkIntervalEnd
  | relockTimeout
  -- experts and chunks (04)
  | ringReserve  -- (ring : W64)
  | ringCommit  -- (ring : W64)
  | chunkBoundary  -- (core : Nat)
  | liveBoundRead  -- (ctx : Nat)
  -- host queues and commands (05)
  | tailWordRead  -- (q : Nat)
  | commandAccept  -- (q : Nat)
  | queueEnable  -- (q : Nat)
  | queueDisable  -- (q : Nat)
  | dispatchDecision
  | completionRecord  -- (q : Nat)
  | journalReplay
  | nopCommand  -- (cmd : Nat)
  | launch  -- (cmd : Nat)
  | copyh  -- (cmd : Nat)
  | ctxsave  -- (cmd : Nat)
  | ctxload  -- (cmd : Nat)
  | variant  -- (cmd : Nat)
  | mapsetRemove  -- (cmd : Nat)
  | mapsetReturn  -- (cmd : Nat)
  | signal  -- (cmd : Nat)
  | waitv  -- (cmd : Nat)
  | waitvPoll  -- (cmd : Nat)
  | fenceCommand  -- (cmd : Nat)
  -- scheduler and sync engines (06, 14)
  | translationComplete  -- (entry : Nat)
  | taskDispatch  -- (die : Nat)
  | forcedSave  -- (ctx : Nat)
  | contextSave  -- (ctx : Nat) (why : Nat)
  | pendingLoadIntoImage  -- (slot : Nat)
  | taskEndDrainComplete  -- (ctx : Nat)
  | watchdogPreempt  -- (ctx : Nat)
  | watchdogKill  -- (ctx : Nat)
  | watchdogFence  -- (ctx : Nat)
  | inval
  | revoke
  | remap
  | retry
  | failpark
  | rendezvousAnswer  -- (ctx : Nat)
  | rdvtimeout  -- (ctx : Nat)
  -- cores and memory (07, 08, 09, 11)
  | codeFetch  -- (ctx : Nat)
  | resultLanding  -- (ctx : Nat)
  | loadDataArrival  -- (ctx op : Nat)
  | queuedAccessPerform  -- (ctx n : Nat)
  | correctedWriteback  -- (row : Nat)
  | reportTrap  -- (ctx : Nat)
  | segmentEntry  -- (ctx : Nat)
  | segmentRollback  -- (ctx : Nat)
  | matrixCommandStart  -- (core : Nat)
  | matrixCommandComplete  -- (core : Nat)
  | migratedResultReturn  -- (core : Nat)
  | guardRelease  -- (core : Nat)
  | unpickEntry  -- (core : Nat)
  | parityFillComplete  -- (group : Nat)
  | sealComplete  -- (group : Nat)
  | seal
  | lost
  | recctlGo
  | load
  | bind
  | unbind
  | halt
  | resume
  | step  -- (core : Nat)
  | go  -- (core : Nat)
  | streamEntryArrival  -- (ctx : Nat)
  -- the empty bundle and the control slot (12, 14)
  | cnop
  | ret
  | tend
  | trig
  | yield
  | mark
  | rft
  | rmack
  | dswap
  | baste
  | knot
  -- the memory, quantise, matrix, known-answer and engine slots (17 to 20)
  | flitAcknowledgement  -- (tx : Nat) (n : Nat)
  deriving DecidableEq, Repr

end Sys2Proof
end

