-- ==== Sys2Proof/WellFormed.lean ====
section
/-! DEFINITION. Which terms of `Instr` stand for an encoding that is not refused: the checks of R248 that need no
state. A slot operation whose fields fail its check has no encoding; the device's own steps carry no encoding. -/

namespace Sys2Proof

/-- Floating-point formats of the vector half: FP32, BF16, FP16 (R309). -/
def isFp (f : BitVec 4) : Bool := f == 0 || f == 1 || f == 2
/-- Integer formats of the vector half: I32, N32, I8, N8 (R316). -/
def isInt (f : BitVec 4) : Bool := f == 8 || f == 9 || f == 10 || f == 11
/-- 32-bit integer formats. -/
def isInt32 (f : BitVec 4) : Bool := f == 8 || f == 9
/-- Formats that VCVT converts between (R314). -/
def isCvt (f : BitVec 4) : Bool := isFp f || f == 3 || f == 4 || isInt f
/-- Width in bits of the elements of a format that is not a pleat format (R305). -/
def fmtWidth (f : Nat) : Nat := if f = 1 ∨ f = 2 then 16 else if f = 3 ∨ f = 4 ∨ f = 10 ∨ f = 11 then 8 else 32

/-- The ratio of two element widths (R314). -/
def widthRatio (d s : Nat) : Nat := max (fmtWidth d) (fmtWidth s) / min (fmtWidth d) (fmtWidth s)

/-- Encoding check of VCVT (R314). -/
def wfVcvt (a : VArgs) : Bool :=
  let d := a.fmt.toNat
  let s := a.vc.toNat % 16
  isCvt a.fmt && isCvt (BitVec.ofNat 4 s) && a.vb == 0 && a.vc.toNat / 64 == 0 && decide (a.vc.toNat / 16 < widthRatio d s) &&
    (!a.mod || d == 3 || d == 4 || (isInt a.fmt && isInt (BitVec.ofNat 4 s)))

/-- Encoding check of VCMP and VICMP (R312). -/
def wfVcmp (a : VArgs) : Bool := decide (a.vd.toNat < 16) && decide (a.vc.toNat < 5)

/-- Encoding check of the shifts (R317). -/
def wfVshift (a : VArgs) : Bool :=
  (isInt a.fmt || a.fmt == 12) && (if a.mod then a.vb == 0 && decide (a.vc.toNat < fmtWidth a.fmt.toNat) else a.vc == 0)

/-- One source, no alternate form. -/
def wfV1 (a : VArgs) : Bool := a.vb == 0 && a.vc == 0 && !a.mod
/-- Two sources, no alternate form. -/
def wfV2 (a : VArgs) : Bool := a.vc == 0 && !a.mod

/-- Encoding check of the guard logic opcodes (R323). -/
def wfG3 (a : VArgs) : Bool :=
  decide (a.vd.toNat < 16) && decide (a.va.toNat < 16) && decide (a.vb.toNat < 16) && a.vc == 0 && !a.mod && a.fmt == 0

/-- Registers V to V + ROWS exist (R328). -/
def wfRows (a : MArgs) : Bool := decide (a.v.toNat + a.rows.toNat ≤ 2047)
/-- Plain row moves outside the GS slot. -/
def wfMove (a : MArgs) : Bool := wfRows a && a.ext == 0 && a.mods == 0
/-- Encoding check of STASH and PSTASH (R329). -/
def wfStash (a : MArgs) : Bool :=
  wfRows a && (isCvt a.ext || a.ext == 12) && decide (a.mods.toNat < 128 / fmtWidth a.ext.toNat)
/-- Encoding check of ATOM and ATOMR (R267, R331, R332). -/
def wfAtom (a : MArgs) : Bool :=
  decide (a.mods.toNat ≤ 12) && decide (a.rows.toNat ≤ 1) && !(a.mods == 1 && a.rows == 1) &&
    !(a.mods == 10 && a.v == 2047)
/-- Encoding check of QLD and QSCAT that needs no descriptor (R328, R334: F is at least 1). -/
def wfQuilt (a : MArgs) : Bool := a.mods == 0 && a.rows == 0 && decide (a.v.toNat + 8 ≤ 2047)

/-- Field [hi:lo] of an SQ parcel, lo counted from bit 0 of the parcel (R337). -/
def QArgs.field (a : QArgs) (lo n : Nat) : Nat := bitsOf a.ops.toNat (lo - 11) n
/-- Bytes of a pleat block with mantissa code m: P7 18, P4 12, P2 8 (R195). -/
def blockBytes (m : Nat) : Nat := if m = 1 then 18 else if m = 2 then 12 else 8
/-- Encoding check of QCVT and QSTEP (R337). -/
def wfQ (a : QArgs) : Bool :=
  decide (a.field 26 2 ≠ 0) && decide (a.field 11 11 + 1 ≤ 2047) &&
    decide (2 * blockBytes (a.field 26 2) * (a.field 29 3 + 1) ≤ 128)

/-- Format pairs of TMUL and TMULS (R342). -/
def wfPair (a : XArgs) : Bool :=
  (a.fmta == 1 && a.fmtb == 1) || ((a.fmta == 3 || a.fmta == 4) && (a.fmtb == 3 || a.fmtb == 4)) ||
    (a.fmta == 5 && a.fmtb == 5) || (a.fmta == 6 && a.fmtb == 6) || (a.fmta == 7 && a.fmtb == 7)
/-- Fields of TMUL and TMULS (R344). -/
def wfMul (a : XArgs) : Bool :=
  wfPair a && a.fn == 0 && (!a.ga || a.arow == 0) && (!a.gb || a.brow == 0)
/-- Fields that every other MX opcode leaves zero (R344). -/
def wfX (a : XArgs) : Bool := a.pi == 0 && !a.m && !a.ga && !a.gb && a.fmtb == 0 && a.brow == 0

/-- Encoding check of an EC parcel other than POST and XCHG (R355). -/
def wfE (a : EArgs) : Bool := !a.pri

/-- The check of R248 that needs no state, for every slot operation. -/
def Instr.wf : Instr → Bool
  | .fence scope _ => decide (scope.toNat < 6)
  | .trap cause _ => decide (1 ≤ cause.toNat) && decide (cause.toNat ≤ 0x18) && cause != 0x0F && cause != 0x16
  | .clz a | .popc a => a.sb == 0
  | .shli a | .shri a | .srai a => decide (a.imm.toNat < 64)
  | .cmpeq a | .cmplt a | .cmpltu a => decide (a.sd.toNat < 32)
  | .cmpeqi a | .cmplti a => decide (a.sd.toNat < 32)
  | .ixr a => a.sa == 0 && decide (a.imm.toNat < 6)
  | .elen a => a.sa == 0 && decide (a.imm.toNat < 16)
  | .elenPiece a => a.sa == 0 && decide (16 ≤ a.imm.toNat) && decide (a.imm.toNat < 32)
  | .vadd a | .vsub a | .vmul a | .vmin a | .vmax a | .vscalb a => isFp a.fmt && wfV2 a
  | .vfma a | .vfms a | .vfnma a => isFp a.fmt && !a.mod
  | .vabs a | .vneg a => isFp a.fmt && wfV1 a
  | .vrnd a => isFp a.fmt && a.vb == 0 && a.vc == 0
  | .vcmp a => a.fmt == 0 && wfVcmp a
  | .vicmp a => isInt32 a.fmt && wfVcmp a && a.vc != 3
  | .vsel a => a.fmt == 0 && wfV2 a
  | .vcvt a => wfVcvt a
  | .vexp2 a | .vlog2 a | .vrcp a | .vrsqrt a | .vsqrt a | .vtanh a | .vsigm a | .vexp a => a.fmt == 0 && wfV1 a
  | .viadd a | .viadds a | .vimin a | .vimax a => isInt a.fmt && wfV2 a
  | .visub a => isInt a.fmt && a.vc == 0
  | .vimul a => isInt32 a.fmt && a.vc == 0
  | .vimad a => isInt32 a.fmt
  | .vand a | .vor a | .vxor a => (a.fmt == 0 || a.fmt == 12) && wfV2 a
  | .vshl a | .vshr a | .vsra a => wfVshift a
  | .vmov a | .vpack a | .vunpk a => a.fmt == 0 && wfV1 a
  | .vbcast a => a.fmt == 0 && a.vb == 0 && decide (a.vc.toNat < 32) && !a.mod
  | .vbcastI a => a.fmt == 0 && a.va == 0 && a.vb == 0 && a.mod
  | .vext a => a.fmt == 0 && decide (a.vc.toNat < 32) && !a.mod
  | .vins a => a.fmt == 0 && a.vb == 0 && decide (a.vc.toNat < 1024) && !a.mod
  | .vperm a => a.fmt == 0 && wfV2 a
  | .vpermX a => a.fmt == 0 && a.mod
  | .vrot a => a.fmt == 0 && a.vb == 0 && decide (a.vc.toNat < 32) && !a.mod
  | .vrotV a => a.fmt == 0 && a.vc == 0 && a.mod
  | .vrmrg a => a.fmt == 0 && decide (a.vc.toNat < 128) && !a.mod
  | .vrmrgV a => a.fmt == 0 && a.mod
  | .vzip a | .vunzip a => a.fmt == 0 && a.vc == 0
  | .vlane a => a.fmt == 0 && a.va == 0 && a.vb == 0 && !a.mod
  | .vlaneMul a => a.fmt == 0 && a.va == 0 && a.vb == 0 && a.mod
  | .vxs a => a.fmt == 0 && decide (a.vd.toNat < 64) && a.vb == 0 && decide (a.vc.toNat < 32) &&
      (!a.mod || a.vc.toNat % 2 == 0)
  | .vrsum a | .vramax a => a.fmt == 0 && wfV1 a
  | .vrmax a | .vrmin a => (a.fmt == 0 || isInt32 a.fmt) && wfV1 a
  | .vrisum a => isInt32 a.fmt && a.vb == 0 && a.vc == 0
  | .gand a | .gor a | .gxor a | .gandn a => wfG3 a
  | .gcnt a => (a.fmt == 0 || a.fmt == 8) && decide (a.va.toNat < 16) && a.vb == 0 && a.vc == 0
  | .gset a => a.fmt == 0 && decide (a.vd.toNat < 16) && wfV1 a
  | .gsetN a => a.fmt == 0 && decide (a.vd.toNat < 16) && a.va == 0 && a.vb == 0 && decide (a.vc.toNat ≤ 32) && a.mod
  | .vrng a => (a.fmt == 0 || a.fmt == 12) && a.va == 0 && wfV1 a
  | .vrngf a => a.fmt == 0 && a.va == 0 && wfV1 a
  | .ldr a | .str a | .pld a | .pst a => wfMove a
  | .ldrs a | .strs a => wfRows a && a.ext == 0
  | .stash a | .pstash a => wfStash a
  | .stmc a => a.ext == 0 && a.mods == 0 && a.rows == 0 && decide (a.off.toNat < 256)
  | .gld a | .gst a => wfRows a && a.mods == 0
  | .glds a | .gsts a => wfRows a
  | .qld a | .qscat a => wfQuilt a
  | .atom a | .atomr a => wfAtom a
  | .scld a | .scst a => a.field 29 3 == 0
  | .scmov a => a.field 22 10 == 0
  | .scmovToVector a => a.field 22 10 == 1
  | .qmax a => a.field 26 6 == 0
  | .qcvt a | .qstep a => wfQ a && a.field 28 1 == 0
  | .qcvtDec a => wfQ a && a.field 28 1 == 1 && a.field 22 4 == 0
  | .tmul a | .tmuls a => wfMul a
  | .tzero a => wfX a && a.fmta == 0 && !a.acc && a.arow == 0 && a.s == 0 && a.fn == 0
  | .tlda a => wfX a && (a.fmta == 0 || a.fmta == 1) && a.s == 0 && a.fn == 0
  | .tsta a => wfX a && (a.fmta == 0 || a.fmta == 1 || a.fmta == 3 || a.fmta == 4) && !a.acc && a.s == 0 &&
      (a.fn == 0 || (a.fn == 1 && (a.fmta == 3 || a.fmta == 4)))
  | .ta2v a => wfX a && a.fmta == 0 && !a.acc && decide (a.arow.toNat + 31 ≤ 2047) && a.s == 0 && a.fn == 0
  | .tv2a a => wfX a && a.fmta == 0 && decide (a.arow.toNat + 31 ≤ 2047) && a.s == 0 && a.fn == 0
  | .tadd a | .ttrans a | .tcopy a => wfX a && a.fmta == 0 && !a.acc && decide (a.arow.toNat < 8) && a.s == 0 && a.fn == 0
  | .tscale a => wfX a && a.fmta == 0 && !a.acc && a.arow == 0 && a.fn == 0
  | .tbias a => wfX a && (a.fmta == 0 || a.fmta == 1) && !a.acc && a.s == 0 && decide (a.fn.toNat < 2)
  | .tact a => wfX a && a.fmta == 0 && !a.acc && a.arow == 0 && a.s == 0 && decide (a.fn.toNat < 5)
  | .tred a => wfX a && a.fmta == 0 && !a.acc && a.s == 0 && decide (a.fn.toNat < 5)
  | .tnorm a => wfX a && a.fmta == 0 && !a.acc && a.arow == 0 && decide (a.fn.toNat < 2)
  | .kat pattern _ _ => decide (pattern.toNat < 4)
  | .copy a | .offl a | .onld a | .pub a | .esend a | .dictld a | .unpick a | .ckpt a | .drain a | .treeMake a
  | .treeFree a | .treeFreeze a | .treeSave a | .treeLoad a | .treeEdit a | .treeThaw a | .treeQuery a | .wplan a
  | .etab a => wfE a
  | .newImageAccept .. | .arrayTest .. | .coreSelfTest .. | .memoryTest .. | .linkBringup ..
  | .powerMeasurement .. | .mapEvent .. | .flitArbitration .. | .write .. | .read .. | .atomic .. | .resp ..
  | .mapnote .. | .credit .. | .drainMarker .. | .slotLock .. | .treeup .. | .refill .. | .refillAnswer ..
  | .slotInstall .. | .treeCredit .. | .seamTimeout .. | .lateMark .. | .treedown .. | .deliveryStatus ..
  | .postCompletionNotice .. | .expert .. | .commitAcknowledgement .. | .engineAccept ..
  | .engineCommandComplete .. | .mapsetRetestDone .. | .syncStore .. | .syncDec .. | .syncAtomic ..
  | .rendezvousArrival .. | .hostMemoryAccess .. | .migrate .. | .dbgcfgModeWrite .. | .einjcWrite ..
  | .accownWrite .. | .katcfgWrite .. | .ttabWrite .. | .rngselWrite .. | .registerWrite .. | .emptyBundle ..
  | .br .. | .brz .. | .brnz .. | .brg .. | .jmp .. | .call .. | .loop .. | .loopbrk .. | .twait .. | .tsig ..
  | .tspawn .. | .rdv .. | .fset .. | .fclr .. | .csrr .. | .csrw .. | .bkpt .. | .rot .. | .snop .. | .add ..
  | .sub .. | .addi .. | .li .. | .lui .. | .mul .. | .mulh .. | .mulhu .. | .div .. | .divu .. | .rem ..
  | .remu .. | .and .. | .or .. | .xor .. | .andi .. | .ori .. | .xori .. | .shl .. | .shr .. | .sra ..
  | .min .. | .max .. | .minu .. | .maxu .. | .sel .. | .bfx .. | .bfi .. | .vnop .. | .nop .. | .post ..
  | .xchg .. | .coldReset | .warmReset | .imageCheck | .thermalLimit .. | .graceTimerExpiry .. | .ident
  | .attest | .keywrap | .keyretire | .creditBatchTimer .. | .nak .. | .drainAnswer .. | .wplanDrainDone
  | .retuneLatchTimeout | .darkIntervalEnd | .relockTimeout | .ringReserve .. | .ringCommit ..
  | .chunkBoundary .. | .liveBoundRead .. | .tailWordRead .. | .commandAccept .. | .queueEnable ..
  | .queueDisable .. | .dispatchDecision | .completionRecord .. | .journalReplay | .nopCommand .. | .launch ..
  | .copyh .. | .ctxsave .. | .ctxload .. | .variant .. | .mapsetRemove .. | .mapsetReturn .. | .signal ..
  | .waitv .. | .waitvPoll .. | .fenceCommand .. | .translationComplete .. | .taskDispatch .. | .forcedSave ..
  | .contextSave .. | .pendingLoadIntoImage .. | .taskEndDrainComplete .. | .watchdogPreempt ..
  | .watchdogKill .. | .watchdogFence .. | .inval | .revoke | .remap | .retry | .failpark | .rendezvousAnswer ..
  | .rdvtimeout .. | .codeFetch .. | .resultLanding .. | .loadDataArrival .. | .queuedAccessPerform ..
  | .correctedWriteback .. | .reportTrap .. | .segmentEntry .. | .segmentRollback .. | .matrixCommandStart ..
  | .matrixCommandComplete .. | .migratedResultReturn .. | .guardRelease .. | .unpickEntry ..
  | .parityFillComplete .. | .sealComplete .. | .seal | .lost | .recctlGo | .load | .bind | .unbind | .halt
  | .resume | .step .. | .go .. | .streamEntryArrival .. | .cnop | .ret | .tend | .trig | .yield | .mark | .rft
  | .rmack | .dswap | .baste | .knot | .flitAcknowledgement .. => true

/-- A term that stands for an instruction the device accepts. -/
def Instr.WellFormed (i : Instr) : Prop := i.wf = true

end Sys2Proof
end

