-- ==== Sys2Proof/Decode.lean ====
section
/-! DEFINITION. Decoding of bundles (R235 to R251) and, after it, the encoder. Fields are pulled out of numbers here,
once. A slot that holds no instruction decodes to nothing: the caller traps ILLEGAL (R248). -/

namespace Sys2Proof

/-! Layouts: from a parcel's number to its fields. -/

/-- Register form of the scalar half (R241). -/
def decR (p : PSlot) (gd : Gd) (w : Nat) : RArgs :=
  ⟨p, gd, BitVec.ofNat 6 (w / 2 ^ 8), BitVec.ofNat 6 (w / 2 ^ 14), BitVec.ofNat 6 (w / 2 ^ 20)⟩
/-- Immediate form of the scalar half (R241). -/
def decI (p : PSlot) (gd : Gd) (w : Nat) : IArgs :=
  ⟨p, gd, BitVec.ofNat 6 (w / 2 ^ 8), BitVec.ofNat 6 (w / 2 ^ 14), BitVec.ofNat 12 (w / 2 ^ 20)⟩
/-- Long-immediate form of the scalar half (R241). -/
def decL (p : PSlot) (gd : Gd) (w : Nat) : LArgs := ⟨p, gd, BitVec.ofNat 6 (w / 2 ^ 8), BitVec.ofNat 18 (w / 2 ^ 14)⟩
/-- The pair's guard field, from the vector half (R242, R243). -/
def decGd (w : Nat) : Gd := ⟨BitVec.ofNat 4 (w / 2 ^ 10), w / 2 ^ 14 % 2 == 1⟩
/-- The vector half (R242). -/
def decV (p : PSlot) (w : Nat) : VArgs :=
  ⟨p, decGd w, BitVec.ofNat 4 (w / 2 ^ 60), BitVec.ofNat 11 (w / 2 ^ 49), BitVec.ofNat 11 (w / 2 ^ 38),
    BitVec.ofNat 11 (w / 2 ^ 27), BitVec.ofNat 11 (w / 2 ^ 16), w / 2 ^ 15 % 2 == 1⟩
/-- A memory-slot parcel (R244). -/
def decM (w : Nat) : MArgs :=
  ⟨⟨BitVec.ofNat 4 (w / 2 ^ 54), w / 2 ^ 58 % 2 == 1⟩, BitVec.ofNat 5 (w / 2 ^ 59), BitVec.ofNat 4 (w / 2 ^ 50),
    BitVec.ofNat 20 (w / 2 ^ 30), BitVec.ofNat 6 (w / 2 ^ 24), BitVec.ofNat 3 (w / 2 ^ 21), BitVec.ofNat 11 (w / 2 ^ 10),
    BitVec.ofNat 4 (w / 2 ^ 6)⟩
/-- An MX parcel (R245). -/
def decX (w : Nat) : XArgs :=
  ⟨BitVec.ofNat 5 (w / 2 ^ 59), BitVec.ofNat 6 (w / 2 ^ 53), w / 2 ^ 52 % 2 == 1, w / 2 ^ 51 % 2 == 1,
    w / 2 ^ 50 % 2 == 1, BitVec.ofNat 2 (w / 2 ^ 48), BitVec.ofNat 15 (w / 2 ^ 33), BitVec.ofNat 15 (w / 2 ^ 18),
    w / 2 ^ 17 % 2 == 1, BitVec.ofNat 3 (w / 2 ^ 14), BitVec.ofNat 4 (w / 2 ^ 10), BitVec.ofNat 4 (w / 2 ^ 6)⟩
/-- An SQ parcel (R246). -/
def decQ (w : Nat) : QArgs := ⟨BitVec.ofNat 21 (w / 2 ^ 11), BitVec.ofNat 5 (w / 2 ^ 6)⟩
/-- An EC parcel (R246, R355). -/
def decE (w : Nat) : EArgs :=
  ⟨w / 2 ^ 31 % 2 == 1, BitVec.ofNat 4 (w / 2 ^ 27), BitVec.ofNat 15 (w / 2 ^ 12), BitVec.ofNat 6 (w / 2 ^ 6)⟩

/-! Opcodes: from a parcel's number to a term, before the field checks of `Instr.wf`. -/

/-- The control slot (R240, R263, R273). -/
def rawC (w : Nat) : Option Instr :=
  let s : BitVec 6 := BitVec.ofNat 6 (w / 2 ^ 8)
  match w % 2 ^ 8 with
  | 0x00 => if w = 0 then some .cnop else none
  | 0x01 => some (.br (BitVec.ofNat 24 (w / 2 ^ 8)))
  | 0x02 => some (.brz s (BitVec.ofNat 18 (w / 2 ^ 14)))
  | 0x03 => some (.brnz s (BitVec.ofNat 18 (w / 2 ^ 14)))
  | 0x04 => some (.brg (BitVec.ofNat 4 (w / 2 ^ 8)) (w / 2 ^ 12 % 2 == 1) (BitVec.ofNat 19 (w / 2 ^ 13)))
  | 0x05 => if w / 2 ^ 14 = 0 then some (.jmp s) else none
  | 0x06 => some (.call (BitVec.ofNat 24 (w / 2 ^ 8)))
  | 0x07 => if w / 2 ^ 8 = 0 then some .ret else none
  | 0x08 => some (.loop s (BitVec.ofNat 4 (w / 2 ^ 14)) (BitVec.ofNat 14 (w / 2 ^ 18)))
  | 0x09 => if w / 2 ^ 13 = 0 then some (.loopbrk (BitVec.ofNat 4 (w / 2 ^ 8)) (w / 2 ^ 12 % 2 == 1)) else none
  | 0x0A => if w / 2 ^ 8 = 0 then some .tend else none
  | 0x0B => some (.twait s (BitVec.ofNat 18 (w / 2 ^ 14)))
  | 0x0C => if w / 2 ^ 14 = 0 then some (.tsig s) else none
  | 0x0D => some (.tspawn s (BitVec.ofNat 18 (w / 2 ^ 14)))
  | 0x0E => if w / 2 ^ 8 = 0 then some .trig else none
  | 0x0F => if w / 2 ^ 8 = 0 then some .yield else none
  | 0x10 => if w / 2 ^ 20 = 0 then some (.rdv s (BitVec.ofNat 6 (w / 2 ^ 14))) else none
  | 0x11 => if w / 2 ^ 8 = 0 then some .mark else none
  | 0x12 => if w / 2 ^ 24 = 0 then some (.fset (BitVec.ofNat 16 (w / 2 ^ 8))) else none
  | 0x13 => if w / 2 ^ 24 = 0 then some (.fclr (BitVec.ofNat 16 (w / 2 ^ 8))) else none
  | 0x14 => if w / 2 ^ 13 = 0 then some (.fence (BitVec.ofNat 3 (w / 2 ^ 8)) (BitVec.ofNat 2 (w / 2 ^ 11))) else none
  | 0x15 => some (.trap (BitVec.ofNat 8 (w / 2 ^ 8)) (BitVec.ofNat 16 (w / 2 ^ 16)))
  | 0x16 => if w / 2 ^ 8 = 0 then some .rft else none
  | 0x17 => if w / 2 ^ 26 = 0 then some (.csrr s (BitVec.ofNat 12 (w / 2 ^ 14))) else none
  | 0x18 => if w / 2 ^ 26 = 0 then some (.csrw s (BitVec.ofNat 12 (w / 2 ^ 14))) else none
  | 0x19 => if w / 2 ^ 8 = 0 then some .rmack else none
  | 0x1A => some (.bkpt (BitVec.ofNat 24 (w / 2 ^ 8)))
  | 0x1B => if w / 2 ^ 8 = 0 then some .dswap else none
  | 0x1C => if w / 2 ^ 18 = 0 then some (.rot (BitVec.ofNat 10 (w / 2 ^ 8))) else none
  | 0x1D => if w / 2 ^ 8 = 0 then some .baste else none
  | 0x1E => if w / 2 ^ 8 = 0 then some .knot else none
  | _ => none

/-- The scalar half (R241, R264); `gd` is the pair's guard (R243). -/
def rawS (p : PSlot) (gd : Gd) (w : Nat) : Option Instr :=
  let r := decR p gd w
  let i := decI p gd w
  let l := decL p gd w
  let reg (x : RArgs → Instr) : Option Instr := if w / 2 ^ 26 = 0 then some (x r) else none
  match w % 2 ^ 8 with
  | 0x00 => if w = 0 then some (.snop p gd) else none
  | 0x01 => reg .add
  | 0x02 => reg .sub
  | 0x03 => some (.addi i)
  | 0x04 => some (.li l)
  | 0x05 => some (.lui l)
  | 0x06 => reg .mul
  | 0x07 => reg .mulh
  | 0x08 => reg .mulhu
  | 0x09 => reg .div
  | 0x0A => reg .divu
  | 0x0B => reg .rem
  | 0x0C => reg .remu
  | 0x0D => reg .and
  | 0x0E => reg .or
  | 0x0F => reg .xor
  | 0x10 => some (.andi i)
  | 0x11 => some (.ori i)
  | 0x12 => some (.xori i)
  | 0x13 => reg .shl
  | 0x14 => reg .shr
  | 0x15 => reg .sra
  | 0x16 => some (.shli i)
  | 0x17 => some (.shri i)
  | 0x18 => some (.srai i)
  | 0x19 => reg .min
  | 0x1A => reg .max
  | 0x1B => reg .minu
  | 0x1C => reg .maxu
  | 0x1D => reg .sel
  | 0x1E => reg .cmpeq
  | 0x1F => reg .cmplt
  | 0x20 => reg .cmpltu
  | 0x21 => some (.cmpeqi i)
  | 0x22 => some (.cmplti i)
  | 0x23 => reg .clz
  | 0x24 => reg .popc
  | 0x25 => some (.bfx i)
  | 0x26 => some (.bfi i)
  | 0x27 => some (.ixr i)
  | 0x28 => some (if i.imm.toNat < 16 then .elen i else .elenPiece i)
  | _ => none

/-- The vector half (R242, R265). -/
def rawV (p : PSlot) (w : Nat) : Option Instr :=
  let a := decV p w
  match w % 2 ^ 10 with
  | 0x000 => if w / 2 ^ 15 = 0 then some (.vnop p (decGd w)) else none
  | 0x001 => some (.vadd a)
  | 0x002 => some (.vsub a)
  | 0x003 => some (.vmul a)
  | 0x004 => some (.vfma a)
  | 0x005 => some (.vfms a)
  | 0x006 => some (.vfnma a)
  | 0x007 => some (.vmin a)
  | 0x008 => some (.vmax a)
  | 0x009 => some (.vabs a)
  | 0x00A => some (.vneg a)
  | 0x00B => some (.vcmp a)
  | 0x00C => some (.vsel a)
  | 0x00D => some (.vcvt a)
  | 0x00E => some (.vrnd a)
  | 0x00F => some (.vscalb a)
  | 0x010 => some (.vexp2 a)
  | 0x011 => some (.vlog2 a)
  | 0x012 => some (.vrcp a)
  | 0x013 => some (.vrsqrt a)
  | 0x014 => some (.vsqrt a)
  | 0x015 => some (.vtanh a)
  | 0x016 => some (.vsigm a)
  | 0x017 => some (.vexp a)
  | 0x020 => some (.viadd a)
  | 0x021 => some (.visub a)
  | 0x022 => some (.viadds a)
  | 0x023 => some (.vimul a)
  | 0x024 => some (.vimad a)
  | 0x025 => some (.vand a)
  | 0x026 => some (.vor a)
  | 0x027 => some (.vxor a)
  | 0x028 => some (.vshl a)
  | 0x029 => some (.vshr a)
  | 0x02A => some (.vsra a)
  | 0x02B => some (.vimin a)
  | 0x02C => some (.vimax a)
  | 0x02D => some (.vicmp a)
  | 0x030 => some (.vmov a)
  | 0x031 => some (if a.mod then .vbcastI a else .vbcast a)
  | 0x032 => some (.vext a)
  | 0x033 => some (.vins a)
  | 0x034 => some (if a.mod then .vpermX a else .vperm a)
  | 0x035 => some (if a.mod then .vrotV a else .vrot a)
  | 0x036 => some (if a.mod then .vrmrgV a else .vrmrg a)
  | 0x037 => some (.vpack a)
  | 0x038 => some (.vunpk a)
  | 0x039 => some (.vzip a)
  | 0x03A => some (.vunzip a)
  | 0x03B => some (if a.mod then .vlaneMul a else .vlane a)
  | 0x03C => some (.vxs a)
  | 0x040 => some (.vrsum a)
  | 0x041 => some (.vrmax a)
  | 0x042 => some (.vrmin a)
  | 0x043 => some (.vramax a)
  | 0x044 => some (.vrisum a)
  | 0x048 => some (.gand a)
  | 0x049 => some (.gor a)
  | 0x04A => some (.gxor a)
  | 0x04B => some (.gandn a)
  | 0x04C => some (.gcnt a)
  | 0x04D => some (if a.mod then .gsetN a else .gset a)
  | 0x050 => some (.vrng a)
  | 0x051 => some (.vrngf a)
  | _ => none

/-- The LS slot (R266). -/
def rawLS (w : Nat) : Option Instr :=
  let a := decM w
  match w % 2 ^ 6 with
  | 0x00 => if w = 0 then some (.nop .ls) else none
  | 0x01 => some (.ldr a)
  | 0x02 => some (.ldrs a)
  | _ => none

/-- The SS slot (R266). -/
def rawSS (w : Nat) : Option Instr :=
  let a := decM w
  match w % 2 ^ 6 with
  | 0x00 => if w = 0 then some (.nop .ss) else none
  | 0x01 => some (.str a)
  | 0x02 => some (.strs a)
  | 0x03 => some (.stash a)
  | 0x04 => some (.stmc a)
  | _ => none

/-- The PS slot (R266). -/
def rawPS (w : Nat) : Option Instr :=
  let a := decM w
  match w % 2 ^ 6 with
  | 0x00 => if w = 0 then some (.nop .ps) else none
  | 0x01 => some (.pld a)
  | 0x02 => some (.pst a)
  | 0x03 => some (.pstash a)
  | _ => none

/-- The GS slot (R266). -/
def rawGS (w : Nat) : Option Instr :=
  let a := decM w
  match w % 2 ^ 6 with
  | 0x00 => if w = 0 then some (.nop .gs) else none
  | 0x01 => some (.gld a)
  | 0x02 => some (.gst a)
  | 0x03 => some (.glds a)
  | 0x04 => some (.gsts a)
  | 0x05 => some (.qld a)
  | 0x06 => some (.qscat a)
  | 0x07 => some (.atom a)
  | 0x08 => some (.atomr a)
  | _ => none

/-- The MX slot (R268). -/
def rawMX (w : Nat) : Option Instr :=
  let a := decX w
  match w % 2 ^ 6 with
  | 0x00 => if w = 0 then some (.nop .mx) else none
  | 0x01 => some (.tmul a)
  | 0x02 => some (.tmuls a)
  | 0x03 => some (.tzero a)
  | 0x04 => some (.tlda a)
  | 0x05 => some (.tsta a)
  | 0x06 => some (.ta2v a)
  | 0x07 => some (.tv2a a)
  | 0x08 => some (.tadd a)
  | 0x09 => some (.tscale a)
  | 0x0A => some (.tbias a)
  | 0x0B => some (.tact a)
  | 0x0C => some (.tred a)
  | 0x0D => some (.ttrans a)
  | 0x0E => some (.tnorm a)
  | 0x0F => some (.tcopy a)
  | _ => none

/-- The SQ slot (R269, R337): the direction bit of SCMOV and the DEC bit of QCVT name constructors of their own. -/
def rawSQ (w : Nat) : Option Instr :=
  let a := decQ w
  match w % 2 ^ 6 with
  | 0x00 => if w = 0 then some (.nop .sq) else none
  | 0x01 => some (.scld a)
  | 0x02 => some (.scst a)
  | 0x03 => some (if a.field 22 1 = 1 then .scmovToVector a else .scmov a)
  | 0x04 => some (.qmax a)
  | 0x05 => some (if a.field 28 1 = 1 then .qcvtDec a else .qcvt a)
  | 0x06 => some (.qstep a)
  | _ => none

/-- The EC slot (R269). -/
def rawEC (w : Nat) : Option Instr :=
  let a := decE w
  match w % 2 ^ 6 with
  | 0x00 => if w = 0 then some (.nop .ec) else none
  | 0x01 => some (.copy a)
  | 0x02 => some (.offl a)
  | 0x03 => some (.onld a)
  | 0x04 => some (.pub a)
  | 0x05 => some (.post a)
  | 0x06 => some (.xchg a)
  | 0x07 => some (.esend a)
  | 0x08 => some (.dictld a)
  | 0x09 => some (.unpick a)
  | 0x0A => some (.ckpt a)
  | 0x0B => some (.drain a)
  | 0x0C => some (.treeMake a)
  | 0x0D => some (.treeFree a)
  | 0x0E => some (.treeFreeze a)
  | 0x0F => some (.treeSave a)
  | 0x10 => some (.treeLoad a)
  | 0x11 => some (.treeEdit a)
  | 0x12 => some (.treeThaw a)
  | 0x13 => some (.treeQuery a)
  | 0x14 => some (.wplan a)
  | 0x15 => some (.etab a)
  | _ => none

/-- The KT slot (R246, R353). -/
def rawKT (w : Nat) : Option Instr :=
  match w % 2 ^ 6 with
  | 0x00 => if w = 0 then some (.nop .kt) else none
  | 0x01 => if w / 2 ^ 26 % 2 ^ 6 = 0 then
      some (.kat (BitVec.ofNat 4 (w / 2 ^ 6)) (BitVec.ofNat 16 (w / 2 ^ 10)) (BitVec.ofNat 32 (w / 2 ^ 32))) else none
  | _ => none

/-- The accepted term, or nothing where a field check refuses it (R248). -/
def accepted (o : Option Instr) : Option Instr := o.bind fun i => if i.wf then some i else none

/-- The two halves of a pair slot (R236, R243). -/
def decPair (p : PSlot) (scalar vector : Nat) : Option (List Instr) :=
  (accepted (rawS p (decGd vector) scalar)).bind fun s => (accepted (rawV p vector)).map fun v => [s, v]

/-- Parcels of each slot, by MASK bit (R236). -/
def slotWidth (bit : Nat) : Nat := if bit = 1 ∨ bit = 2 then 3 else if bit = 0 ∨ bit = 8 ∨ bit = 9 then 1 else 2

/-- The instructions of one slot: MASK bit and the slot's value, parcel k in bits [32k + 31 : 32k] (R236). -/
def decSlot (bit v : Nat) : Option (List Instr) :=
  match bit with
  | 0 => (accepted (rawC v)).map fun i => [i]
  | 1 => decPair .p0 (v % 2 ^ 32) (v / 2 ^ 32)
  | 2 => decPair .p1 (v % 2 ^ 32) (v / 2 ^ 32)
  | 3 => (accepted (rawLS v)).map fun i => [i]
  | 4 => (accepted (rawSS v)).map fun i => [i]
  | 5 => (accepted (rawPS v)).map fun i => [i]
  | 6 => (accepted (rawGS v)).map fun i => [i]
  | 7 => (accepted (rawMX v)).map fun i => [i]
  | 8 => (accepted (rawSQ v)).map fun i => [i]
  | 9 => (accepted (rawEC v)).map fun i => [i]
  | 10 => (accepted (rawKT v)).map fun i => [i]
  | _ => none

/-- A bundle header (R235). -/
structure Hdr where
  seg : Bool
  wf : BitVec 16
  mask : Nat
  deriving DecidableEq, Repr

/-- The fields of a header parcel. -/
def decHdr (h : Nat) : Hdr := ⟨h / 2 ^ 28 % 2 == 1, BitVec.ofNat 16 (h / 2 ^ 12), h % 2 ^ 12⟩

/-- slot_parcels(mask) of R251, over the bits listed. -/
def slotParcelsOf (mask : Nat) : List Nat → Nat
  | [] => 0
  | b :: bs => (if mask / 2 ^ b % 2 = 1 then slotWidth b else 0) + slotParcelsOf mask bs

/-- The eleven slots, in MASK order. -/
def slotBits : List Nat := [0, 1, 2, 3, 4, 5, 6, 7, 8, 9, 10]

/-- slot_parcels(mask) of R251. -/
def slotParcels (mask : Nat) : Nat := slotParcelsOf mask slotBits

/-- Whether a header is legal (R237, R248): bits [31:29] and MASK bit 11 zero, at most 11 slot parcels. -/
def hdrOk (h : Nat) : Bool := h / 2 ^ 29 % 8 == 0 && h / 2 ^ 11 % 2 == 0 && decide (slotParcels (h % 2 ^ 11) ≤ 11)

/-- The value of consecutive parcels, parcel k in bits [32k + 31 : 32k]. -/
def joinParcels : List W32 → Nat
  | [] => 0
  | p :: ps => p.toNat + 2 ^ 32 * joinParcels ps

/-- The slots present in a bundle with their values, in MASK order (R236, R251). -/
def slotsFrom (mask : Nat) : List Nat → List W32 → List (Nat × Nat)
  | [], _ => []
  | b :: bs, ps =>
    if mask / 2 ^ b % 2 = 1 then (b, joinParcels (ps.take (slotWidth b))) :: slotsFrom mask bs (ps.drop (slotWidth b))
    else slotsFrom mask bs ps

/-- The slots of a bundle given as its parcels, header first. -/
def bundleSlots (parcels : List W32) : List (Nat × Nat) :=
  match parcels with
  | [] => []
  | h :: ps => slotsFrom (h.toNat % 2 ^ 11) slotBits ps

/-- The instructions of every slot listed, in order. -/
def decSlots : List (Nat × Nat) → Option (List Instr)
  | [] => some []
  | (b, v) :: rest => (decSlot b v).bind fun is => (decSlots rest).map fun js => is ++ js

/-- The instructions of a bundle given as its parcels: an empty bundle is one instruction of its own (R235). -/
def decodeBundle (parcels : List W32) : Option (List Instr) :=
  match parcels with
  | [] => none
  | h :: ps =>
    if hdrOk h.toNat then
      if h.toNat % 2 ^ 12 = 0 then some [.emptyBundle (decHdr h.toNat).seg (decHdr h.toNat).wf]
      else decSlots (slotsFrom (h.toNat % 2 ^ 11) slotBits ps)
    else none

/-- Whether an instruction only fills its half or slot. -/
def Instr.isFiller : Instr → Bool
  | .snop _ _ | .vnop _ _ => true
  | _ => false

/-- The first instruction of a list that is no filler half, else the first. -/
def headInstr (is : List Instr) : Option Instr :=
  match is.find? (fun i => !i.isFiller) with
  | some i => some i
  | none => is.head?

/-- `n` parcels of a number, least significant first. -/
def parcelsOf (w : Nat) : Nat → List W32
  | 0 => []
  | n + 1 => BitVec.ofNat 32 w :: parcelsOf (w / 2 ^ 32) n

/-- The instruction that the decoder reads from a bundle whose bits are `w`, header first: the bits above `nbits` are
zero, up to the 12 parcels of the longest bundle (R235). -/
def decodeTableWord (nbits w : Nat) : Option Instr := (decodeBundle (parcelsOf (w % 2 ^ nbits) 12)).bind headInstr

/-! The encoder, from the same tables: the parcels of a bundle of one instruction. -/

def b2n (b : Bool) : Nat := if b then 1 else 0

def encR (op : Nat) (a : RArgs) : Nat := op + 2 ^ 8 * (a.sd.toNat + 2 ^ 6 * (a.sa.toNat + 2 ^ 6 * a.sb.toNat))
def encI (op : Nat) (a : IArgs) : Nat := op + 2 ^ 8 * (a.sd.toNat + 2 ^ 6 * (a.sa.toNat + 2 ^ 6 * a.imm.toNat))
def encL (op : Nat) (a : LArgs) : Nat := op + 2 ^ 8 * (a.sd.toNat + 2 ^ 6 * a.imm.toNat)
def encGd (gd : Gd) : Nat := 2 ^ 10 * (gd.g.toNat + 2 ^ 4 * b2n gd.inv)
def encV (op : Nat) (a : VArgs) : Nat :=
  op + 2 ^ 10 * (a.gd.g.toNat + 2 ^ 4 * (b2n a.gd.inv + 2 * (b2n a.mod + 2 * (a.vd.toNat + 2 ^ 11 * (a.va.toNat +
    2 ^ 11 * (a.vb.toNat + 2 ^ 11 * (a.vc.toNat + 2 ^ 11 * a.fmt.toNat)))))))
def encM (op : Nat) (a : MArgs) : Nat :=
  op + 2 ^ 6 * (a.lat.toNat + 2 ^ 4 * (a.v.toNat + 2 ^ 11 * (a.rows.toNat + 2 ^ 3 * (a.base.toNat + 2 ^ 6 *
    (a.off.toNat + 2 ^ 20 * (a.ext.toNat + 2 ^ 4 * (a.gd.g.toNat + 2 ^ 4 * (b2n a.gd.inv + 2 * a.mods.toNat))))))))
def encX (op : Nat) (a : XArgs) : Nat :=
  op + 2 ^ 6 * (a.fmta.toNat + 2 ^ 4 * (a.fmtb.toNat + 2 ^ 4 * (a.tile.toNat + 2 ^ 3 * (b2n a.acc + 2 *
    (a.arow.toNat + 2 ^ 15 * (a.brow.toNat + 2 ^ 15 * (a.pi.toNat + 2 ^ 2 * (b2n a.m + 2 * (b2n a.ga + 2 *
      (b2n a.gb + 2 * (a.s.toNat + 2 ^ 6 * a.fn.toNat)))))))))))
def encQ (op : Nat) (a : QArgs) : Nat := op + 2 ^ 6 * (a.k.toNat + 2 ^ 5 * a.ops.toNat)
def encE (op : Nat) (a : EArgs) : Nat :=
  op + 2 ^ 6 * (a.n.toNat + 2 ^ 6 * (a.off.toNat + 2 ^ 15 * (a.flag.toNat + 2 ^ 4 * b2n a.pri)))

/-- The control parcel (R240, R273). -/
def encC : Instr → Option Nat
  | .cnop => some 0
  | .br off => some (0x01 + 2 ^ 8 * off.toNat)
  | .brz s off => some (0x02 + 2 ^ 8 * (s.toNat + 2 ^ 6 * off.toNat))
  | .brnz s off => some (0x03 + 2 ^ 8 * (s.toNat + 2 ^ 6 * off.toNat))
  | .brg g inv off => some (0x04 + 2 ^ 8 * (g.toNat + 2 ^ 4 * (b2n inv + 2 * off.toNat)))
  | .jmp s => some (0x05 + 2 ^ 8 * s.toNat)
  | .call off => some (0x06 + 2 ^ 8 * off.toNat)
  | .ret => some 0x07
  | .loop base body off => some (0x08 + 2 ^ 8 * (base.toNat + 2 ^ 6 * (body.toNat + 2 ^ 4 * off.toNat)))
  | .loopbrk g inv => some (0x09 + 2 ^ 8 * (g.toNat + 2 ^ 4 * b2n inv))
  | .tend => some 0x0A
  | .twait s off => some (0x0B + 2 ^ 8 * (s.toNat + 2 ^ 6 * off.toNat))
  | .tsig s => some (0x0C + 2 ^ 8 * s.toNat)
  | .tspawn s off => some (0x0D + 2 ^ 8 * (s.toNat + 2 ^ 6 * off.toNat))
  | .trig => some 0x0E
  | .yield => some 0x0F
  | .rdv sa se => some (0x10 + 2 ^ 8 * (sa.toNat + 2 ^ 6 * se.toNat))
  | .mark => some 0x11
  | .fset m => some (0x12 + 2 ^ 8 * m.toNat)
  | .fclr m => some (0x13 + 2 ^ 8 * m.toNat)
  | .fence scope kind => some (0x14 + 2 ^ 8 * (scope.toNat + 2 ^ 3 * kind.toNat))
  | .trap cause code => some (0x15 + 2 ^ 8 * (cause.toNat + 2 ^ 8 * code.toNat))
  | .rft => some 0x16
  | .csrr s csr => some (0x17 + 2 ^ 8 * (s.toNat + 2 ^ 6 * csr.toNat))
  | .csrw s csr => some (0x18 + 2 ^ 8 * (s.toNat + 2 ^ 6 * csr.toNat))
  | .rmack => some 0x19
  | .bkpt imm => some (0x1A + 2 ^ 8 * imm.toNat)
  | .dswap => some 0x1B
  | .rot n => some (0x1C + 2 ^ 8 * n.toNat)
  | .baste => some 0x1D
  | .knot => some 0x1E
  | _ => none

/-- The scalar half and its pair slot and guard (R241, R264). -/
def encS : Instr → Option (PSlot × Gd × Nat)
  | .snop p gd => some (p, gd, 0)
  | .add a => some (a.p, a.gd, encR 0x01 a)
  | .sub a => some (a.p, a.gd, encR 0x02 a)
  | .addi a => some (a.p, a.gd, encI 0x03 a)
  | .li a => some (a.p, a.gd, encL 0x04 a)
  | .lui a => some (a.p, a.gd, encL 0x05 a)
  | .mul a => some (a.p, a.gd, encR 0x06 a)
  | .mulh a => some (a.p, a.gd, encR 0x07 a)
  | .mulhu a => some (a.p, a.gd, encR 0x08 a)
  | .div a => some (a.p, a.gd, encR 0x09 a)
  | .divu a => some (a.p, a.gd, encR 0x0A a)
  | .rem a => some (a.p, a.gd, encR 0x0B a)
  | .remu a => some (a.p, a.gd, encR 0x0C a)
  | .and a => some (a.p, a.gd, encR 0x0D a)
  | .or a => some (a.p, a.gd, encR 0x0E a)
  | .xor a => some (a.p, a.gd, encR 0x0F a)
  | .andi a => some (a.p, a.gd, encI 0x10 a)
  | .ori a => some (a.p, a.gd, encI 0x11 a)
  | .xori a => some (a.p, a.gd, encI 0x12 a)
  | .shl a => some (a.p, a.gd, encR 0x13 a)
  | .shr a => some (a.p, a.gd, encR 0x14 a)
  | .sra a => some (a.p, a.gd, encR 0x15 a)
  | .shli a => some (a.p, a.gd, encI 0x16 a)
  | .shri a => some (a.p, a.gd, encI 0x17 a)
  | .srai a => some (a.p, a.gd, encI 0x18 a)
  | .min a => some (a.p, a.gd, encR 0x19 a)
  | .max a => some (a.p, a.gd, encR 0x1A a)
  | .minu a => some (a.p, a.gd, encR 0x1B a)
  | .maxu a => some (a.p, a.gd, encR 0x1C a)
  | .sel a => some (a.p, a.gd, encR 0x1D a)
  | .cmpeq a => some (a.p, a.gd, encR 0x1E a)
  | .cmplt a => some (a.p, a.gd, encR 0x1F a)
  | .cmpltu a => some (a.p, a.gd, encR 0x20 a)
  | .cmpeqi a => some (a.p, a.gd, encI 0x21 a)
  | .cmplti a => some (a.p, a.gd, encI 0x22 a)
  | .clz a => some (a.p, a.gd, encR 0x23 a)
  | .popc a => some (a.p, a.gd, encR 0x24 a)
  | .bfx a => some (a.p, a.gd, encI 0x25 a)
  | .bfi a => some (a.p, a.gd, encI 0x26 a)
  | .ixr a => some (a.p, a.gd, encI 0x27 a)
  | .elen a => some (a.p, a.gd, encI 0x28 a)
  | .elenPiece a => some (a.p, a.gd, encI 0x28 a)
  | _ => none

/-- The vector half and its pair slot (R242, R265). -/
def encVec : Instr → Option (PSlot × Nat)
  | .vnop p gd => some (p, encGd gd)
  | .vadd a => some (a.p, encV 0x001 a)
  | .vsub a => some (a.p, encV 0x002 a)
  | .vmul a => some (a.p, encV 0x003 a)
  | .vfma a => some (a.p, encV 0x004 a)
  | .vfms a => some (a.p, encV 0x005 a)
  | .vfnma a => some (a.p, encV 0x006 a)
  | .vmin a => some (a.p, encV 0x007 a)
  | .vmax a => some (a.p, encV 0x008 a)
  | .vabs a => some (a.p, encV 0x009 a)
  | .vneg a => some (a.p, encV 0x00A a)
  | .vcmp a => some (a.p, encV 0x00B a)
  | .vsel a => some (a.p, encV 0x00C a)
  | .vcvt a => some (a.p, encV 0x00D a)
  | .vrnd a => some (a.p, encV 0x00E a)
  | .vscalb a => some (a.p, encV 0x00F a)
  | .vexp2 a => some (a.p, encV 0x010 a)
  | .vlog2 a => some (a.p, encV 0x011 a)
  | .vrcp a => some (a.p, encV 0x012 a)
  | .vrsqrt a => some (a.p, encV 0x013 a)
  | .vsqrt a => some (a.p, encV 0x014 a)
  | .vtanh a => some (a.p, encV 0x015 a)
  | .vsigm a => some (a.p, encV 0x016 a)
  | .vexp a => some (a.p, encV 0x017 a)
  | .viadd a => some (a.p, encV 0x020 a)
  | .visub a => some (a.p, encV 0x021 a)
  | .viadds a => some (a.p, encV 0x022 a)
  | .vimul a => some (a.p, encV 0x023 a)
  | .vimad a => some (a.p, encV 0x024 a)
  | .vand a => some (a.p, encV 0x025 a)
  | .vor a => some (a.p, encV 0x026 a)
  | .vxor a => some (a.p, encV 0x027 a)
  | .vshl a => some (a.p, encV 0x028 a)
  | .vshr a => some (a.p, encV 0x029 a)
  | .vsra a => some (a.p, encV 0x02A a)
  | .vimin a => some (a.p, encV 0x02B a)
  | .vimax a => some (a.p, encV 0x02C a)
  | .vicmp a => some (a.p, encV 0x02D a)
  | .vmov a => some (a.p, encV 0x030 a)
  | .vbcast a => some (a.p, encV 0x031 a)
  | .vbcastI a => some (a.p, encV 0x031 a)
  | .vext a => some (a.p, encV 0x032 a)
  | .vins a => some (a.p, encV 0x033 a)
  | .vperm a => some (a.p, encV 0x034 a)
  | .vpermX a => some (a.p, encV 0x034 a)
  | .vrot a => some (a.p, encV 0x035 a)
  | .vrotV a => some (a.p, encV 0x035 a)
  | .vrmrg a => some (a.p, encV 0x036 a)
  | .vrmrgV a => some (a.p, encV 0x036 a)
  | .vpack a => some (a.p, encV 0x037 a)
  | .vunpk a => some (a.p, encV 0x038 a)
  | .vzip a => some (a.p, encV 0x039 a)
  | .vunzip a => some (a.p, encV 0x03A a)
  | .vlane a => some (a.p, encV 0x03B a)
  | .vlaneMul a => some (a.p, encV 0x03B a)
  | .vxs a => some (a.p, encV 0x03C a)
  | .vrsum a => some (a.p, encV 0x040 a)
  | .vrmax a => some (a.p, encV 0x041 a)
  | .vrmin a => some (a.p, encV 0x042 a)
  | .vramax a => some (a.p, encV 0x043 a)
  | .vrisum a => some (a.p, encV 0x044 a)
  | .gand a => some (a.p, encV 0x048 a)
  | .gor a => some (a.p, encV 0x049 a)
  | .gxor a => some (a.p, encV 0x04A a)
  | .gandn a => some (a.p, encV 0x04B a)
  | .gcnt a => some (a.p, encV 0x04C a)
  | .gset a => some (a.p, encV 0x04D a)
  | .gsetN a => some (a.p, encV 0x04D a)
  | .vrng a => some (a.p, encV 0x050 a)
  | .vrngf a => some (a.p, encV 0x051 a)
  | _ => none

/-- MASK bit and value of every slot that is no pair (R244 to R246, R266 to R269). -/
def encOther : Instr → Option (Nat × Nat)
  | .nop .ls => some (3, 0)
  | .nop .ss => some (4, 0)
  | .nop .ps => some (5, 0)
  | .nop .gs => some (6, 0)
  | .nop .mx => some (7, 0)
  | .nop .sq => some (8, 0)
  | .nop .ec => some (9, 0)
  | .nop .kt => some (10, 0)
  | .ldr a => some (3, encM 0x01 a)
  | .ldrs a => some (3, encM 0x02 a)
  | .str a => some (4, encM 0x01 a)
  | .strs a => some (4, encM 0x02 a)
  | .stash a => some (4, encM 0x03 a)
  | .stmc a => some (4, encM 0x04 a)
  | .pld a => some (5, encM 0x01 a)
  | .pst a => some (5, encM 0x02 a)
  | .pstash a => some (5, encM 0x03 a)
  | .gld a => some (6, encM 0x01 a)
  | .gst a => some (6, encM 0x02 a)
  | .glds a => some (6, encM 0x03 a)
  | .gsts a => some (6, encM 0x04 a)
  | .qld a => some (6, encM 0x05 a)
  | .qscat a => some (6, encM 0x06 a)
  | .atom a => some (6, encM 0x07 a)
  | .atomr a => some (6, encM 0x08 a)
  | .tmul a => some (7, encX 0x01 a)
  | .tmuls a => some (7, encX 0x02 a)
  | .tzero a => some (7, encX 0x03 a)
  | .tlda a => some (7, encX 0x04 a)
  | .tsta a => some (7, encX 0x05 a)
  | .ta2v a => some (7, encX 0x06 a)
  | .tv2a a => some (7, encX 0x07 a)
  | .tadd a => some (7, encX 0x08 a)
  | .tscale a => some (7, encX 0x09 a)
  | .tbias a => some (7, encX 0x0A a)
  | .tact a => some (7, encX 0x0B a)
  | .tred a => some (7, encX 0x0C a)
  | .ttrans a => some (7, encX 0x0D a)
  | .tnorm a => some (7, encX 0x0E a)
  | .tcopy a => some (7, encX 0x0F a)
  | .scld a => some (8, encQ 0x01 a)
  | .scst a => some (8, encQ 0x02 a)
  | .scmov a => some (8, encQ 0x03 a)
  | .scmovToVector a => some (8, encQ 0x03 a)
  | .qmax a => some (8, encQ 0x04 a)
  | .qcvt a => some (8, encQ 0x05 a)
  | .qcvtDec a => some (8, encQ 0x05 a)
  | .qstep a => some (8, encQ 0x06 a)
  | .copy a => some (9, encE 0x01 a)
  | .offl a => some (9, encE 0x02 a)
  | .onld a => some (9, encE 0x03 a)
  | .pub a => some (9, encE 0x04 a)
  | .post a => some (9, encE 0x05 a)
  | .xchg a => some (9, encE 0x06 a)
  | .esend a => some (9, encE 0x07 a)
  | .dictld a => some (9, encE 0x08 a)
  | .unpick a => some (9, encE 0x09 a)
  | .ckpt a => some (9, encE 0x0A a)
  | .drain a => some (9, encE 0x0B a)
  | .treeMake a => some (9, encE 0x0C a)
  | .treeFree a => some (9, encE 0x0D a)
  | .treeFreeze a => some (9, encE 0x0E a)
  | .treeSave a => some (9, encE 0x0F a)
  | .treeLoad a => some (9, encE 0x10 a)
  | .treeEdit a => some (9, encE 0x11 a)
  | .treeThaw a => some (9, encE 0x12 a)
  | .treeQuery a => some (9, encE 0x13 a)
  | .wplan a => some (9, encE 0x14 a)
  | .etab a => some (9, encE 0x15 a)
  | .kat pattern seed crc => some (10, 0x01 + 2 ^ 6 * (pattern.toNat + 2 ^ 4 * (seed.toNat + 2 ^ 22 * crc.toNat)))
  | _ => none

/-- MASK bit of a pair slot. -/
def PSlot.bit : PSlot → Nat
  | .p0 => 1
  | .p1 => 2

/-- The MASK bit and the slot value of an instruction; the other half of a pair is SNOP, or VNOP with the guard. -/
def encSlot (i : Instr) : Option (Nat × Nat) :=
  match encC i with
  | some w => some (0, w)
  | none =>
    match encS i with
    | some (p, gd, w) => some (p.bit, w + 2 ^ 32 * encGd gd)
    | none =>
      match encVec i with
      | some (p, w) => some (p.bit, 2 ^ 32 * w)
      | none => encOther i

/-- The parcels of the bundle that holds one instruction alone (R235, R236); the device's own steps have none. -/
def encode (i : Instr) : Option (List W32) :=
  match i with
  | .emptyBundle seg wf => some [BitVec.ofNat 32 (2 ^ 12 * (wf.toNat + 2 ^ 16 * b2n seg))]
  | _ => (encSlot i).map fun bv => BitVec.ofNat 32 (2 ^ bv.1) :: parcelsOf bv.2 (slotWidth bv.1)

end Sys2Proof
end

