-- ==== Sys2Proof/Config.lean ====
section
/-! DEFINITION. What the build fixes and the spec leaves open, and the free values: constants with no body, so no
proof can see what they are. The log entries are notes/assumptions/<n>.md. -/

namespace Sys2Proof.Config

/-- Cores, panels, dies, stacks, bridges, second-tier channels, optical slots of a device (R7). -/
def nCores : Nat := 512
def nPanels : Nat := 32
def nDies : Nat := 8
def nStacks : Nat := 16
def nBridges : Nat := 12
def nChannels : Nat := 48
def nSlots : Nat := 256
/-- Rows of a scratchpad (R136) and of a panel store (R140). -/
def spRows : Nat := 32768
def psRows : Nat := 3407872
/-- Entries of a core's dictionary store (R148). -/
def dictEntries : Nat := 16384

/-! Where the memories lie in the device's 58-bit local address space. DESIGN CHOICE (log 2): the spec gives no
physical address map; the model's own constants. -/
def hbmBase : Nat := 0
def stackBytes : Nat := 2 ^ 36
def tierBase : Nat := 2 ^ 40
def tierBytes : Nat := 6 * 2 ^ 40
def spBase : Nat := 2 ^ 44
def spBytes : Nat := 2 ^ 22
def psBase : Nat := 2 ^ 45
def psStride : Nat := 2 ^ 29
/-- CAPBASE: the description area's base address, set at build (R19). DESIGN CHOICE (log 2). -/
def capBase : Nat := 2 ^ 46

/-- Where the extent tables of the contexts lie, a row pair each (R118). DESIGN CHOICE (log 47). -/
def extTab : Nat := 2 ^ 47

/-- Whether a configuration image's RSA-3072 signature over SHA-256 checks (R11). Free (log 6): the public key and the
padding of the image signature are not given. -/
opaque imageSignatureOk : List Byte → List Byte → Bool
/-- The modulus of the identity key, 384 bytes (R20). Free (log 6): a secret of the part. -/
opaque identityModulus : Nat → Byte
/-- The public exponent of the identity key, 4 bytes (R20). Free (log 6). -/
opaque identityExponent : Nat → Byte
/-- Byte n of the RSASSA-PKCS1-v1_5 signature made with the identity key over a message (R20). Free (log 6). -/
opaque identitySign : List Byte → Nat → Byte
/-- RSA-OAEP decryption under the identity key (R20): the plain record, or none when decryption fails. Free (log 6). -/
opaque oaepDecrypt : List Byte → Option (List Byte)
/-- The GCM tag of a flit: key, 96-bit nonce, header, bytes of payload and the payload (R38, R39). Free (log 7). -/
opaque gcmTag : BitVec 256 → BitVec 96 → BitVec 128 → Nat → BitVec 2048 → BitVec 128
/-- The GCM-enciphered payload of a flit (R38). Free (log 7). -/
opaque gcmCipher : BitVec 256 → BitVec 96 → BitVec 2048 → BitVec 2048
/-- Which of the dies that may be raised is raised (R10 says "a die"). Free (log 8). -/
opaque stepUpChoice : Nat → Nat
/-- What a byte at a local address that holds no memory reads as, to an agent whose access does not fault. Free (log 3). -/
opaque holeByte : Nat → Byte
/-- AREAOFF of the DVSEC's LOCATOR, set at build (R20). Free (log 6). -/
opaque areaOffset : BitVec 16
/-- A number whose remainder by 6 is the LOCATOR's BAR index, 0 to 5, set at build (R20). Free (log 6). -/
opaque areaBar : Nat
/-- The vendor number that the DVSEC's header carries, and the place of the next capability, which R20 leaves to PCI Express. Free (log 120). -/
opaque dvsecVendor : BitVec 16
opaque dvsecNext : BitVec 12
/-- The code syndrome of an error record (R212): the codes are named but their check matrices are not given. Free (log 9). -/
opaque syndrome : Nat → BitVec 16
/-- A reserved or unstated field of a value the spec does not give, fresh for each counter value. Free (log 10). -/
opaque freeWord : Nat → W64
/-- What a row of another device's memory holds when an engine of this device reads it: fabric address, counter. Free
(log 20). -/
opaque farRow : Nat → Nat → Row
/-- The entry of a tree that another device owns, as a command of this device finds it: handle, partition, counter. Free (log 34). -/
opaque farTree : Nat → Nat → Nat → BitVec 2048
/-- The record of a member of such a tree: handle, partition, member, counter. Free (log 34). -/
opaque farMember : Nat → Nat → Nat → Nat → Nat
/-- The place and the device of the seam above a member of such a tree: handle, partition, member. Free (log 34). -/
opaque farSeam : Nat → Nat → Nat → Nat × Nat
/-- Whether the staging pool of a router of another device has room for some rows: device, router, rows. Free (log 32). -/
opaque farRoom : Nat → Nat → Nat → Bool
/-- Whether the memory plan of a schedule variant fits into the old plan's footprint and the memory then free (R99): image, old variant, new
one, counter. Free (log 45): the layout of memory plans is not given. -/
opaque planFits : Nat → Nat → Nat → Nat → Bool
/-- What an image's placement requirements (R98, R100) ask for: dies, panels per die, live cores per panel, from the first bytes of the section and its
size: the form of the section is not given (log 128). -/
opaque placementNeeds : Nat → Nat → Nat × Nat × Nat

end Sys2Proof.Config
end

