-- ==== Sys2Proof/Machine/State.lean ====
section
/-! DEFINITION. The state of the device as plain data, the reasons a step can stop, and the state after reset.
Every field names the rule that gives it. Sparse tables (`AMap`) list only what differs from the table's default. -/

namespace Sys2Proof.Machine

/-- Reset states (R11, R19). -/
inductive RState where
  | image | arrays | cores | memory | links | map | ready | badImage | failed
  deriving DecidableEq, Repr

/-- What a landing-buffer entry writes (R182): a vector register, a scalar, a guard, a scale register, or one row of a
multi-row load. -/
inductive LKind where
  | vec | scalar | guard | scale | row
  deriving DecidableEq, Repr

/-- One landing-buffer entry (R131, R132): destination, landing tick, issue tick, order within the bundle, the bits it
writes, the flags it raises (R199), poison (R209), whether its data has been read and has arrived (R134), the trap it takes in place of
landing: cause and TVAL (R37, R120, R180), and the elements of an ATOMR whose old values are still to come (R331, R410). -/
structure LandEntry where
  kind : LKind
  dest : Nat
  tick : Nat
  issued : Nat
  slot : Nat
  sub : Nat
  data : Row
  mask : Row
  flags : BitVec 6
  poison : Option (Nat × W64)
  got : Bool
  arr : Option Nat
  op : Nat
  gone : Option (Nat × W64)
  need : Nat
  deriving DecidableEq, Repr

/-- What a queued access does when it performs (R154, R331, R336); `log` is a row of a basting log (R376). -/
inductive QWhat where
  | ld
  | st (data mask : Row) (poison : Bool)
  | atom (op elem : Nat) (x cv : W64) (wide ret : Bool)
  | dec (after : List (Nat × Nat))
  | addf (byte : Nat) (vals : List W32)
  | qld (a : MArgs) (desc : BitVec 2048) (coords : List Row) (lanes : Nat) (rows : List (W64 × Option Row))
  | mark
  | log (data : Row) (poison : Bool)
  deriving DecidableEq, Repr

/-- Where a queued access stands: waiting, sent to another device and not answered, or discarded for an unreachable peer and
kept for a resumption (R37, R180). -/
inductive QSt where
  | waiting | sent | dead
  deriving DecidableEq, Repr

/-- One entry of a context's queues, in program order (R156): `isLoad` and `isStore` say which of the two FIFO queues
it holds a place in; MARK holds both (R159); `iss` is its cycle of issue (R156), `src` the
parcel, base scalar, guard and issue tick captured at issue (R180), 64 bits each; `ext` says that its piece was revoked at issue and `addr` still names a place in
an extent (R120). -/
structure QAcc where
  isLoad : Bool
  isStore : Bool
  addr : W64
  op : Nat
  idx : Nat
  what : QWhat
  st : QSt
  iss : Nat
  src : Nat
  ext : Bool
  deriving DecidableEq, Repr

/-- A timed access on its way (R154): the cycle in which it performs, a store or a load, its place among the writes of
one cycle (R138: multicast 0, lead 1, merged 2), the row, for a load the landing entry it fills, and the cycle of issue (R157). -/
structure TAcc where
  due : Nat
  store : Bool
  prio : Nat
  core : Nat
  row : Nat
  ctx : Nat
  op : Nat
  idx : Nat
  data : Row
  mask : Row
  poison : Bool
  iss : Nat
  deriving DecidableEq, Repr

/-- One expanded bundle of a fetch queue (R233, R251): address, next address, parcels, or the trap it takes at the
head; the array and address of poison under it (R210, R211); the rows that a literal bundle was read from, as they were read (R234). -/
structure FetchEnt where
  pc : CodeAddr
  next : CodeAddr
  parcels : List W32
  bad : Option (Nat × W64)
  poison : Option (Nat × W64)
  seen : List (Nat × Row)
  deriving DecidableEq, Repr

/-- A loop nest that runs (R66 to R69): bounds, LIVE levels and their sync addresses, the index vector, the bounds of the
current runs, the level whose LIVE bound is awaited, and whether it has ended. -/
structure Nest where
  levels : Nat
  bound : List Nat
  live : List Bool
  liveAddr : List W64
  idx : List Nat
  run : List Nat
  await : Option Nat
  done : Bool
  deriving DecidableEq, Repr

/-- The loop buffer (R147, R276): the body's bundles, the address after the body, the position in the pass, whether
a pass has ended and the next is not decided yet, the nest, the record's row, the body's address, and the LIVE bound that has been read for the awaited
level, with the cycle in which it arrives (R147). -/
structure LoopSt where
  buf : List FetchEnt
  after : CodeAddr
  pos : Nat
  passed : Bool
  nest : Nest
  lnr : Nat
  body : CodeAddr
  live : Option (Nat × Nat)
  deriving DecidableEq, Repr

/-- An extent entry (R118); `refused` marks a revoked piece that REMAP has refused (R120), `va` is the virtual address of its first byte and `w`
the W bit of its pages, which REMAP walks and compares. -/
structure Extent where
  base : W64
  len : Nat
  access : BitVec 2
  conf : Bool
  valid : Bool
  revoked : Bool
  res : Bool
  chain : Bool
  next : BitVec 4
  refused : Bool
  va : Nat
  w : Bool
  deriving DecidableEq, Repr

/-- An engine-queue entry (R146, R182, R355): opcode, parcel fields, resolved command row, for whom, the extents of its task, which
may end before the command is accepted (R110), and the context's operations and the cycle at its issue (R164). -/
structure EngCmd where
  op : Nat
  a : EArgs
  row : Nat
  ctx : Nat
  serial : Nat
  part : Nat
  cmd : Nat
  seg : Bool
  id : Nat
  ext : List Extent
  ops : Nat
  iss : Nat
  deriving DecidableEq, Repr

/-- Context CSRs held as words (R271). -/
structure Csrs where
  rrb : W64
  fpstat : W64
  fpmode : W64
  logb : W64
  logh : W64
  logl : W64
  recst : W64
  gmap : W64
  rngsel : W64
  tvec : W64
  tcause : W64
  tval : W64
  tpc : W64
  tframe : W64
  pdl : W64
  extbase : W64
  dictb : W64
  dictl : W64
  rdvto : W64
  ackver : W64
  deriving DecidableEq, Repr

/-- An entry of the gradient-map copy (R371). -/
structure GEnt where
  key : W64
  gbuf : W64
  grows : W32
  mode : Byte
  flags : Byte
  row : Nat
  off : Nat
  deriving DecidableEq, Repr

/-- A command an engine runs (R146, R356): its row, the two record rows, progress, hidden side (R166), its status once it has
one, what of its context it keeps: extents, the gradient map and CSRs (R371, R383), the entry of another device's tree that it names, and of an UNPICK
the adjoint commands issued for its entry, with the number of the last while it is not complete (R380); its `side` is its matrix queue. -/
structure RunCmd where
  c : EngCmd
  args : Row
  lnr : BitVec 2048
  prog : Nat
  nest : Option Nest
  side : Nat
  mapRow : Row
  peers : List (Nat × Nat)
  paused : Bool
  status : Option Nat
  count : Nat
  aux : W64
  ext : List Extent
  gm : List GEnt
  csr : Csrs
  ent : Row
  adj : Nat
  adjId : Option Nat
  deriving DecidableEq, Repr

/-- The task a context holds (R102, R103, R104): identity, record, group, launch, logical place, and its logical core number within its
group's unit. -/
structure TaskRun where
  serial : Nat
  cont : Bool
  part : Nat
  trec : Row
  group : Nat
  gidx : Nat
  rank : Nat
  size : Nat
  level : Nat
  prio : Nat
  cmd : Nat
  resmask : BitVec 16
  lcore : Nat
  lpanel : Nat
  ldie : Nat
  ucore : Nat
  deriving DecidableEq, Repr

/-- The snapshot of a segment entry (R217, R377). -/
structure Snapshot where
  s : AMap W64
  g : AMap Guard
  f : BitVec 16
  rrb : W64
  pc : CodeAddr
  schc : Nat
  ix : List W32
  lp : Option LoopSt
  rngsel : W64
  rngKey : W64
  rngCtr : W64
  rngWait : Bool
  logh : W64
  recst : W64
  deriving DecidableEq, Repr

/-- An operation stopped part-way (R180): slot bit, rows or lanes done, the accesses still to issue, issue tick. -/
structure Capture where
  parcel : W64
  base : W64
  guard : Guard
  slot : Nat
  prog : Nat
  tick : Nat
  vecs : List Row
  rest : List QAcc
  entries : List LandEntry
  deriving DecidableEq, Repr

/-- A report cause on its way to a context (R170, R172): cause, TVAL, and further discards to count (R394), and
what a store stopped part-way leaves (R180). -/
structure Report where
  cause : Nat
  tval : W64
  disc : Nat
  cap : Option Capture
  deriving DecidableEq, Repr

/-- Why a context's head bundle waits, beside what its fields show (R110, R159, R160, R284, R294, R181). A save remembers an ENG
fence it interrupts; the end of a task remembers TWAIT's word, its continuation and its own bundle; an RDV held for RDVTO cycles is late (R285); a
context that a kill has not freed is stuck (R122). -/
inductive Hold where
  | none
  | fence (scope kind : Nat)
  | ending (cont : Option (W64 × CodeAddr × CodeAddr))
  | rdv (addr : W64) (epoch : W32) (done : Bool)
  | late (addr : W64)
  | knot
  | save (why : Nat) (eng : Bool)
  | rft
  | rollback
  | stopped
  | stuck
  deriving DecidableEq, Repr

/-- A context (R124), or a core's hidden trap context (R173), which uses only its own s, g, f, landing buffer, fetch and
engine queues and ticks. `held` is what a pre-empted context is held for: a scheduler entry, or (true) a command (R90, R115); `watch` how far the
watchdog has gone: 1 after PREQ, 2 after the kill (R122); `past` holds the engine commands of earlier tasks that no engine has taken yet (R110, R112);
`fnew` the flags that the device has set in this cycle, which satisfy a WF only from the next (R126); `fpAt` the FPSTAT flags of the results that landed
last, with the buffer's owner and its tick (R199); `fset` every flag that the device has set in this cycle, which stay set when an operation of the cycle
clears them (R286, R292); `rdvAt` the cycle from which RDVTO counts for the RDV that is held, once its arrival has left (R221, R285). -/
structure Ctx where
  v : AMap Row
  s : AMap W64
  g : AMap Guard
  f : BitVec 16
  k : AMap Scale
  ix : List W32
  csr : Csrs
  pc : CodeAddr
  next : CodeAddr
  schc : Nat
  land : List LandEntry
  fq : List FetchEnt
  q : List QAcc
  eq : List EngCmd
  lp : Option LoopSt
  task : Option TaskRun
  last : Nat
  ext : List Extent
  hold : Hold
  req : Bool
  remain : Nat
  grace : Bool
  snap : Option Snapshot
  irrev : Bool
  outside : BitVec 16
  rolled : Bool
  poisoned : Option (Nat × W64)
  reports : List Report
  cap : Option Capture
  halted : Bool
  tileMark : Bool
  esend : W32
  shadowId : Option Nat
  oldBase : Nat
  oldLen : Nat
  owed : Nat
  rngKey : W64
  rngCtr : W64
  rngWait : Bool
  ops : Nat
  gmapT : List GEnt
  goneAt : AMap W64
  rowsRead : AMap Row
  rowsAt : Option Nat
  poisonRegs : List (LKind × Nat)
  held : Option (Bool × Nat)
  watch : Nat
  past : List EngCmd
  fnew : BitVec 16
  fpAt : Nat × Nat × BitVec 6
  fset : BitVec 16
  rdvAt : Option Nat
  deriving DecidableEq, Repr

/-- A matrix command from issue to completion (R340, R142): opcode (0 a KAT, 16 an adjoint command of R380), fields, the context it
runs for, its queue, captured S value, physical registers, scale register, descriptor, known-answer fields, its core of
issue, the log entry it is recorded in, its place in issue order and in its queue, the context whose registers and extents it
names (R173), when its operand rows may be read (R341): the cycle and the
stores of its context before it, the rows fetched so far through its descriptor with their poison, the operation number under
which the next one has been asked for, whether a fault has stopped the fetch (R348), and its issue tick. -/
structure MxCmd where
  op : Nat
  a : XArgs
  ctx : Nat
  q1 : Bool
  sval : W64
  regs : List Nat
  kreg : Scale
  desc : Row
  kat : Option (Nat × Nat × Nat)
  home : Nat
  logRow : Option Nat
  modes : List Nat
  id : Nat
  entered : Nat
  tgt : Nat
  serial : Nat
  ready : Nat
  ops : Nat
  rows : List Row
  bad : Option (Nat × W64)
  asked : Option Nat
  stopped : Bool
  tick : Nat
  deriving DecidableEq, Repr

/-- A command with the inputs it read when it started (R341), as the engine runs it and as its window keeps it (R215): operand
rows, accumulator input, whether one was poisoned and where, and its result CRC. -/
structure WinEnt where
  c : MxCmd
  arows : List Row
  brows : List Row
  mrows : List Row
  accIn : List Row
  poison : Option (Nat × W64)
  crc : W32
  deriving DecidableEq, Repr

/-- A core (R124, R136 to R151, R173, R184): whether its handler runs and for which context, the lead, dictionary store
and region table, accumulator store and its owner registers, matrix queues, the running command, the commands whose busy
records R216 still holds with the core that ran them, the window, the commands migrated out and the results on their way back (R145), the engines, and the
cycle in which the matrix engine last started a command (R216). -/
structure Core where
  run : Option Nat
  lead : Nat
  dict : AMap (BitVec 384)
  region : AMap (Nat × Nat × Nat)
  acc : AMap Row
  accPoison : BitVec 8
  accown : W64
  accdirty : W64
  katcfg : W64
  migcfg : W64
  dbgcfg : W64
  errlog : W64
  lbsel : Nat
  q0 : List MxCmd
  q1 : List MxCmd
  eng : Option WinEnt
  guarded : List (MxCmd × Nat)
  window : List WinEnt
  suspect : Bool
  out : List WinEnt
  back : List WinEnt
  copyE : Option RunCmd
  offE : Option RunCmd
  mainE : Option RunCmd
  shadowE : Option RunCmd
  recE : Option RunCmd
  prio : List EngCmd
  rotor : AMap Nat
  started : Nat
  deriving DecidableEq, Repr

/-- The hidden kind of a sync word (R106). -/
inductive SyncKind where
  | plain | dep | arr
  deriving DecidableEq, Repr

/-- A sync word (R106). -/
structure SyncWord where
  kind : SyncKind
  val : W64
  deriving DecidableEq, Repr

/-- A rendezvous record of a sync engine (R284). -/
structure Rdv where
  addr : W64
  bits : List Nat
  parties : Nat
  waiters : List Nat
  deriving DecidableEq, Repr

/-- A translation-cache entry (R117): partition, virtual page of 2 MiB, whether it is a 1 GiB leaf, the leaf. -/
structure TcEnt where
  part : Nat
  page : Nat
  big : Bool
  pte : W64
  deriving DecidableEq, Repr

/-- A die: rendezvous records, arrivals that wait for one, translation cache, and the cycles of its own clock (R9). -/
structure Die where
  rdv : List Rdv
  rdvWait : List (W64 × W32 × Nat × Nat × Nat)
  tc : List TcEnt
  cyc : Nat
  deriving DecidableEq, Repr

/-- A launch's bookkeeping (R101, R109, R113, R122), and whether a share decision chose it (R90). -/
structure Launch where
  part : Nat
  level : Nat
  count : Nat
  next : Nat
  failed : Bool
  killed : Bool
  lost : Bool
  image : W64
  spawn : Nat
  queue : Nat
  seq : W64
  share : Bool
  deriving DecidableEq, Repr

/-- A group (R101, R109): its launch, index, level, size, home die, record, trigger state and the tasks that live, and the entry that its trigger
state takes in its home die's pool (R107). -/
structure Group where
  cmd : Nat
  idx : Nat
  level : Nat
  size : Nat
  die : Nat
  trec : Row
  resmask : BitVec 16
  trigd : Bool
  never : Bool
  live : Nat
  ended : List (Nat × Nat)
  gref : Nat
  deriving DecidableEq, Repr

/-- What a scheduler entry is: a whole group, a continuation, or a resumed task (R114). -/
inductive EKind where
  | new | cont | resumed
  deriving DecidableEq, Repr

/-- Where a scheduler entry stands: bound to a DEP word, being translated, ready, parked (R108, R117, R119). -/
inductive ESt where
  | bound | translating | ready | parked
  deriving DecidableEq, Repr

/-- A scheduler entry (R107, R108, R114, R119): a pending group, a waiting continuation or a saved task. -/
structure Entry where
  kind : EKind
  st : ESt
  group : Nat
  rank : Nat
  serial : Nat
  trec : Row
  slot : Nat
  core : Nat
  lcore : Nat
  order : Nat
  ext : List Extent
  deriving DecidableEq, Repr

/-- A save slot in use (R107, R181): where the image lies, whose it is, the context it left, the queued accesses that still perform,
the matrix commands to be fetched again, the wait of an ENG fence, the spilled extents (R93): number, rows, address, and the extents that its
queued accesses name. -/
structure Saved where
  addr : Nat
  task : TaskRun
  ctx : Nat
  q : List QAcc
  land : List LandEntry
  reports : List Report
  cap : Option Capture
  mx : List MxCmd
  hold : Hold
  spill : List (Nat × Nat × Nat)
  ext : List Extent
  deriving DecidableEq, Repr

/-- A queue's registers (R82) and the tail last read (R83). -/
structure HQueue where
  qbase : W64
  qtaila : W64
  qdone : W64
  qseq : W64
  qhead : W64
  qctl : W64
  qstat : W64
  qcdone : W64
  tail : W64
  deriving DecidableEq, Repr

/-- Progress of an accepted command (R88). -/
inductive CSt where
  | accepted | started | done
  deriving DecidableEq, Repr

/-- An accepted command: the journal record's fields (R88), its completion status, LATE (R92), and for LAUNCH its
bookkeeping. -/
structure Cmd where
  queue : Nat
  entry : Row
  st : CSt
  runs : Nat
  acc : Nat
  pubmap : BitVec 256
  status : Nat
  late : Bool
  recNo : Nat
  launch : Option Launch
  deriving DecidableEq, Repr

/-- Phase of a seam's segment (R58). -/
inductive SeamPh where
  | idle | opened | send
  deriving DecidableEq, Repr

/-- A place of a seam on the route from a queued edit on (R63): its index, ports, the children's devices and places, the members below each port, its
parent (place and device) and port there. -/
structure SeamNext where
  idx : Nat
  ports : List Nat
  kidAt : List (Nat × Nat)
  subs : List (List Nat)
  parent : Option (Nat × Nat)
  pport : Nat
  deriving DecidableEq, Repr

/-- A seam of this device (R50 to R59, R62): its tree and place; its children's keys, devices and places, and the members below each port; the entry of
a tree that another device owns, as its owner answered it; the current segment with its staged rows, partial rows, marks and the cycle in which its
timer expires (while frozen, the cycles left); the rows received of recent segments, from which a removal is carried out (R63); late pairs counted, rows
of the result sent, whether a row of the segment came as a priority one (R55), what the seam becomes from a queued edit on (`some none`: nothing),
whether a router slot holds it, the flits that wait for a refill, and when it was last used. -/
structure Seam where
  handle : W32
  part : Nat
  idx : Nat
  place : Nat
  parent : Option (Nat × Nat)
  pport : Nat
  ports : List Nat
  kidAt : List (Nat × Nat)
  subs : List (List Nat)
  ent : Option (BitVec 2048)
  seg : Nat
  ph : SeamPh
  frozen : Bool
  expected : BitVec 64
  complete : BitVec 64
  recv : List Nat
  folded : Nat
  partials : AMap Row
  staged : AMap Row
  recs : AMap Row
  timer : Nat
  partPorts : BitVec 64
  tornPorts : BitVec 64
  closed : BitVec 64
  late : List (Nat × Nat)
  isPart : Bool
  isTorn : Bool
  sent : Nat
  prio : Bool
  next : Option (Option SeamNext)
  slot : Bool
  held : List Flit
  used : Nat
  deriving DecidableEq, Repr

/-- A posted segment whose fate is awaited (R60, R364): its poster, whether its rows stand in the partial of every seam that has handed its
segment on so far, and its status. -/
structure Posted where
  part : Nat
  handle : W32
  member : Nat
  seg : Nat
  core : Nat
  shadow : Bool
  cmd : Nat
  folded : Bool
  status : Option Nat
  deriving DecidableEq, Repr

/-- An optical transmit slot (R41 to R44, R79): its queue, arbitration position, send allowances, replay buffer, what it has put on the
fibre, the counts since its last drain marker, the marker's number and whether an answer is awaited, the replays without an acknowledgement,
and how many flits at the end of the replay buffer are still to be sent again. -/
structure TxSlot where
  locked : Bool
  q : List Flit
  pos : Nat
  allow : List Nat
  replay : List Flit
  wire : List Flit
  since : List Nat
  marker : Nat
  await : Option Nat
  fails : Nat
  owed : Nat
  deriving DecidableEq, Repr

/-- A receive slot (R39, R44, R79, R393): `marker` lists the drain markers not yet answered, oldest first. -/
structure RxSlot where
  locked : Bool
  accepted : List Nat
  marker : List (Nat × List Nat)
  latch : Bool
  freed : List Nat
  naks : Nat
  tagFails : List Nat
  deriving DecidableEq, Repr

/-- A bridge direction or mesh link (R42): waiting flits, each with the transmit slot it goes to (256 + d: a flit received for die d), and
arbitration position. -/
structure LinkQ where
  q : List (Flit × Nat)
  pos : Nat
  deriving DecidableEq, Repr

/-- A key and its flit counter (R39). -/
structure Key where
  key : BitVec 256
  ctr : Nat
  deriving DecidableEq, Repr

/-- A record of a receive ring (R74): `bufs` lists, once a flit, the receive slots whose VC5 buffers its waiting flits hold. -/
structure RingRec where
  pos : Nat
  rows : Nat
  hdr : Row
  got : Nat
  src : Nat
  die : Nat
  entry : Nat
  rep : Nat
  sync : W64
  void : Bool
  bufs : List Nat
  deriving DecidableEq, Repr

/-- A receive ring's live state (R74). -/
structure Ring where
  size : Nat
  reserved : Nat
  recs : List RingRec
  waiting : List (RingRec × List Row)
  deriving DecidableEq, Repr

/-- A wavelength-plan load in progress (R33, R393): the core whose engine runs it, whether the dark step has begun, whether it has ended,
whether the wait for retune latches is over, the new plan, and the flits queued since it began, with their peers (R80). -/
structure WpRun where
  core : Nat
  dark : Bool
  relock : Bool
  timeout : Bool
  planId : W64
  tx : AMap Byte
  rx : AMap Byte
  held : List (Nat × Flit)
  deriving DecidableEq, Repr

/-- The resource map (R14). -/
structure ResMap where
  version : W64
  cause : BitVec 16
  time : W64
  peers : W64
  cores : BitVec 512
  panels : BitVec 32
  dies : BitVec 8
  hbms : BitVec 16
  bridges : BitVec 12
  tierch : BitVec 48
  stackCap : AMap Nat
  tierCap : AMap Nat
  optch : BitVec 256
  clocks : AMap Nat
  deriving DecidableEq, Repr

/-- The fill of a parity group: the spare in use, the members' addresses as the rows written so far were rebuilt from, and how many those
are (R228, R229). -/
structure Fill where
  spare : Nat
  memb : List W64
  row : Nat
  deriving DecidableEq, Repr

/-- Device-wide facts: reset state and kind, configuration image, DEVID, the map version that
second-tier memory keeps (R8, R13), the fills of parity groups (R228), the skewed streams of a reconciliation between its passes, each with the counter it
is to take (R225), power control (R10), the DVSEC and mailbox (R20), retired rows (R11), raised
interrupts (R92), link keys (R39), link-error counts (R41), matrix commands numbered so far, free-value counter (log 10), commands accepted so far, of
which the journal's ring has the last ones (R88), whether the journal has been replayed (R95), and the mapping rows that publishes of unfinished
commands were shown in: the command, the publish and the row (R94, R95), and the extents whose spill found the area short (R121). -/
structure Device where
  rst : RState
  image : Image
  devid : BitVec 6
  keptVersion : W64
  fills : AMap Fill
  recon : List (Nat × W64)
  watts : List Nat
  downWait : Nat
  under : Nat
  speed : Bool
  width : Bool
  mbcmd : Byte
  mbstat : Byte
  mbbusy : Bool
  retired : AMap Nat
  msix : List Nat
  keys : AMap Key
  curGen : AMap Bool
  linkErr : AMap Nat
  mxIds : Nat
  fresh : Nat
  jpos : Nat
  replayed : Bool
  shown : List (Nat × Nat × W64)
  shortSpills : List W64
  deriving DecidableEq, Repr

/-- What happens next, when the outside or an untimed agent says: the clock goes on, or a device step. -/
inductive Turn where
  | clock
  | event (unit arg : Nat) (i : Instr)
  deriving DecidableEq, Repr

/-- The machine. `mem` is the device's local address space in canonical form (bytes that are zero are not listed);
`poison` lists the rows that hold the poison codeword (R209); `treeWin` is the tree window of each child, a segment and its rows
(R56); `agenda`, `pend`, `unit` and `arg` are the model's own: what comes
next and which unit it acts on (log 1). -/
structure State where
  dev : Device
  map : ResMap
  mem : List Host.Cell
  poison : List Nat
  hostMem : List Host.Cell
  regs : AMap W64
  sync : AMap SyncWord
  ctxs : AMap Ctx
  cores : AMap Core
  dies : AMap Die
  timed : List TAcc
  txs : AMap TxSlot
  rxs : AMap RxSlot
  links : AMap LinkQ
  planTx : AMap Byte
  planRx : AMap Byte
  wp : Option WpRun
  seams : AMap Seam
  treeWin : AMap (Nat × Nat)
  posted : List Posted
  etab : AMap Row
  qb : AMap Nat
  rings : AMap Ring
  queues : AMap HQueue
  cmds : AMap Cmd
  share : Nat
  variants : AMap Nat
  groups : AMap Group
  entries : AMap Entry
  saves : AMap Saved
  serial : Nat
  cur : Nat
  turn : Nat
  cycle : Nat
  agenda : List Turn
  pend : List Turn
  unit : Nat
  arg : Nat
  deriving DecidableEq, Repr

/-- Why the machine stops with a fault. -/
inductive Fault where
  /-- Raised by an access that performs at a local address that holds no memory (log 3). Safe: the model stops where
  the spec says nothing of what happens. -/
  | absentAddress (addr : Nat)
  deriving DecidableEq, Repr

/-- Why a step has no meaning. -/
inductive Refusal where
  /-- Raised by a dispatch arm whose instruction has no meaning yet. Safe: nothing can be proved of it. -/
  | notModelled (mnemonic : String)
  /-- Raised by `step` for an agenda entry that is a slot operation: only a bundle issues those (log 5). Safe. -/
  | notAnEvent
  deriving DecidableEq, Repr

/-- A context's CSRs at reset: 0, but RECST.LAST all-ones (R370) and PDL 262,144 (R115). -/
def Csrs.reset : Csrs where
  rrb := 0
  fpstat := 0
  fpmode := 0
  logb := 0
  logh := 0
  logl := 0
  recst := 0xFFFFFFFFFFFF0000
  gmap := 0
  rngsel := 0
  tvec := 0
  tcause := 0
  tval := 0
  tpc := 0
  tframe := 0
  pdl := 262144
  extbase := 0
  dictb := 0
  dictl := 0
  rdvto := 0
  ackver := 0

/-- An unused extent (R118). -/
def Extent.none : Extent := ⟨0, 0, 0, false, false, false, false, false, 0, false, 0, false⟩

/-- A context at reset: no task, every register zero (log 11), CSRs as their maps say. -/
def Ctx.reset : Ctx where
  v := []
  s := []
  g := []
  f := 0
  k := []
  ix := [0, 0, 0, 0, 0, 0]
  csr := Csrs.reset
  pc := 0
  next := 0
  schc := 0
  land := []
  fq := []
  q := []
  eq := []
  lp := .none
  task := .none
  last := 0
  ext := []
  hold := .none
  req := false
  remain := 0
  grace := false
  snap := .none
  irrev := false
  outside := 0
  rolled := false
  poisoned := .none
  reports := []
  cap := .none
  halted := false
  tileMark := false
  esend := 0
  shadowId := .none
  oldBase := 0
  oldLen := 0
  owed := 0
  rngKey := 0
  rngCtr := 0
  rngWait := false
  ops := 0
  gmapT := []
  goneAt := []
  rowsRead := []
  rowsAt := .none
  poisonRegs := []
  held := .none
  watch := 0
  past := []
  fnew := 0
  fpAt := (0, 0, 0)
  fset := 0
  rdvAt := .none

/-- A core at reset: registers as their maps say (KATCFG.RETRY 3, MIGCFG.MAXOUT 2). -/
def Core.reset : Core where
  run := .none
  lead := 0
  dict := []
  region := []
  acc := []
  accPoison := 0
  accown := 0
  accdirty := 0
  katcfg := 3
  migcfg := 0x200
  dbgcfg := 0
  errlog := 0
  lbsel := 0
  q0 := []
  q1 := []
  eng := .none
  guarded := []
  window := []
  suspect := false
  out := []
  back := []
  copyE := .none
  offE := .none
  mainE := .none
  shadowE := .none
  recE := .none
  prio := []
  rotor := []
  started := 0

def Die.reset : Die := ⟨[], [], [], 0⟩

/-- A queue's registers at reset (R82): LOG2SIZE 6. -/
def HQueue.reset : HQueue := ⟨0, 0, 0, 0, 0, 0x600, 0, 0, 0⟩

/-- A transmit slot at reset: unlocked, 64 allowances per VC when it locks (R44). -/
def TxSlot.reset : TxSlot := ⟨false, [], 0, [64, 64, 64, 64, 64, 64], [], [], [0, 0, 0, 0, 0, 0], 0, .none, 0, 0⟩

def RxSlot.reset : RxSlot := ⟨false, [0, 0, 0, 0, 0, 0], [], false, [0, 0, 0, 0, 0, 0], 0, []⟩

def LinkQ.reset : LinkQ := ⟨[], 0⟩

def Ring.reset : Ring := ⟨64, 0, [], []⟩

/-- Sync words are PLAIN and zero at reset (R106). -/
def SyncWord.reset : SyncWord := ⟨.plain, 0⟩

/-- The resource map before the first one is published: version 0, everything built and live (log 12). -/
def ResMap.reset : ResMap where
  version := 0
  cause := 0
  time := 0
  peers := 0
  cores := BitVec.allOnes 512
  panels := BitVec.allOnes 32
  dies := BitVec.allOnes 8
  hbms := BitVec.allOnes 16
  bridges := BitVec.allOnes 12
  tierch := BitVec.allOnes 48
  stackCap := []
  tierCap := []
  optch := 0
  clocks := []

/-- The configuration image before one is supplied: the model's own, empty, with the limit power (log 6). -/
def Image.reset : Image := ⟨[], [], 4400, 0, [], []⟩

def Device.reset : Device where
  rst := .image
  image := Image.reset
  devid := 0
  keptVersion := 0
  fills := []
  recon := []
  watts := []
  downWait := 0
  under := 0
  speed := false
  width := false
  mbcmd := 0
  mbstat := 0
  mbbusy := false
  retired := []
  msix := []
  keys := []
  curGen := []
  linkErr := []
  mxIds := 0
  fresh := 0
  jpos := 0
  replayed := false
  shown := []
  shortSpills := []

/-- The device right after a cold reset: in IMAGE (R11), every register at its reset value, memory with nothing listed,
device registers at theirs (only those that are not zero are listed: RMGRACE, PDLTAB, WDOG, FRING, ERBASE). -/
def State.reset : State where
  dev := Device.reset
  map := ResMap.reset
  mem := []
  poison := []
  hostMem := []
  regs := [(0x304, 2000), (0x311, 0x94A5294A52), (0x312, 0x003200320064), (0x316, 4), (0x333, 6)]
  sync := []
  ctxs := []
  cores := []
  dies := []
  timed := []
  txs := []
  rxs := []
  links := []
  planTx := []
  planRx := []
  wp := .none
  seams := []
  treeWin := []
  posted := []
  etab := []
  qb := []
  rings := []
  queues := []
  cmds := []
  share := 0
  variants := []
  groups := []
  entries := []
  saves := []
  serial := 1
  cur := 0
  turn := 0
  cycle := 0
  agenda := []
  pend := []
  unit := 0
  arg := 0

end Sys2Proof.Machine
end

