-- ==== Sys2Proof/Machine/Mem.lean ====
section
/-! DEFINITION. Access to the parts of the state, the device's local address space, poison, error injection and error
records (R7, R8, R105, R136, R140, R208 to R213). -/

namespace Sys2Proof.Machine

/-! Parts of the state. -/

def State.ctx (s : State) (n : Nat) : Ctx := s.ctxs.get Ctx.reset n
def State.setCtx (s : State) (n : Nat) (c : Ctx) : State := { s with ctxs := s.ctxs.put n c }
def State.modCtx (s : State) (n : Nat) (f : Ctx → Ctx) : State := s.setCtx n (f (s.ctx n))
def State.core (s : State) (n : Nat) : Core := s.cores.get Core.reset n
def State.setCore (s : State) (n : Nat) (c : Core) : State := { s with cores := s.cores.put n c }
def State.modCore (s : State) (n : Nat) (f : Core → Core) : State := s.setCore n (f (s.core n))
def State.die (s : State) (n : Nat) : Die := s.dies.get Die.reset n
def State.setDie (s : State) (n : Nat) (d : Die) : State := { s with dies := s.dies.put n d }
/-- A device register by number (R270, R271). -/
def State.reg (s : State) (n : Nat) : W64 := s.regs.get 0 n
def State.setReg (s : State) (n : Nat) (v : W64) : State := { s with regs := s.regs.put n v }
/-- An event the device raises for itself: taken before anything else happens (log 1). -/
def State.post (s : State) (unit arg : Nat) (i : Instr) : State := { s with pend := s.pend ++ [.event unit arg i] }

/-- Field [lo + n - 1 : lo] of a word, as a number. -/
def fld (x : W64) (lo n : Nat) : Nat := bitsOf x.toNat lo n
/-- The word with field [lo + n - 1 : lo] replaced. -/
def setFld (x : W64) (lo n v : Nat) : W64 :=
  BitVec.ofNat 64 (x.toNat % 2 ^ lo + 2 ^ lo * (v % 2 ^ n) + 2 ^ (lo + n) * (x.toNat / 2 ^ (lo + n)))
/-- Bit n of a word. -/
def bit (x : W64) (n : Nat) : Bool := x.toNat / 2 ^ n % 2 == 1
/-- A saturating increment of a counter of n bits at lo. -/
def bumpSat (x : W64) (lo n : Nat) : W64 := if fld x lo n = 2 ^ n - 1 then x else setFld x lo n (fld x lo n + 1)

/-- The device time base in nanoseconds (R5, R9), which no die clock changes: `cycle` counts periods of 2,100 MHz (log 4). -/
def State.now (s : State) : W64 := BitVec.ofNat 64 (s.cycle * 10 / 21)

/-- A fresh value that the spec leaves open (log 10). -/
def State.freshWord (s : State) : State × W64 :=
  ({ s with dev := { s.dev with fresh := s.dev.fresh + 1 } }, Config.freeWord s.dev.fresh)
/-- The counter of free values advanced where one has been used. -/
def State.freed (s : State) (used : Bool) : State := if used then { s with dev := { s.dev with fresh := s.dev.fresh + 1 } } else s

/-! Unit numbers (R7). -/

def dieOfCore (n : Nat) : Nat := n / 64 % 8
def coreY (n : Nat) : Nat := n / 8 % 8
def coreX (n : Nat) : Nat := n % 8
def panelOfCore (n : Nat) : Nat := 4 * dieOfCore n + 2 * (coreY n / 4) + coreX n / 4
/-- The die of context n, or of core k's hidden trap context 2048 + k. -/
def dieOfCtx (n : Nat) : Nat := dieOfCore (if n < 2048 then n / 4 else n - 2048)
def dieOfPanel (p : Nat) : Nat := p / 4
def dieOfStack (k : Nat) : Nat := k / 2
/-- The core at position i = 4 (y mod 4) + (x mod 4) of the panel of core n (R139). -/
def coreAt (n i : Nat) : Nat := n / 64 * 64 + (coreY n / 4 * 4 + i / 4 % 4) * 8 + (coreX n / 4 * 4 + i % 4)

/-! Die clocks (R9). -/

/-- A die's clock in MHz: 0 when dead (R9, R14). -/
def ResMap.clock (m : ResMap) (d : Nat) : Nat := if m.dies.getLsbD d then m.clocks.get 2100 d else 0
/-- Whether a die's clock has an edge in the current period of 2,100 MHz: k of every 7 for the step of 300 k MHz. Which ones is the model's choice
(DESIGN CHOICE, log 113). -/
def State.ticks (s : State) (d : Nat) : Bool :=
  let k := s.map.clock d / 300
  s.cycle % 7 * k / 7 != (s.cycle % 7 + 1) * k / 7
/-- The cycles that the die of context n has counted (R9). -/
def State.cyc (s : State) (n : Nat) : Nat := (s.die (dieOfCtx n)).cyc
/-- The same for the context whose bundle issues: the moment of issue. -/
def State.clk (s : State) : Nat := s.cyc s.cur

/-! The memory list: one canonical form (addresses rising, no zero byte listed). -/

/-- The bytes [base, base + n) as a little-endian number. -/
def getBytes (base n : Nat) : List Host.Cell → Nat
  | [] => 0
  | (a, b) :: m =>
    if a < base then getBytes base n m
    else if a < base + n then b.toNat * 2 ^ (8 * (a - base)) + getBytes base n m
    else 0

/-- The cells of n bytes of v from base on: zero bytes are not listed. -/
def cellsOf (base v : Nat) : Nat → List Host.Cell
  | 0 => []
  | n + 1 => if v % 256 = 0 then cellsOf (base + 1) (v / 256) n else (base, BitVec.ofNat 8 v) :: cellsOf (base + 1) (v / 256) n

/-- The cells from an address on. -/
def dropBelow (lo : Nat) : List Host.Cell → List Host.Cell
  | [] => []
  | (a, b) :: m => if a < lo then dropBelow lo m else (a, b) :: m

/-- n bytes of v stored at base. -/
def putBytes (base n v : Nat) : List Host.Cell → List Host.Cell
  | [] => cellsOf base v n
  | (a, b) :: m => if a < base then (a, b) :: putBytes base n v m else cellsOf base v n ++ dropBelow (base + n) ((a, b) :: m)

/-- The canonical form, from a lower bound on. -/
def Memory.wfFrom (lo : Nat) : List Host.Cell → Bool
  | [] => true
  | (a, b) :: m => decide (lo ≤ a) && b != 0 && Memory.wfFrom (a + 1) m
/-- The canonical form of a memory: addresses strictly rising, no listed byte zero. -/
def Memory.wf (m : List Host.Cell) : Bool := Memory.wfFrom 0 m

/-- One byte of the device's local memory: an unlisted address reads 0 (DESIGN CHOICE, log 14). -/
def State.byte (s : State) (a : Nat) : Byte := BitVec.ofNat 8 (getBytes a 1 s.mem)
def State.bytes (s : State) (a n : Nat) : Nat := getBytes a n s.mem
def State.putMem (s : State) (a n v : Nat) : State := { s with mem := putBytes a n v s.mem }

/-- The address of the row that holds a byte. -/
def rowBase (a : Nat) : Nat := a / 128 * 128
def spAddr (core row : Nat) : Nat := Config.spBase + core * Config.spBytes + row % Config.spRows * 128
def psAddr (panel row : Nat) : Nat := Config.psBase + panel * Config.psStride + row * 128

/-- The kinds of home of a local address (log 2). -/
inductive Home where
  | hbm (stack : Nat)
  | tier (chan : Nat)
  | sp (core : Nat)
  | ps (panel : Nat)
  | sync (die : Nat)
  | desc
  | hole
  deriving DecidableEq, Repr

/-- What lies at a local address: sync space by [55:52] = 0xF (R105), the rest by the model's placement (log 2); second-tier
addresses are interleaved over the 48 channels in 4 KiB units (R8); the extent tables lie in a stack of their die (log 47). -/
def homeOf (a : Nat) : Home :=
  if bitsOf a 52 4 = 15 then .sync (bitsOf a 30 3)
  else if a < Config.nStacks * Config.stackBytes then .hbm (a / Config.stackBytes)
  else if Config.tierBase ≤ a ∧ a < Config.tierBase + Config.tierBytes then
    .tier ((a - Config.tierBase) / 4096 % Config.nChannels)
  else if Config.spBase ≤ a ∧ a < Config.spBase + Config.nCores * Config.spBytes then
    .sp ((a - Config.spBase) / Config.spBytes)
  else if Config.psBase ≤ a ∧ a < Config.psBase + Config.nPanels * Config.psStride then
    if (a - Config.psBase) % Config.psStride / 128 < Config.psRows then .ps ((a - Config.psBase) / Config.psStride) else .hole
  else if a / 2 ^ 21 = Config.capBase / 2 ^ 21 then .desc
  else if Config.extTab ≤ a ∧ a < Config.extTab + 2048 * 256 then .hbm ((a - Config.extTab) / 65536 * 2)
  else .hole

/-- The array code of a home (R208). -/
def Home.array : Home → Nat
  | .hbm _ => 10
  | .tier _ => 11
  | .sp _ => 6
  | .ps _ => 7
  | .sync _ => 8
  | .desc => 14
  | .hole => 14

/-- The die at which a row's sync operations perform: the home die (R163, R331); base-die homes use die 0 (log 15). -/
def Home.die : Home → Nat
  | .hbm k => dieOfStack k
  | .tier _ => 0
  | .sp c => dieOfCore c
  | .ps p => dieOfPanel p
  | .sync d => d
  | .desc => 0
  | .hole => 0

/-- Memory whose unit is lost, and pages that self-test retired, keep their addresses and perform nothing (R211). -/
def State.lost (s : State) (a : Nat) : Bool :=
  match homeOf a with
  | .hbm k => !(s.map.hbms.getLsbD k) || s.dev.retired.find (a / 4096) != none
  | .tier c => !(s.map.tierch.getLsbD c) || s.dev.retired.find (a / 4096) != none
  | _ => false

/-- The named fields of a write, each a low bit and a width, over an old value. -/
def keepFields (old v : W64) (fs : List (Nat × Nat)) : W64 := fs.foldl (fun x f => setFld x f.1 f.2 (fld v f.1 f.2)) old
/-- Where a device register's base lies in this device's memory: its local part, of the bits from lo up (log 63). -/
def State.baseAt (s : State) (num lo : Nat) : Nat := fld (s.reg num) 0 58 / 2 ^ lo * 2 ^ lo

/-! Error records (R212). -/

/-- One record into the device error ring, dropped and counted when the ring is full. -/
def State.errRecord (s : State) (addr : W64) (array kind : Nat) (inj : Bool) (synd ctx : Nat) : State :=
  let n := 2 ^ fld (s.reg 0x333) 0 5
  let erp := fld (s.reg 0x334) 0 48
  let full := decide (n ≤ (erp + 2 ^ 48 - fld (s.reg 0x335) 0 48) % 2 ^ 48)
  let word1 := array + 2 ^ 8 * (kind + 2 ^ 4 * (if inj then 1 else 0)) + 2 ^ 16 * synd + 2 ^ 32 * ctx
  let rec32 := addr.toNat + 2 ^ 64 * (word1 + 2 ^ 64 * s.now.toNat)
  let p := setFld (s.reg 0x334) 0 48 (erp + 1)
  let s := s.freed true
  if full then s.setReg 0x334 (bumpSat p 48 16)
  else (s.putMem (s.baseAt 0x333 12 + erp % n * 32) 32 rec32).setReg 0x334 p

/-- No context in an error record. -/
def noCtx : Nat := 0xFFF

/-- A core's ERRLOG counter at bit `lo`, `n` bits, advanced (R212). -/
def State.bumpErrlog (s : State) (core lo n : Nat) : State :=
  s.modCore core fun c => { c with errlog := bumpSat c.errlog lo n }

/-! Error injection (R213). -/

/-- Whether an armed error names this read: array code and target. A memory row is named by its device address, a register by core, context and
number; for the arrays whose form R213 does not give, a row of sync SRAM is named by its sync address in VIEW 0, a dictionary entry by its core and the
low 13 bits of its number, and a router as R212 names it (DESIGN CHOICE, log 69). -/
def State.injHit (s : State) (array target : Nat) : Bool :=
  bit (s.reg 0x301) 63 && fld (s.reg 0x301) 12 4 == array &&
    (if array = 9 then (s.reg 0x300).toNat == target
    else if 6 ≤ array then s.baseAt 0x300 7 / 128 == target / 128 else fld (s.reg 0x300) 0 22 == target)

/-- Firing clears ARM and sets FIRED. -/
def State.injFire (s : State) : State := s.setReg 0x301 (setFld (s.reg 0x301) 62 2 1)
/-- KIND of the armed error: 3 acts as 0 (DEDUCED, log 70). -/
def State.injKind (s : State) : Nat := let k := fld (s.reg 0x301) 10 2; if k = 3 then 0 else k

/-- The core whose arrays a home belongs to, for ERRLOG. -/
def State.errCore (s : State) (h : Home) (lo n : Nat) : State :=
  match h with
  | .sp c => s.bumpErrlog c lo n
  | _ => s

/-- A read of a memory row sees the armed error, if it names the row: corrected with a record and a write-back to come,
or poisoned (R209, R213). -/
def State.injRow (s : State) (a : Nat) : State :=
  let h := homeOf a
  if s.injHit h.array a then
    let s' := s.injFire
    let base := BitVec.ofNat 64 (rowBase a)
    if s.injKind = 0 then
      ((s'.errCore h 0 16).errRecord base h.array 1 true (Config.syndrome s.dev.fresh).toNat noCtx).post (rowBase a) 0
        .correctedWriteback
    else
      let s'' := if s'.poison.contains (rowBase a) then s' else { s' with poison := rowBase a :: s'.poison }
      (s''.errCore h 16 16).errRecord base h.array 2 true (Config.syndrome s.dev.fresh).toNat noCtx
  else s

/-- A read of an array that keeps no poison codeword sees the armed error, if it names it: corrected, or uncorrectable, which the answer says (R209,
R213). The record takes the address `a`; `core` is the core whose array it is, `ctx` the context. -/
def State.injArray (s : State) (array target : Nat) (a : W64) (core : Option Nat) (ctx : Nat) : State × Bool :=
  if s.injHit array target then
    let bad := decide (s.injKind ≠ 0)
    let t := s.injFire
    let t := match core with | some k => t.bumpErrlog k (if bad then 16 else 0) 16 | none => t
    (t.errRecord a array (if bad then 2 else 1) true (Config.syndrome s.dev.fresh).toNat ctx, bad)
  else (s, false)

/-! Row access by address (R152, R153, R209, R211). Sync space and the description area have rows of their own. -/

/-- The poison codeword placed in a row. -/
def State.setPoison (s : State) (a : Nat) : State :=
  if s.poison.contains (rowBase a) then s else { s with poison := rowBase a :: s.poison }
def State.isPoison (s : State) (a : Nat) : Bool := s.poison.contains (rowBase a)

/-- What n bytes of a hole read as: free values (log 3). -/
def holeRow (a : Nat) : Nat → Nat
  | 0 => 0
  | n + 1 => (Config.holeByte a).toNat + 256 * holeRow (a + 1) n

/-- The error record of an access to lost memory (R211). -/
def State.lostRec (s : State) (a : Nat) : State :=
  s.errRecord (BitVec.ofNat 64 (rowBase a)) (homeOf a).array 2 false (Config.syndrome s.dev.fresh).toNat noCtx

/-- A row's data as stored, without errors. -/
def State.rawRow (s : State) (a : Nat) : Row :=
  match homeOf a with
  | .hole => BitVec.ofNat 1024 (holeRow (rowBase a) 128)
  | _ => BitVec.ofNat 1024 (getBytes (rowBase a) 128 s.mem)

/-- A masked store into a plain memory row: one atomic write of the named bytes. A partial store leaves a poisoned row
poisoned and discards its bytes; a full store clears poison; a poisoned store writes the poison codeword (R209). -/
def State.storeMem (s : State) (a : Nat) (data mask : Row) (poison : Bool) : State :=
  let base := rowBase a
  let new : Row := (BitVec.ofNat 1024 (getBytes base 128 s.mem) &&& ~~~mask) ||| (data &&& mask)
  if mask = 0 then s
  else if poison then s.setPoison a
  else if mask = BitVec.allOnes 1024 then
    { s with mem := putBytes base 128 new.toNat s.mem, poison := s.poison.filter (· != base) }
  else if s.poison.contains base then s
  else { s with mem := putBytes base 128 new.toNat s.mem }

/-- Lane mask to bit mask: bit l of the lane mask enables bits [32l + 31 : 32l]. -/
def laneMaskFrom (lanes : Nat) : Nat → Nat
  | 0 => 0
  | n + 1 => laneMaskFrom lanes n + (if lanes / 2 ^ n % 2 = 1 then (2 ^ 32 - 1) * 2 ^ (32 * n) else 0)
def laneMask (lanes : Nat) : Row := BitVec.ofNat 1024 (laneMaskFrom lanes 32)
def fullMask : Row := BitVec.allOnes 1024

/-- Whether the device answers nothing but CXL.io configuration accesses: in BADIMAGE (R11). -/
def State.mute (s : State) : Bool := s.dev.rst == .badImage
/-- What a state's change comes to where the device answers: nothing in BADIMAGE (R11). -/
def State.heard (s : State) (t : State) : State := if s.mute then s else t

end Sys2Proof.Machine
end

