-- ==== Sys2Proof/Machine/Journal.lean ====
section
/-! DEFINITION. The acceptance journal (R88, R95): where its records lie, what they hold, and publishes (R94). -/

namespace Sys2Proof.Machine

/-- Fields of a 128 B command entry (R85): n bytes at an offset. -/
def enF (e : Row) (off n : Nat) : Nat := e.toNat / 2 ^ (8 * off) % 2 ^ (8 * n)
def enSEQ (e : Row) : Nat := enF e 0 8
/-- A command's number in the model: its queue and SEQ. -/
def cmdKey (queue seq : Nat) : Nat := queue * 2 ^ 64 + seq

/-- JCFG's fields: base and count of records, 0 when acceptance is disabled. -/
def State.jBase (s : State) : Nat := s.baseAt 0x310 20
def State.jCount (s : State) : Nat := let l := fld (s.reg 0x310) 0 5; if l = 0 then 0 else 2 ^ l
/-- Record j, and its mirror 4 KiB above it. -/
def State.jRec (s : State) (j : Nat) : Nat := s.jBase + 4096 + j / 16 * 8192 + j % 16 * 256
/-- The record of a command, in ring order of acceptance. -/
def State.jRecOf (s : State) (c : Cmd) : Nat := s.jRec (c.recNo % s.jCount)
/-- STATE of a record: 3 DONE, 2 STARTED once it has been started, else 1 ACCEPTED. -/
def Cmd.code (c : Cmd) : Nat := if c.st = .done then 3 else if c.runs = 0 then 1 else 2
/-- The second row of a record: QUEUE, STATE, RUNS, ACCTIME, PUBMAP. The status and LATE of a finished command stand in reserved
bytes 0x83 and 0x84, so that its completion can be written again (DESIGN CHOICE, log 28). -/
def Cmd.recRow (c : Cmd) : Row :=
  BitVec.ofNat 1024 (c.queue + 2 ^ 8 * c.code + 2 ^ 16 * (c.runs % 256) + 2 ^ 24 * c.status + 2 ^ 32 * (if c.late then 1 else 0) +
    2 ^ 64 * c.acc + 2 ^ 128 * c.pubmap.toNat)
/-- A row written to the journal; a lost channel keeps nothing. -/
def State.jPut (s : State) (a : Nat) (r : Row) : State := if s.lost a then s else s.storeMem a r fullMask false
/-- A record written, both copies. -/
def State.writeRec (s : State) (c : Cmd) : State :=
  if s.jCount = 0 then s
  else
    let a := s.jRecOf c
    (((s.jPut a c.entry).jPut (a + 128) c.recRow).jPut (a + 4096) c.entry).jPut (a + 4096 + 128) c.recRow
/-- A row of the journal as the device reads it: the lower copy unless its row fails its code check. -/
def State.jGet (s : State) (a : Nat) : Row := if s.isPoison a || s.lost a then s.rawRow (a + 4096) else s.rawRow a
/-- A record retired: STATE FREE in both copies. -/
def State.freeRec (s : State) (c : Cmd) : State :=
  if s.jCount = 0 then s
  else
    let a := s.jRecOf c + 128
    let r : Row := BitVec.ofNat 1024 (c.recRow.toNat - 2 ^ 8 * c.code)
    (s.jPut a r).jPut (a + 4096) r
/-- A queue's high-water sequence (R84, R88). -/
def State.highWater (s : State) (q : Nat) : Nat := s.bytes (s.jBase + 8 * q) 8
def State.setHighWater (s : State) (q seq : Nat) : State := if s.lost (s.jBase + 8 * q) then s else s.putMem (s.jBase + 8 * q) 8 seq

/-- Bit n of a command's PUBMAP set, in both copies (R94). -/
def State.setPub (s : State) (cmd n : Nat) : State :=
  match s.cmds.find cmd with
  | none => s
  | some c =>
    let c := { c with pubmap := c.pubmap ||| BitVec.ofNat 256 (2 ^ n) }
    { s with cmds := s.cmds.put cmd c }.writeRec c
/-- The mapping row of a publish noted (R95). -/
def State.notePub (s : State) (cmd n : Nat) (x : W64) : State := { s with dev := { s.dev with shown := (cmd, n, x) :: s.dev.shown } }
def State.pubDone (s : State) (cmd n : Nat) : Bool :=
  match s.cmds.find cmd with | some c => c.pubmap.getLsbD n | none => false

end Sys2Proof.Machine
end

