-- ==== Sys2Proof/Machine/Flags.lean ====
section
/-! DEFINITION. Number formats, rounding and exception flags (R190 to R204): exact dyadic arithmetic on decoded values,
rounded once. Flag bits are those of FPSTAT: NV 1, DZ 2, OF 4, UF 8, NX 16 (R199). -/

namespace Sys2Proof.Machine

/-- A decoded floating-point value: a finite one is (-1)^neg * mant * 2^exp, zero included with its sign. -/
inductive FVal where
  | nan (signalling : Bool)
  | inf (neg : Bool)
  | fin (neg : Bool) (mant : Nat) (exp : Int)
  deriving DecidableEq, Repr

/-- Layout of a floating-point format (R190): exponent bits, fraction bits; `top` is set for E4M3, whose top exponent
holds finite values. -/
structure Fp where
  e : Nat
  m : Nat
  top : Bool
  deriving DecidableEq, Repr

def fp32 : Fp := ⟨8, 23, false⟩
def bf16 : Fp := ⟨8, 7, false⟩
def fp16 : Fp := ⟨5, 10, false⟩
def e4m3 : Fp := ⟨4, 3, true⟩
def e5m2 : Fp := ⟨5, 2, false⟩

/-- The floating-point format of a format-field code (R247). -/
def fpOf (code : Nat) : Fp :=
  if code = 1 then bf16 else if code = 2 then fp16 else if code = 3 then e4m3 else if code = 4 then e5m2 else fp32

def Fp.bias (f : Fp) : Nat := 2 ^ (f.e - 1) - 1
def Fp.signBit (f : Fp) : Nat := 2 ^ (f.e + f.m)
/-- Encoding of the largest finite value, sign clear (R190). -/
def Fp.maxFinite (f : Fp) : Nat := if f.top then (2 ^ f.e - 1) * 2 ^ f.m + 2 ^ f.m - 2 else (2 ^ f.e - 1) * 2 ^ f.m - 1
/-- Encoding of infinity; for E4M3 of its NaN, sign clear (R192). -/
def Fp.infBits (f : Fp) : Nat := if f.top then (2 ^ f.e - 1) * 2 ^ f.m + 2 ^ f.m - 1 else (2 ^ f.e - 1) * 2 ^ f.m
/-- The canonical NaN (R190). -/
def Fp.nanBits (f : Fp) : Nat :=
  if f.top then (2 ^ f.e - 1) * 2 ^ f.m + 2 ^ f.m - 1 else (2 ^ f.e - 1) * 2 ^ f.m + 2 ^ (f.m - 1)

/-- decode_fp of R250: the exact value, infinity or NaN of an encoding (R190, R191). -/
def decodeFp (f : Fp) (bits : Nat) : FVal :=
  let neg := bits / f.signBit % 2 == 1
  let ex := bits / 2 ^ f.m % 2 ^ f.e
  let fr := bits % 2 ^ f.m
  if ex = 2 ^ f.e - 1 ∧ (!f.top ∨ fr = 2 ^ f.m - 1) then
    if !f.top ∧ fr = 0 then .inf neg else .nan (fr / 2 ^ (f.m - 1) % 2 == 0)
  else if ex = 0 then .fin neg fr (1 - (f.bias : Int) - (f.m : Int))
  else .fin neg (2 ^ f.m + fr) ((ex : Int) - (f.bias : Int) - (f.m : Int))

/-- Rounding modes of FPMODE.RM (R199, R200); SR carries the 24-bit draw of the lane (R201). -/
inductive RMode where
  | rne | rtz | rup | rdn
  | sr (u : Nat)
  deriving DecidableEq, Repr

/-- Whether the remainder `rem` out of `2 ^ d` rounds the magnitude up, the kept part being odd or not (R200, R201). -/
def roundsUp (mode : RMode) (neg odd : Bool) (rem d : Nat) : Bool :=
  match mode with
  | .rne => decide (2 ^ d < 2 * rem) || (decide (2 * rem = 2 ^ d) && odd)
  | .rtz => false
  | .rup => decide (rem ≠ 0) && !neg
  | .rdn => decide (rem ≠ 0) && neg
  | .sr u => decide (rem ≠ 0) && decide (2 ^ 24 ≤ rem * 2 ^ 24 / 2 ^ d + u)

/-- mant * 2^exp rounded to a multiple of 2^q: the multiple, and whether it is inexact. A shift far below the lowest
bit is cut to one that rounds alike. -/
def roundAt (mode : RMode) (neg : Bool) (mant : Nat) (exp q : Int) : Nat × Bool :=
  if q ≤ exp then (mant * 2 ^ (exp - q).toNat, false)
  else
    let d := min (q - exp).toNat (Nat.log2 mant + 40)
    let kept := mant / 2 ^ d
    let rem := mant % 2 ^ d
    (kept + (if roundsUp mode neg (kept % 2 == 1) rem d then 1 else 0), rem != 0)

/-- A number rounded to an integer: VRND and conversions to integer formats (R193, R311). -/
def roundInt (mode : RMode) (neg : Bool) (mant : Nat) (exp : Int) : Nat × Bool := roundAt mode neg mant exp 0

def signed (f : Fp) (neg : Bool) (bits : Nat) : Nat := if neg then f.signBit + bits else bits

/-- The result IEEE 754-2019 gives on overflow under a mode (R192); for E4M3 its NaN stands for infinity. SR takes the
RNE result (R201). -/
def overflowBits (f : Fp) (mode : RMode) (neg : Bool) : Nat :=
  match mode with
  | .rne | .sr _ => signed f neg f.infBits
  | .rtz => signed f neg f.maxFinite
  | .rup => if neg then signed f neg f.maxFinite else signed f neg f.infBits
  | .rdn => if neg then signed f neg f.infBits else signed f neg f.maxFinite

/-- The encoding of a multiple M of 2^q, q at least the format's least: the value may exceed the largest finite one. -/
def packFp (f : Fp) (M : Nat) (q : Int) : Nat :=
  if M = 0 then 0
  else if M < 2 ^ f.m then M
  else
    let carry := M / 2 ^ (f.m + 1)
    let ex := (q + (f.m : Int) + (f.bias : Int)).toNat + carry
    ex * 2 ^ f.m + (M / 2 ^ carry - 2 ^ f.m)

/-- encode_fp of R250 for a nonzero finite value: bits and flags (R191, R192, R199). Underflow is judged after rounding
to the format's precision with an unbounded exponent. -/
def encodeFin (f : Fp) (mode : RMode) (neg : Bool) (mant : Nat) (exp : Int) : Nat × Nat :=
  let lg : Int := exp + (Nat.log2 mant : Int)
  let emin : Int := 1 - (f.bias : Int)
  let q : Int := max lg emin - (f.m : Int)
  let r := roundAt mode neg mant exp q
  let bits := packFp f r.1 q
  if f.maxFinite < bits ∨ (match mode with | .sr _ => decide (f.maxFinite < packFp f (roundAt .rtz neg mant exp q).1 q) ||
      (packFp f (roundAt .rtz neg mant exp q).1 q == f.maxFinite && r.2) | _ => false) = true then
    match mode with
    | .sr _ =>
      let r' := roundAt .rne neg mant exp q
      if f.maxFinite < packFp f r'.1 q then (overflowBits f .rne neg, 4 + 16)
      else (signed f neg (packFp f r'.1 q), 16)
    | _ => (overflowBits f mode neg, 4 + 16)
  else
    let tiny := decide (lg < emin) && decide ((roundAt mode neg mant exp (lg - (f.m : Int))).1 < 2 ^ (f.m + 1)) ||
      decide (lg < emin - 1)
    (signed f neg bits, (if r.2 then 16 else 0) + (if tiny && r.2 then 8 else 0))

/-- The encoding and flags of any value: NaN canonical, NV for a signalling one (R191). -/
def encodeFp (f : Fp) (mode : RMode) (v : FVal) : Nat × Nat :=
  match v with
  | .nan sig => (f.nanBits, if sig then 1 else 0)
  | .inf neg => (signed f neg f.infBits, 0)
  | .fin neg mant exp => if mant = 0 then (signed f neg 0, 0) else encodeFin f mode neg mant exp

def FVal.isNan : FVal → Bool
  | .nan _ => true
  | _ => false
def FVal.isSnan : FVal → Bool
  | .nan s => s
  | _ => false
def FVal.isInf : FVal → Bool
  | .inf _ => true
  | _ => false
def FVal.isZero : FVal → Bool
  | .fin _ 0 _ => true
  | _ => false
def FVal.neg : FVal → Bool
  | .nan _ => false
  | .inf n => n
  | .fin n _ _ => n
def FVal.negate : FVal → FVal
  | .nan s => .nan s
  | .inf n => .inf (!n)
  | .fin n m e => .fin (!n) m e
def FVal.abs : FVal → FVal
  | .nan s => .nan s
  | .inf _ => .inf false
  | .fin _ m e => .fin false m e

/-- The exact product, and whether it is the invalid 0 × ∞. -/
def mulV (a b : FVal) : FVal × Bool :=
  match a, b with
  | .nan s, _ => (.nan s, false)
  | _, .nan s => (.nan s, false)
  | .inf n, y => if y.isZero then (.nan false, true) else (.inf (n != y.neg), false)
  | x, .inf n => if x.isZero then (.nan false, true) else (.inf (n != x.neg), false)
  | .fin n m e, .fin n' m' e' => (.fin (n != n') (m * m') (e + e'), false)

/-- The exact sum and whether it is the invalid ∞ − ∞; an exact zero takes its sign by the mode (R191, R309). -/
def addV (mode : RMode) (a b : FVal) : FVal × Bool :=
  match a, b with
  | .nan s, .nan s' => (.nan (s || s'), false)
  | .nan s, _ => (.nan s, false)
  | _, .nan s => (.nan s, false)
  | .inf n, .inf n' => if n = n' then (.inf n, false) else (.nan false, true)
  | .inf n, _ => (.inf n, false)
  | _, .inf n => (.inf n, false)
  | .fin n m e, .fin n' m' e' =>
    let lo := min e e'
    let x : Int := (m * 2 ^ (e - lo).toNat : Nat)
    let y : Int := (m' * 2 ^ (e' - lo).toNat : Nat)
    let s := (if n then -x else x) + (if n' then -y else y)
    if s = 0 then (.fin (if n = n' then n else (mode == .rdn)) 0 0, false)
    else (.fin (decide (s < 0)) s.natAbs lo, false)

/-- Encoding and flags of an operation's exact result: NV for an invalid operation or a signalling operand. -/
def finishV (f : Fp) (mode : RMode) (r : FVal × Bool) (sig : Bool) : Nat × Nat :=
  let e := encodeFp f mode r.1
  (e.1, if r.2 || sig then (e.2 / 2 * 2 + 1) else e.2)

/-- a + b. -/
def fpAdd (f : Fp) (mode : RMode) (a b : Nat) : Nat × Nat :=
  let x := decodeFp f a
  let y := decodeFp f b
  finishV f mode (addV mode x y) (x.isSnan || y.isSnan)
/-- a - b. -/
def fpSub (f : Fp) (mode : RMode) (a b : Nat) : Nat × Nat :=
  let x := decodeFp f a
  let y := decodeFp f b
  finishV f mode (addV mode x y.negate) (x.isSnan || y.isSnan)
/-- a × b. -/
def fpMul (f : Fp) (mode : RMode) (a b : Nat) : Nat × Nat :=
  let x := decodeFp f a
  let y := decodeFp f b
  finishV f mode (mulV x y) (x.isSnan || y.isSnan)
/-- ±(a × b) ± c, rounded once; NV for 0 × ∞ whatever c is (R309). -/
def fpFma (f : Fp) (mode : RMode) (negP negC : Bool) (a b c : Nat) : Nat × Nat :=
  let x := decodeFp f a
  let y := decodeFp f b
  let z := decodeFp f c
  let p := mulV x y
  let p' := if negP then p.1.negate else p.1
  let z' := if negC then z.negate else z
  let s := addV mode p' z'
  finishV f mode (s.1, s.2 || p.2) (x.isSnan || y.isSnan || z.isSnan)

/-- The binary32 operations that the device rounds to nearest even outside the vector slot (R200). -/
def add32 (a b : Nat) : Nat := (fpAdd fp32 .rne a b).1
def sub32 (a b : Nat) : Nat := (fpSub fp32 .rne a b).1
def mul32 (a b : Nat) : Nat := (fpMul fp32 .rne a b).1
def fma32 (a b c : Nat) : Nat := (fpFma fp32 .rne false false a b c).1

/-- Exact comparison of two values that are no NaN; −0 equals +0. -/
def cmpV (a b : FVal) : Ordering :=
  match a, b with
  | .fin n m e, .fin n' m' e' =>
    let lo := min e e'
    let x : Int := (m * 2 ^ (e - lo).toNat : Nat)
    let y : Int := (m' * 2 ^ (e' - lo).toNat : Nat)
    compare (if n then -x else x) (if n' then -y else y)
  | .inf n, .inf n' => if n = n' then .eq else if n then .lt else .gt
  | .inf n, _ => if n then .lt else .gt
  | _, .inf n => if n then .gt else .lt
  | _, _ => .eq

/-- Whether a is less than b where +0 counts as larger than −0 (R191). -/
def ltZ (a b : FVal) : Bool :=
  match cmpV a b with
  | .lt => true
  | .gt => false
  | .eq => a.isZero && b.isZero && a.neg && !b.neg

/-- Minimum and maximum (R191, R310). -/
def fpMinMax (f : Fp) (isMax : Bool) (a b : Nat) : Nat × Nat :=
  let x := decodeFp f a
  let y := decodeFp f b
  let nv := if x.isSnan || y.isSnan then 1 else 0
  if x.isNan || y.isNan then (f.nanBits, nv)
  else if ltZ x y == isMax then (b, 0) else (a, 0)

/-- VABS and VNEG (R310): a NaN gives the canonical NaN, no flag. -/
def fpAbs (f : Fp) (a : Nat) : Nat := if (decodeFp f a).isNan then f.nanBits else a % f.signBit
def fpNeg (f : Fp) (a : Nat) : Nat :=
  if (decodeFp f a).isNan then f.nanBits else (a + f.signBit) % (2 * f.signBit)

/-- VRND (R311). -/
def fpRnd (f : Fp) (mode : RMode) (nox : Bool) (a : Nat) : Nat × Nat :=
  match decodeFp f a with
  | .nan s => (f.nanBits, if s then 1 else 0)
  | .inf _ => (a, 0)
  | .fin n m e =>
    let r := roundInt mode n m e
    if r.2 = false then (a, 0)
    else ((if r.1 = 0 then signed f n 0 else (encodeFin f .rne n r.1 0).1), if nox then 0 else 16)

/-- VSCALB: a × 2^k, rounded once (R311). An exponent beyond ±1,000 overflows or vanishes alike. -/
def fpScalb (f : Fp) (mode : RMode) (a : Nat) (k : Int) : Nat × Nat :=
  match decodeFp f a with
  | .fin n m e => encodeFp f mode (.fin n m (e + max (-1000) (min 1000 k)))
  | v => encodeFp f mode v

/-- Compare conditions of VCMP (R312): code, result and NV. -/
def fpCmp (cond : Nat) (a b : Nat) : Bool × Nat :=
  let x := decodeFp fp32 a
  let y := decodeFp fp32 b
  let nan := x.isNan || y.isNan
  let snan := x.isSnan || y.isSnan
  let quiet := if snan then 1 else 0
  let loud := if nan then 1 else 0
  match cond with
  | 0 => (!nan && cmpV x y == .eq, quiet)
  | 1 => (!nan && cmpV x y == .lt, loud)
  | 2 => (!nan && cmpV x y != .gt, loud)
  | 3 => (nan, quiet)
  | _ => (nan || cmpV x y != .eq, quiet)

/-! Integers (R193, R194, R250). -/

/-- Whether an integer format is signed: I32 and I8. -/
def intSigned (fmt : Nat) : Bool := fmt == 8 || fmt == 10
def intMin (fmt : Nat) : Int := if intSigned fmt then -((2 ^ (fmtWidth fmt - 1) : Nat) : Int) else 0
def intMax (fmt : Nat) : Int :=
  if intSigned fmt then ((2 ^ (fmtWidth fmt - 1) : Nat) : Int) - 1 else ((2 ^ fmtWidth fmt : Nat) : Int) - 1
/-- An element's value in an integer format. -/
def intOf (fmt bits : Nat) : Int := if intSigned fmt then sextNat bits (fmtWidth fmt) else ((bits % 2 ^ fmtWidth fmt : Nat) : Int)
/-- wrap_int: the low bits. -/
def wrapInt (w : Nat) (x : Int) : Nat := (x % ((2 ^ w : Nat) : Int)).toNat
/-- sat_int: clamped to the format's range. -/
def satInt (fmt : Nat) (x : Int) : Nat := wrapInt (fmtWidth fmt) (max (intMin fmt) (min (intMax fmt) x))

/-! Conversion (R192, R193, R314). -/

/-- The saturating form for E4M3 and E5M2 (R192). -/
def saturate (f : Fp) (v : FVal) (r : Nat × Nat) : Nat × Nat :=
  match v with
  | .inf n => (signed f n f.maxFinite, 1)
  | .fin n _ _ => if f.maxFinite < r.1 % f.signBit then (signed f n f.maxFinite, r.2) else r
  | .nan _ => r

/-- Floating point to floating point. An infinity converts to E4M3 as its sign's NaN and raises NV. -/
def cvtFp (f g : Fp) (mode : RMode) (sat : Bool) (a : Nat) : Nat × Nat :=
  let v := decodeFp f a
  let r := encodeFp g mode v
  let r := if g.top && v.isInf then (r.1, 1) else r
  if sat then saturate g v r else r

/-- Floating point to integer: rounded, NaN gives 0 and NV, out of range saturates with NV (R193). -/
def cvtToInt (f : Fp) (fmt : Nat) (mode : RMode) (a : Nat) : Nat × Nat :=
  match decodeFp f a with
  | .nan _ => (0, 1)
  | .inf n => (wrapInt (fmtWidth fmt) (if n then intMin fmt else intMax fmt), 1)
  | .fin n m e =>
    let r := roundInt mode n m (min e 64)
    let x : Int := if n then -(r.1 : Int) else (r.1 : Int)
    if x < intMin fmt ∨ intMax fmt < x then (satInt fmt x, 1)
    else (wrapInt (fmtWidth fmt) x, if r.2 then 16 else 0)

/-- Integer to floating point: rounded under the mode. -/
def cvtFromInt (fmt : Nat) (g : Fp) (mode : RMode) (sat : Bool) (a : Nat) : Nat × Nat :=
  let x := intOf fmt a
  let v : FVal := .fin (decide (x < 0)) x.natAbs 0
  let r := encodeFp g mode v
  if sat then saturate g v r else r

/-- convert(s, d, x) of R314 under a mode. -/
def convert (s d : Nat) (mode : RMode) (sat : Bool) (a : Nat) : Nat × Nat :=
  let intS := decide (8 ≤ s)
  let intD := decide (8 ≤ d)
  match intS, intD with
  | true, true => (if sat then satInt d (intOf s a) else wrapInt (fmtWidth d) (intOf s a), 0)
  | true, false => cvtFromInt s (fpOf d) mode sat a
  | false, true => cvtToInt (fpOf s) d mode a
  | false, false =>
    if s = d then (match decodeFp (fpOf s) a with | .nan g => ((fpOf s).nanBits, if g then 1 else 0) | _ => (a, 0))
    else cvtFp (fpOf s) (fpOf d) mode sat a

/-! The function unit (R204): correctly rounded binary32. Exact cases are exact; the others are evaluated in fixed point
with 256 fraction bits and a sticky bit below, then rounded once. DEDUCED (log 13): 256 bits decide every binary32
operand. -/

/-- Fraction bits of the fixed point. -/
def fxP : Nat := 256
/-- ln 2 × 2^256, truncated. -/
def ln2Fx : Nat := 80260960185991308862233904206310070533990667611589946606122867505419956976171

/-- The square root of a number, rounded down: one result bit a step, from bit `k` down. -/
def isqrtFrom (x : Nat) : Nat → Nat → Nat
  | 0, r => if (r + 1) * (r + 1) ≤ x then r + 1 else r
  | k + 1, r => isqrtFrom x k (if (r + 2 ^ (k + 1)) * (r + 2 ^ (k + 1)) ≤ x then r + 2 ^ (k + 1) else r)
def isqrt (x : Nat) : Nat := isqrtFrom x (Nat.log2 x / 2 + 1) 0

/-- Taylor sum of e^r in fixed point, 0 ≤ r < 1: `n` terms from term number `k`. -/
def expTerms (r : Nat) : Nat → Nat → Nat → Nat → Nat
  | 0, _, _, acc => acc
  | n + 1, k, term, acc =>
    let t := term * r / 2 ^ fxP / k
    expTerms r n (k + 1) t (acc + t)
/-- e^r × 2^256 for r in fixed point below 1. -/
def expFx (r : Nat) : Nat := expTerms r 64 1 (2 ^ fxP) (2 ^ fxP)

/-- atanh series: z + z^3/3 + … in fixed point. -/
def atanhTerms (z2 : Nat) : Nat → Nat → Nat → Nat → Nat
  | 0, _, _, acc => acc
  | n + 1, k, pw, acc =>
    let p := pw * z2 / 2 ^ fxP
    atanhTerms z2 n (k + 2) p (acc + p / (k + 2))
/-- ln(m / 2^b) in fixed point for a mantissa m with 2^b ≤ m < 2^(b+1). -/
def lnFx (m b : Nat) : Nat :=
  let z := (m - 2 ^ b) * 2 ^ fxP / (m + 2 ^ b)
  2 * atanhTerms (z * z / 2 ^ fxP) 90 1 z z

/-- A fixed-point number with a sticky bit below: mantissa and exponent. -/
def sticky (x : Nat) : FVal := .fin false (2 * x + 1) (-((fxP : Nat) : Int) - 1)

/-- A finite magnitude in fixed point (truncated); the exponent is at most 130. -/
def toFx (m : Nat) (e : Int) : Nat :=
  if 0 ≤ e + (fxP : Int) then m * 2 ^ (e + (fxP : Int)).toNat else m / 2 ^ (-(e + (fxP : Int))).toNat

/-- e^x for x = ±m·2^e with |x| below 200: value in fixed point with an exponent of two beside it. -/
def expParts (neg : Bool) (m : Nat) (e : Int) : Nat × Int :=
  let a := toFx m e
  if neg then
    let n := a / ln2Fx + 1
    (expFx (n * ln2Fx - a), -(n : Int))
  else (expFx (a % ln2Fx), ((a / ln2Fx : Nat) : Int))

/-- A value so small that it rounds to zero or the least subnormal, and one just below 1. -/
def tinyV : FVal := .fin false 1 (-1000)
def hugeV : FVal := .fin false 1 1000
def belowOne : FVal := .fin false (2 ^ 100 - 1) (-100)

/-- Whether |m·2^e| is at least 2^k. -/
def magGe (m : Nat) (e : Int) (k : Int) : Bool := m != 0 && decide (k ≤ e + (Nat.log2 m : Int))

/-- e^x as a value to be rounded. -/
def expV (neg : Bool) (m : Nat) (e : Int) : FVal :=
  if m = 0 then .fin false 1 0
  else if magGe m e 7 then (if neg then tinyV else hugeV)
  else
    let p := expParts neg m e
    .fin false (2 * p.1 + 1) (p.2 - ((fxP : Nat) : Int) - 1)

/-- 2^x as a value to be rounded: exact for integers. -/
def exp2V (neg : Bool) (m : Nat) (e : Int) : FVal :=
  if m = 0 then .fin false 1 0
  else if magGe m e 8 then (if neg then tinyV else hugeV)
  else
    let a := toFx m e
    let n := a / 2 ^ fxP
    let fr := a % 2 ^ fxP
    if fr = 0 then .fin false 1 (if neg then -(n : Int) else (n : Int))
    else if neg then .fin false (2 * expFx ((2 ^ fxP - fr) * ln2Fx / 2 ^ fxP) + 1) (-(n : Int) - 1 - ((fxP : Nat) : Int) - 1)
    else .fin false (2 * expFx (fr * ln2Fx / 2 ^ fxP) + 1) ((n : Int) - ((fxP : Nat) : Int) - 1)

/-- log2 of a positive finite value: exact for powers of two. -/
def log2V (m : Nat) (e : Int) : FVal :=
  let b := Nat.log2 m
  let n : Int := e + (b : Int)
  if m = 2 ^ b then .fin (decide (n < 0)) n.natAbs 0
  else
    let fr := lnFx m b * 2 ^ fxP / ln2Fx
    let x : Int := n * ((2 ^ fxP : Nat) : Int) + (fr : Int)
    if x < 0 then .fin true (2 * x.natAbs - 1) (-((fxP : Nat) : Int) - 1) else .fin false (2 * x.natAbs + 1) (-((fxP : Nat) : Int) - 1)

/-- N / D as a value: 80 quotient bits more than the divisor needs, and a sticky bit. -/
def quotV (neg : Bool) (N D : Nat) (e : Int) : FVal :=
  let k := Nat.log2 D + 80
  let q := N * 2 ^ k / D
  .fin neg (2 * q + (if N * 2 ^ k % D = 0 then 0 else 1)) (e - (k : Int) - 1)

/-- 1 + e^x in fixed point, |x| below 128. -/
def onePlusExp (neg : Bool) (m : Nat) (e : Int) : Nat :=
  let p := expParts neg m e
  2 ^ fxP + (if 0 ≤ p.2 then p.1 * 2 ^ p.2.toNat else p.1 / 2 ^ (-p.2).toNat)

/-- 1 / (1 + e^−x). -/
def sigmV (neg : Bool) (m : Nat) (e : Int) : FVal :=
  if m = 0 then .fin false 1 (-1)
  else if magGe m e 7 then (if neg then tinyV else belowOne)
  else quotV false (2 ^ fxP) (onePlusExp (!neg) m e) 0

/-- x / (1 + e^−x) (R350). -/
def siluV (neg : Bool) (m : Nat) (e : Int) : FVal :=
  if m = 0 then .fin neg 0 0
  else if magGe m e 8 then (if neg then .fin true 1 (-1000) else .fin false (m * 2 ^ 100 - 1) (e - 100))
  else quotV neg (m * 2 ^ fxP) (onePlusExp (!neg) m e) e

/-- tanh x = (e^2x − 1) / (e^2x + 1); below 2^−60 it rounds as x − x³/3 does, just below x. -/
def tanhV (neg : Bool) (m : Nat) (e : Int) : FVal :=
  if m = 0 then .fin neg 0 0
  else if magGe m e 5 then (if neg then belowOne.negate else belowOne)
  else if !magGe m e (-60) then .fin neg (m * 2 ^ 100 - 1) (e - 100)
  else
    let p := expParts false m (e + 1)
    let E := p.1 * 2 ^ p.2.toNat
    quotV neg (E - 2 ^ fxP) (E + 2 ^ fxP) 0

/-- √(m·2^e). -/
def sqrtV (m : Nat) (e : Int) : FVal :=
  let odd := e % 2
  let m' := m * 2 ^ odd.toNat * 2 ^ 80
  let r := isqrt m'
  .fin false (2 * r + (if r * r = m' then 0 else 1)) ((e - odd) / 2 - 40 - 1)

/-- 1 / √(m·2^e). -/
def rsqrtV (m : Nat) (e : Int) : FVal :=
  let odd := e % 2
  let m' := m * 2 ^ odd.toNat
  let k := Nat.log2 m' + 80
  let r := isqrt (2 ^ (2 * k) / m')
  .fin false (2 * r + (if r * r * m' = 2 ^ (2 * k) then 0 else 1)) (-((e - odd) / 2) - (k : Int) - 1)

/-- The eight function-unit operations of R204. -/
inductive Fn where
  | exp2 | log2 | rcp | rsqrt | sqrt | tanh | sigm | exp
  deriving DecidableEq, Repr

/-- One function-unit result with its flags (R204). -/
def fnUnit (fn : Fn) (a : Nat) : Nat × Nat :=
  let one : Nat := 0x3F800000
  match decodeFp fp32 a with
  | .nan s => (fp32.nanBits, if s then 1 else 0)
  | .inf neg =>
    match fn with
    | .exp2 | .exp => (if neg then 0 else fp32.infBits, 0)
    | .log2 | .sqrt => if neg then (fp32.nanBits, 1) else (fp32.infBits, 0)
    | .rcp => (signed fp32 neg 0, 0)
    | .rsqrt => if neg then (fp32.nanBits, 1) else (0, 0)
    | .tanh => (signed fp32 neg one, 0)
    | .sigm => (if neg then 0 else one, 0)
  | .fin neg m e =>
    match fn with
    | .exp2 => encodeFp fp32 .rne (exp2V neg m e)
    | .exp => encodeFp fp32 .rne (expV neg m e)
    | .log2 =>
      if m = 0 then (signed fp32 true fp32.infBits, 2)
      else if neg then (fp32.nanBits, 1) else encodeFp fp32 .rne (log2V m e)
    | .rcp => if m = 0 then (signed fp32 neg fp32.infBits, 2) else encodeFp fp32 .rne (quotV neg 1 m (-e))
    | .rsqrt =>
      if m = 0 then (signed fp32 neg fp32.infBits, 2)
      else if neg then (fp32.nanBits, 1) else encodeFp fp32 .rne (rsqrtV m e)
    | .sqrt =>
      if m = 0 then (a, 0) else if neg then (fp32.nanBits, 1) else encodeFp fp32 .rne (sqrtV m e)
    | .tanh => if m = 0 then (a, 0) else encodeFp fp32 .rne (tanhV neg m e)
    | .sigm => encodeFp fp32 .rne (sigmV neg m e)

/-! Pleat blocks (R195 to R197). A block is a number, byte 0 lowest. -/

/-- Mantissa bits of a pleat format code: P7, P4, P2. -/
def pleatM (code : Nat) : Nat := if code = 5 then 7 else if code = 6 then 4 else 2
/-- Bytes of a pleat block with m mantissa bits. -/
def pleatBytes (m : Nat) : Nat := 2 + 2 * (m + 1)

/-- pleat_decode: element i of a block, as a value (R196). -/
def pleatVal (m block i : Nat) : FVal :=
  let E := block % 256
  let mu := block / 2 ^ (8 + i / 2) % 2
  let el := block / 2 ^ (16 + i * (m + 1)) % 2 ^ (m + 1)
  if E = 255 then .nan false
  else .fin (el / 2 ^ m == 1) (el % 2 ^ m) ((E : Int) - 127 - (mu : Int) - ((m : Int) - 1))

/-- pleat_decode to FP32 bits. -/
def pleatDecode (m block i : Nat) : Nat := (encodeFp fp32 .rne (pleatVal m block i)).1

/-- The larger of two magnitudes. -/
def maxMag (a b : FVal) : FVal := if cmpV a.abs b.abs == .lt then b.abs else a.abs

/-- The shared exponent of 16 values (R197, R339): 0xFF with a NaN or an infinity, 0 when every one is zero. -/
def pleatExp (xs : List Nat) : Nat :=
  let vs := xs.map (decodeFp fp32)
  if vs.any (fun v => v.isNan || v.isInf) then 255
  else
    match vs.foldl maxMag (.fin false 0 0) with
    | .fin _ 0 _ => 0
    | .fin _ m e => (max (e + (Nat.log2 m : Int) + 127) 0).toNat
    | _ => 255

/-- Element i's bits from its value, exponent and micro-exponent (R197). -/
def pleatElem (m E mu : Nat) (v : FVal) : Nat :=
  match v with
  | .fin neg ma ex =>
    let M := (roundInt .rne false ma (ex + 127 + (mu : Int) + (m : Int) - 1 - (E : Int))).1
    (if neg then 2 ^ m else 0) + min M (2 ^ m - 1)
  | _ => 0

/-- Micro-exponent of a pair (R197). -/
def pleatMu (E : Nat) (a b : FVal) : Nat :=
  if cmpV (maxMag a b) (.fin false 1 ((E : Int) - 128)) == .lt then 1 else 0

/-- Pairs of micro-exponent bits and elements of the remaining values, from element index i. -/
def pleatBits (m E : Nat) : Nat → List FVal → Nat
  | i, a :: b :: rest =>
    let mu := pleatMu E a b
    mu * 2 ^ (8 + i / 2) + pleatElem m E mu a * 2 ^ (16 + i * (m + 1)) + pleatElem m E mu b * 2 ^ (16 + (i + 1) * (m + 1)) +
      pleatBits m E (i + 2) rest
  | _, _ => 0

/-- A block quantised with a given exponent (R197, R339), and its NV flag. -/
def pleatWith (m E : Nat) (xs : List Nat) : Nat × Nat :=
  let vs := xs.map (decodeFp fp32)
  let bad := vs.any (fun v => v.isNan || v.isInf)
  if E = 255 ∨ bad = true then (255, if bad then 1 else 0) else (E + pleatBits m E 0 vs, 0)

/-- pleat_encode: a block quantised from 16 values (R197). -/
def pleatEncode (m : Nat) (xs : List Nat) : Nat × Nat := pleatWith m (pleatExp xs) xs

end Sys2Proof.Machine
end

