-- ==== Sys2Proof/Machine/Operands.lean ====
section
/-! DEFINITION. Operand forms: registers of the issuing context, guards, elements and lanes, the landing buffer, and random
draws (R130 to R134, R173, R201, R206, R207, R243, R249, R250, R305, R306). -/

namespace Sys2Proof.Machine

/-- The core of the context that issues. -/
def State.coreNo (s : State) : Nat := s.cur / 4
/-- Whether the hidden trap context of that core runs (R125, R173). -/
def State.hidden (s : State) : Bool := (s.core s.coreNo).run.isSome
/-- The context whose own s, g, f registers and landing buffer the bundle uses: in a handler the hidden one (R173). -/
def State.act (s : State) : Nat := if s.hidden then 2048 + s.coreNo else s.cur
def State.me (s : State) : Ctx := s.ctx s.act
/-- The context whose v and k registers, CSRs and extents the bundle uses (R173). -/
def State.tgt (s : State) : Ctx := s.ctx s.cur
def State.modMe (s : State) (f : Ctx → Ctx) : State := s.modCtx s.act f
def State.modTgt (s : State) (f : Ctx → Ctx) : State := s.modCtx s.cur f

/-! Registers (R249, R250). -/

def allTrue : Guard := BitVec.allOnes 33
/-- s0 reads zero. -/
def State.rdS (s : State) (n : BitVec 6) : W64 := if n = 0 then 0 else s.me.s.get 0 n.toNat
/-- g0 reads all-true. -/
def State.rdG (s : State) (n : BitVec 4) : Guard := if n = 0 then allTrue else s.me.g.get 0 n.toNat
/-- phys_v (R250). -/
def physV (rrb : W64) (n : Nat) : Nat := if n < 1024 then n else 1024 + (n - 1024 + fld rrb 0 10) % 1024
def State.phys (s : State) (n : Nat) : Nat := physV s.tgt.csr.rrb n
def State.rdV (s : State) (n : Nat) : Row := s.tgt.v.get 0 (s.phys n)
def State.rdK (s : State) (n : BitVec 5) : Scale := s.tgt.k.get 0 n.toNat

/-- lane_on for every lane at once: the lane bits of the guard, inverted by INV (R243). -/
def State.lanes (s : State) (gd : Gd) : Nat :=
  let g := (s.rdG gd.g).toNat % 2 ^ 32
  if gd.inv then 2 ^ 32 - 1 - g else g
/-- scalar_on: the c bit of the guard, XOR INV (R243). -/
def State.scalarOn (s : State) (g : BitVec 4) (inv : Bool) : Bool := ((s.rdG g).getLsbD 32) != inv
def laneOn (lanes l : Nat) : Bool := lanes / 2 ^ l % 2 == 1

/-! Elements (R305). -/

def elem (w : Nat) (r : Row) (i : Nat) : Nat := r.toNat / 2 ^ (w * i) % 2 ^ w
def lane (r : Row) (l : Nat) : Nat := elem 32 r l

/-- The data, mask and flags of a result built from elements: element i is written when `on i` holds. -/
structure Built where
  data : Nat
  mask : Nat
  flags : Nat
  deriving DecidableEq, Repr

def orN (a b : Nat) : Nat := a ||| b

/-- Elements 0 to n − 1 of width w. -/
def build (w : Nat) (on : Nat → Bool) (f : Nat → Nat × Nat) : Nat → Built
  | 0 => ⟨0, 0, 0⟩
  | n + 1 =>
    let b := build w on f n
    if on n then
      let r := f n
      ⟨b.data + r.1 % 2 ^ w * 2 ^ (w * n), b.mask + (2 ^ w - 1) * 2 ^ (w * n), orN b.flags r.2⟩
    else b

/-- The lane that holds element i of width w. -/
def laneOf (w i : Nat) : Nat := i * w / 32

/-! Landing (R131 to R133, R249, R250). -/

/-- Entries a context's landing buffer holds (R132, R173). -/
def State.landCap (s : State) : Nat := if s.hidden then 16 else 96

/-- land(): a result enters the landing buffer of the issuing context, due `lat` ticks from now. `slot` is the slot-mask
bit and `sub` the order within it. -/
def State.enter (s : State) (kind : LKind) (dest lat slot sub : Nat) (b : Built) : State :=
  s.modMe fun c => { c with
    land := c.land ++ [⟨kind, dest, c.schc + lat, c.schc, slot, sub, BitVec.ofNat 1024 b.data, BitVec.ofNat 1024 b.mask,
      BitVec.ofNat 6 b.flags, none, true, none, 0, none, 0⟩] }

/-- A vector result, to a physical register. -/
def State.landV (s : State) (p : PSlot) (vd lat : Nat) (b : Built) : State :=
  s.enter .vec (s.phys vd) lat (match p with | .p0 => 1 | .p1 => 2) 1 b
/-- A scalar result: s0 is discarded (R249). -/
def State.landS (s : State) (slot sub : Nat) (sd : BitVec 6) (lat : Nat) (v : W64) : State :=
  if sd = 0 then s else s.enter .scalar sd.toNat lat slot sub ⟨v.toNat, 2 ^ 64 - 1, 0⟩
/-- A guard result with its bit mask: g0 is discarded (R249). -/
def State.landG (s : State) (slot sub : Nat) (gd : Nat) (lat : Nat) (data mask flags : Nat) : State :=
  if gd % 16 = 0 then s else s.enter .guard (gd % 16) lat slot sub ⟨data, mask, flags⟩
def pbit (p : PSlot) : Nat := match p with | .p0 => 1 | .p1 => 2

/-- lat_bound (R134). -/
def latBound (code : Nat) : Nat :=
  match code with
  | 0 => 2
  | 1 => 3
  | 2 => 4
  | 3 => 6
  | 4 => 8
  | 5 => 12
  | 6 => 16
  | 7 => 24
  | 8 => 32
  | 9 => 48
  | 10 => 64
  | 11 => 96
  | 12 => 128
  | 13 => 192
  | 14 => 256
  | _ => 384

/-! Random streams (R201, R206, R207). -/

/-- One round of Philox4x32-10. -/
def philoxRound (x : Nat × Nat × Nat × Nat) (k0 k1 : Nat) : Nat × Nat × Nat × Nat :=
  let p := 0xD2511F53 * x.1
  let q := 0xCD9E8D57 * x.2.2.1
  ((q / 2 ^ 32) ^^^ x.2.1 ^^^ k0, q % 2 ^ 32, (p / 2 ^ 32) ^^^ x.2.2.2 ^^^ k1, p % 2 ^ 32)

/-- The remaining rounds. -/
def philoxRounds : Nat → Nat × Nat × Nat × Nat → Nat → Nat → Nat × Nat × Nat × Nat
  | 0, x, _, _ => x
  | n + 1, x, k0, k1 =>
    philoxRounds n (philoxRound x k0 k1) ((k0 + 0x9E3779B9) % 2 ^ 32) ((k1 + 0xBB67AE85) % 2 ^ 32)

/-- Evaluation with counter c of stream n. -/
def philox (key : W64) (c n : Nat) : Nat :=
  let x := philoxRounds 10 (c % 2 ^ 32, c / 2 ^ 32 % 2 ^ 32, n, 0) (key.toNat % 2 ^ 32) (key.toNat / 2 ^ 32)
  x.1 + 2 ^ 32 * (x.2.1 + 2 ^ 32 * (x.2.2.1 + 2 ^ 32 * x.2.2.2))

/-- Evaluations 0 to n − 1 of a draw, 128 bits each. -/
def drawFrom (key : W64) (ctr stream : Nat) : Nat → Nat
  | 0 => 0
  | n + 1 => drawFrom key ctr stream n + philox key ((ctr + n) % 2 ^ 64) stream * 2 ^ (128 * n)

/-- draw_1024(): the draw and the state with the counter advanced by 8 (R207). -/
def State.draw (s : State) : State × Row :=
  let c := s.tgt
  (s.modTgt (fun c => { c with rngCtr := c.rngCtr + 8 }),
    BitVec.ofNat 1024 (drawFrom c.rngKey c.rngCtr.toNat (fld c.csr.rngsel 0 12) 8))

/-- FPMODE.RM (R199). -/
def State.rm (s : State) : Nat := fld s.tgt.csr.fpmode 0 3
/-- Whether the rounding mode draws (R201). -/
def State.isSr (s : State) : Bool := s.rm == 4
/-- The rounding mode of element i of width w; under SR with the draw's bits for it (R201, R308): an
8-bit element takes its lane's word [31:8], as R201 says of every lane (DEDUCED, log 16). -/
def modeOf (rm : Nat) (d : Row) (w i : Nat) : RMode :=
  match rm with
  | 0 => .rne
  | 1 => .rtz
  | 2 => .rup
  | 3 => .rdn
  | _ =>
    if w = 16 then .sr (lane d (i / 2) / 2 ^ (16 * (i % 2)) % 2 ^ 16 * 2 ^ 8)
    else .sr (lane d (laneOf w i) / 2 ^ 8)
/-- The draw of an operation that rounds under RM: none unless SR. -/
def State.srDraw (s : State) : State × Row := if s.isSr then s.draw else (s, 0)

/-- The traps of a draw at issue: no stream bound, or a skewed one (R201, R207): TCAUSE and TVAL. -/
def State.drawTrap (s : State) (illegalTval : Nat) : Option (Nat × Nat) :=
  let r := s.tgt.csr.rngsel
  if !(bit r 63) then some (0x01, illegalTval)
  else if bit r 62 then some (0x14, fld r 0 12)
  else none

end Sys2Proof.Machine
end

