-- ==== Sys2Proof/Machine/Ops.lean ====
section
/-! DEFINITION. The shared operations of the cores: freeing and killing tasks, taking a trap and returning from one,
landing, rollback, extents, timed accesses (R110, R118, R122, R131, R154, R170 to R179, R206, R217 to R220). -/

namespace Sys2Proof.Machine

/-! Streams (R205, R206): the entry of stream n. -/

def State.strEntry (s : State) (n : Nat) : Nat := s.baseAt 0x332 17 + 32 * n

/-- Unbinding writes CTR back and clears BOUND (R206); a counter that has not been loaded yet is not written. -/
def State.unbindRng (s : State) (n : Nat) : State :=
  let c := s.ctx n
  if bit c.csr.rngsel 63 then
    let e := s.strEntry (fld c.csr.rngsel 0 12)
    let fl := s.bytes (e + 0x15) 1
    let s' := (if c.rngWait then s else s.putMem (e + 8) 8 c.rngCtr.toNat).putMem (e + 0x15) 1 (fl % 4 + fl / 8 * 8)
    s'.setCtx n { c with csr := { c.csr with rngsel := setFld (setFld c.csr.rngsel 63 1 0) 62 1 0 }, rngWait := false }
  else s

/-- Claiming stream `k` for context `n`: a test-and-set of BOUND (R206). The key and counter arrive later
(STREAM_ENTRY_ARRIVAL). An entry with a reserved field that is not zero counts as one without VALID (R6, R205; DESIGN CHOICE, log 132). -/
def State.bindRng (s : State) (n k : Nat) : State :=
  let e := s.strEntry k
  let fl := s.bytes (e + 0x15) 1
  let c := s.ctx n
  if fld (s.reg 0x332) 0 13 ≤ k ∨ fl % 2 = 0 ∨ fl / 4 % 2 = 1 ∨ fl / 8 ≠ 0 ∨ s.bytes (e + 0x14) 1 / 16 ≠ 0 ∨ s.bytes (e + 0x16) 10 ≠ 0 then
    s.setCtx n { c with csr := { c.csr with rngsel := BitVec.ofNat 64 k } }
  else
    (s.putMem (e + 0x15) 1 (fl + 4)).setCtx n
      { c with csr := { c.csr with rngsel := BitVec.ofNat 64 (k + 2 ^ 62 * (fl / 2 % 2) + 2 ^ 63) }, rngWait := true }

/-! Flags of a context (R286): f15 and completion or arrival actions are set by the device. -/

/-- Flags set by the device, for the bundles of later cycles (R126); outside the segment they are kept for a rollback (R219). -/
def Ctx.setFlags (c : Ctx) (m : BitVec 16) : Ctx :=
  { c with f := c.f ||| m, outside := c.outside ||| m, fnew := c.fnew ||| (m &&& ~~~c.f), fset := c.fset ||| m }
/-- A flag set by the device in a context. -/
def State.setFlag (s : State) (ctx f : Nat) : State := s.modCtx ctx fun c => c.setFlags (BitVec.ofNat 16 (2 ^ f))
/-- Flags cleared by an operation: what the device sets in the same cycle is applied after it (R286, R292). -/
def Ctx.clearFlags (c : Ctx) (m : BitVec 16) : Ctx := { c with f := c.f &&& ~~~(m &&& ~~~c.fset) }
/-- The engine commands of a context that no engine has taken yet, earlier tasks' first. -/
def Ctx.engs (c : Ctx) : List EngCmd := c.past ++ c.eq
/-- A change made to each of them. -/
def Ctx.mapEngs (c : Ctx) (f : EngCmd → EngCmd) : Ctx := { c with past := c.past.map f, eq := c.eq.map f }
/-- Some of them gone. -/
def Ctx.keepEngs (c : Ctx) (p : EngCmd → Bool) : Ctx := { c with past := c.past.filter p, eq := c.eq.filter p }

/-- A report cause aimed at a context, with what it captures: dropped with no task, and in the drain of an ended task (R110, R172). -/
def State.reportCap (s : State) (ctx cause : Nat) (tval : W64) (cap : Option Capture) : State :=
  let c := s.ctx ctx
  let draining := match c.hold with | .ending _ | .stuck => true | _ => false
  if 2048 ≤ ctx ∨ c.task = none ∨ draining = true then s
  else s.setCtx ctx { c with reports := c.reports ++ [⟨cause, tval, 0, cap⟩] }
def State.report (s : State) (ctx cause : Nat) (tval : W64) : State := s.reportCap ctx cause tval none

/-! Ending tasks. -/

def mapVals {α : Type} (f : α → α) : AMap α → AMap α
  | [] => []
  | (k, v) :: m => (k, f v) :: mapVals f m
/-- A core's accumulator store without its owner, when that is one of the tasks that end; CLAIMTRAP stays (R184). -/
def Core.disown (k : Core) (serials : List Nat) : Core :=
  if bit k.accown 63 && serials.any (fun t => t % 2 ^ 48 == fld k.accown 0 48) then { k with accown := setFld k.accown 63 1 0, accdirty := 0 } else k
/-- The accumulator stores of tasks that end lose their owner, on whichever core they are (R184). -/
def State.disown (s : State) (serials : List Nat) : State := { s with cores := mapVals (·.disown serials) s.cores }
/-- A context freed: its task's stream is unbound, the accumulator store it owns loses its owner, what the task held is gone; TVEC and RDVTO stay
(R112, R184). -/
def State.freeCtx (s : State) (n : Nat) : State :=
  let s := s.unbindRng n
  let s := match (s.ctx n).task with | some t => s.disown [t.serial] | none => s
  let c := s.ctx n
  s.setCtx n { c with
      task := none, land := [], fq := [], lp := none, ext := [], hold := .none, req := false, remain := 0,
      grace := false, snap := none, irrev := false, poisoned := none, reports := [], cap := none, tileMark := false, owed := 0,
      rolled := false, poisonRegs := [], rngWait := false, rowsAt := none, rowsRead := [] }

/-- A finished command: its record is due once every earlier one of its queue is written (R92). -/
def State.finishCmd (s : State) (cmd status : Nat) : State :=
  match s.cmds.find cmd with
  | none => s
  | some c =>
    if c.st = .done then s
    else
      let c := { c with st := .done, status := status }
      ({ s with cmds := s.cmds.put cmd c }.writeRec c).post c.queue 0 .completionRecord

/-- The contexts of a core. -/
def ctxsOf (core : Nat) : List Nat := (List.range 4).map (4 * core + ·)
/-- The contexts, of those listed, whose task belongs to a command. -/
def ctxsOfCmd (cmd : Nat) : List (Nat × Ctx) → List Nat
  | [] => []
  | (n, c) :: m =>
    match c.task with
    | some t => if t.cmd = cmd ∧ n < 2048 then n :: ctxsOfCmd cmd m else ctxsOfCmd cmd m
    | none => ctxsOfCmd cmd m

/-- Whether an engine command is one of a command's tasks': a handler's is not, which works for the task it has trapped (R175). -/
def EngCmd.ofCmd (c : EngCmd) (cmd : Nat) : Bool := c.cmd == cmd && decide (c.ctx < 2048)
/-- A running engine command of a cancelled task goes, between rows (R369). -/
def dropRun (cmd : Nat) (r : Option RunCmd) : Option RunCmd :=
  match r with
  | some x => if x.c.ofCmd cmd then none else some x
  | none => none

/-- Engine and matrix work of a command leaves a core; a matrix command that has started completes (R122, R369). -/
def Core.dropCmd (c : Core) (cmd : Nat) (serials : List Nat) : Core :=
  { c with
      copyE := dropRun cmd c.copyE, offE := dropRun cmd c.offE, mainE := dropRun cmd c.mainE,
      shadowE := dropRun cmd c.shadowE, recE := dropRun cmd c.recE, prio := c.prio.filter (fun x => !(x.ofCmd cmd)),
      q0 := c.q0.filter (fun x => 2048 ≤ x.ctx || !serials.contains x.serial), q1 := c.q1.filter (fun x => 2048 ≤ x.ctx || !serials.contains x.serial) }

/-- A command's groups, entries, saves and tasks end; nothing of it triggers any more (R109, R122). -/
def State.endTasks (s : State) (cmd : Nat) : State :=
  let ns := ctxsOfCmd cmd s.ctxs
  let serials := ns.filterMap fun n => (s.ctx n).task.map (·.serial)
  let s := { s with cores := mapVals (fun c => c.dropCmd cmd serials) s.cores }
  let s := ns.foldl (fun (s : State) n =>
    let s := if (s.core (n / 4)).run = some (n % 4) then s.modCore (n / 4) fun k => { k with run := none } else s
    s.freeCtx n) s
  let s := { s with ctxs := mapVals (fun c => c.keepEngs fun x => !(x.ofCmd cmd)) s.ctxs }
  let s := s.disown ((s.saves.filter fun v => v.2.task.cmd == cmd).map fun v => v.2.task.serial)
  let dead := fun g => match s.groups.find g with | some x => x.cmd == cmd | none => false
  { s with
      entries := s.entries.filter (fun e => !dead e.2.group),
      saves := s.saves.filter (fun v => v.2.task.cmd != cmd),
      groups := s.groups.filter (fun g => g.2.cmd != cmd) }

/-- KILL of R178 and step 2 of R122: every task of the command of the context's task ends, and the command completes with a
status (FAULT 5 for a trap, KILLED 7 for the watchdog). -/
def State.killTask (s : State) (ctx status : Nat) : State :=
  match (s.ctx ctx).task with
  | none => s
  | some t => (s.endTasks t.cmd).finishCmd t.cmd status

/-! Taking a trap and returning from one (R170 to R179). -/

/-- A core's region for a dictionary id, if bound (R148): base and length. -/
def Core.regionOf (c : Core) (id : Nat) : Option (Nat × Nat) :=
  (c.region.find? (fun e => e.2.1 == id)).map fun e => (e.2.2.1, e.2.2.2)

/-- The ERRLOG counter and record of a double trap, the hidden context's landing buffer discarded, and the trapped task
killed (R179). -/
def State.doubleTrap (s : State) (cause : Nat) : State :=
  let k := s.coreNo
  let s := s.bumpErrlog k 40 8
  let s := s.errRecord (BitVec.ofNat 64 (k * 2 ^ 13 + s.cur % 4 * 2 ^ 11)) 15 8 false cause s.cur
  let s := s.modCtx (2048 + k) fun c => { c with land := [], fq := [], hold := .none }
  let s := s.modCore k fun c => { c with run := none, lead := s.cur % 4 }
  s.killTask s.cur 5

/-- TFRAME at trap entry (R176): ACTION 0, PEND, the capture's progress and slot, the context. A PEERGONE trap restarts
the count of discards. -/
def frameAt (c : Ctx) (cause ctx : Nat) : W64 :=
  let disc := if cause = 0x0A then 0 else fld c.csr.tframe 56 8
  let prog := match c.cap with | some k => k.prog | none => 0
  let pslot := match c.cap with | some k => k.slot | none => 0
  BitVec.ofNat 64 (ctx % 4 + 2 ^ 28 * (pslot % 16) + 2 ^ 32 * (prog % 2 ^ 16) + 2 ^ 48 * (if c.cap.isSome then 1 else 0) +
    2 ^ 49 * (if c.reports.isEmpty then 0 else 1) + 2 ^ 56 * disc)

/-- Taking a trap (R170 to R173, R176): the trapped context freezes with TCAUSE, TVAL, TPC and TFRAME written, and the
hidden trap context starts at TVEC.ENTRY. In a handler, and without a handler dictionary, the double-trap rule of R179. -/
def State.takeTrap (s : State) (cause : Nat) (tval : W64) (tpc : CodeAddr) : State :=
  if s.hidden then s.doubleTrap cause
  else
    let k := s.coreNo
    let s := s.modTgt fun c => { c with
        fq := [], rowsAt := none, rowsRead := [], csr := { c.csr with
        tcause := BitVec.ofNat 64 cause, tval := tval, tpc := tpc.zeroExtend 64, tframe := frameAt c cause s.cur } }
    let entry : CodeAddr := s.tgt.csr.tvec.truncate 48
    let s := s.modCore k fun c => { c with run := some (s.cur % 4), lead := s.cur % 4 }
    let s := s.modCtx (2048 + k) fun c => { c with pc := entry, next := entry, fq := [], hold := .none, rowsAt := none, rowsRead := [] }
    match (s.core k).regionOf 0xFFFF with
    | some _ => s
    | none => s.doubleTrap cause

/-- Context CSR values that an image, a trap or software sees as TPC resume issue there; a changed TPC ends the loop
(R147). -/
def State.resumeAt (s : State) (n : Nat) (pc : CodeAddr) : State :=
  s.modCtx n fun c =>
    { c with pc := pc, next := pc, fq := [], lp := if pc = c.pc then c.lp else none, hold := match c.hold with
      | .stopped => .none
      | .rdv a e d => if pc = c.pc then .rdv a e d else .none
      | h => h }

/-- What a RESUME continues (R180): the loads of a stopped operation from its capture, and operand fetches that a fault
stopped. -/
def State.goOn (s : State) (n : Nat) : State :=
  let s := s.modCtx n fun c =>
    match c.cap with
    | none => c
    | some k => { c with
        cap := none
        q := c.q ++ k.rest.map fun q => { q with st := .waiting, iss := s.cyc n }
        land := c.land ++ k.entries.map fun e => { e with tick := c.schc, got := false, arr := none, gone := none } }
  let upd (m : MxCmd) : MxCmd := if m.ctx = n then { m with stopped := false } else m
  s.modCore (n / 4) fun k => { k with q0 := k.q0.map upd, q1 := k.q1.map upd }

/-- Whether a hold waits for engine commands. -/
def Hold.eng : Hold → Bool
  | .fence _ k => k == 3
  | .save _ e => e
  | _ => false
/-- RFT (R178): the handler ends and TFRAME.ACTION decides: 0 RESUME, 1 SAVE, 2 and 3 KILL. -/
def State.returnTrap (s : State) : State :=
  let k := s.coreNo
  let act := fld s.tgt.csr.tframe 50 2
  let why := fld s.tgt.csr.tcause 0 8
  let pc : CodeAddr := s.tgt.csr.tpc.truncate 48
  let s := s.modCore k fun c => { c with run := none, lead := s.cur % 4 }
  let s := s.modTgt fun c => { c with csr := { c.csr with tframe := setFld c.csr.tframe 50 2 0 } }
  match act with
  | 0 => (s.resumeAt s.cur pc).goOn s.cur
  | 1 => (s.resumeAt s.cur pc).modTgt fun c => { c with hold := .save why c.hold.eng }
  | _ => s.killTask s.cur 5

/-- ILLEGAL's and PRIV's TVAL: slot-mask bit and the slot's first 32 bits (R177) (DEDUCED, log 102). -/
def slotTval (i : Instr) : Nat :=
  match encSlot i with
  | some (b, v) => b + 2 ^ 32 * (v % 2 ^ 32)
  | none => 12

/-- The meaning of a slot operation alone: the trap its check finds, with TPC this bundle (issue class), or its effect. -/
def issue (s : State) (chk : Option (Nat × Nat)) (eff : State) : Host.Outcome State Fault Refusal :=
  match chk with
  | some (cause, tval) => .next (s.takeTrap cause (BitVec.ofNat 64 tval) s.me.pc)
  | none => .next eff

/-! Landing (R131, R199, R209, R210). -/

/-- Whether entry a lands before entry b of the same tick (R131). -/
def landLe (a b : LandEntry) : Bool :=
  if a.issued ≠ b.issued then decide (a.issued < b.issued)
  else if a.slot ≠ b.slot then decide (a.slot < b.slot)
  else decide (a.sub ≤ b.sub)

def insLand (e : LandEntry) : List LandEntry → List LandEntry
  | [] => [e]
  | x :: xs => if landLe x e then x :: insLand e xs else e :: x :: xs
/-- The entries in the order in which they land. -/
def sortLand : List LandEntry → List LandEntry
  | [] => []
  | x :: xs => insLand x (sortLand xs)

/-- The bits of an entry written over an old value. -/
def merge (old : Nat) (e : LandEntry) : Nat :=
  (BitVec.ofNat 1024 old &&& ~~~e.mask ||| e.data &&& e.mask).toNat

/-- One result written to its register: v and k registers are the target context's, s and g the buffer's owner's (R173). -/
def State.writeReg (s : State) (own tgt : Nat) (e : LandEntry) : State :=
  match e.kind with
  | .vec | .row => s.modCtx tgt fun c => { c with v := c.v.put e.dest (BitVec.ofNat 1024 (merge (c.v.get 0 e.dest).toNat e)) }
  | .scalar => s.modCtx own fun c => { c with s := c.s.put e.dest (BitVec.ofNat 64 (merge (c.s.get 0 e.dest).toNat e)) }
  | .guard => s.modCtx own fun c => { c with g := c.g.put e.dest (BitVec.ofNat 33 (merge (c.g.get 0 e.dest).toNat e)) }
  | .scale => s.modCtx tgt fun c => { c with k := c.k.put e.dest (BitVec.ofNat 256 (merge (c.k.get 0 e.dest).toNat e)) }

/-- FPSTAT flags ORed in (R199). -/
def State.raise (s : State) (tgt : Nat) (flags : BitVec 6) : State :=
  s.modCtx tgt fun c => { c with csr := { c.csr with fpstat := c.csr.fpstat ||| flags.zeroExtend 64 } }

/-- The landing trap of a result whose raised flags are enabled (R177): flags and slot. -/
def fpTrap (c : Ctx) (e : LandEntry) : Option (Nat × Nat) :=
  if (e.flags.toNat &&& fld c.csr.fpmode 8 5) ≠ 0 then some (0x10, e.flags.toNat + 2 ^ 8 * e.slot) else none

/-- What landing one entry does. A discarded or refused load leaves its destination (R37, R120); poison is consumed with the destination
unchanged (R210), unless an ended task drains: then the register counts as poisoned until a later result lands in all of it (R110). -/
def State.landOne (s : State) (own tgt : Nat) (drain : Bool) (e : LandEntry) : State :=
  match e.gone with
  | some _ => s
  | none =>
    match e.poison with
    | some p =>
      if drain then
        s.modCtx tgt fun c => { c with poisonRegs := if c.poisonRegs.contains (e.kind, e.dest) then c.poisonRegs
          else (e.kind, e.dest) :: c.poisonRegs }
      else s.modCtx own fun c => { c with poisoned := some (c.poisoned.getD p) }
    | none =>
      let s := (s.writeReg own tgt e).raise tgt e.flags
      let t := (s.ctx own).schc
      let s := s.modCtx tgt fun c => { c with fpAt := (own, t, if c.fpAt.1 = own ∧ c.fpAt.2.1 = t then c.fpAt.2.2 ||| e.flags else e.flags) }
      if drain && (e.mask == BitVec.allOnes 1024 || (e.kind != .vec && e.kind != .row)) then
        s.modCtx tgt fun c => { c with poisonRegs := c.poisonRegs.filter (· != (e.kind, e.dest)) }
      else s

/-- The entries landed in order. -/
def State.landAll (s : State) (own tgt : Nat) (drain : Bool) : List LandEntry → State
  | [] => s
  | e :: es => (s.landOne own tgt drain e).landAll own tgt drain es

/-- Entries of a buffer that are due now. -/
def Ctx.due (c : Ctx) : List LandEntry := c.land.filter fun e => decide (e.tick ≤ c.schc)
/-- Whether an entry's data counts as arrived in the current cycle. -/
def arrived (cycle : Nat) (e : LandEntry) : Bool :=
  e.got && (match e.arr with | some a => decide (a ≤ cycle) | none => true)
/-- A due result that has not arrived latency-freezes the context (R134). -/
def State.frozenLand (s : State) (own : Nat) : Bool := (s.ctx own).due.any fun e => !arrived (s.cyc own) e

/-- What a landing PEERGONE or EXTREVOKED leaves of the operation of entry `e` (R180): the results that landed, and the accesses to
issue again. -/
def Ctx.stopLoad (c : Ctx) (es : List LandEntry) (e : LandEntry) : Capture :=
  let mine := es.filter (·.op == e.op)
  let rest := c.q.filter fun q => q.op == e.op && q.st == .dead
  let src := match rest with | q :: _ => q.src | [] => 0
  let vecs := match rest with | q :: _ => (match q.what with | .qld _ _ coords _ _ => coords | _ => []) | [] => []
  ⟨BitVec.ofNat 64 src, BitVec.ofNat 64 (src / 2 ^ 64), BitVec.ofNat 33 (src / 2 ^ 128), e.slot,
    (match rest with | q :: _ => q.idx | [] => 0), e.issued, vecs, rest, mine.filter (·.gone.isSome)⟩
/-- The accesses of the operations that stopped leave the queue. -/
def Ctx.dropDead (c : Ctx) (es : List LandEntry) : Ctx :=
  { c with q := c.q.filter fun q => !(q.st == .dead && es.any fun e => e.gone.isSome && e.op == q.op) }
/-- Whether a pending cause is a stopped load's. -/
def Report.ofLoad (r : Report) : Bool := match r.cap with | some k => !k.entries.isEmpty | none => false
/-- A cause put after those of lower slots (R172). -/
def insCause (t : Nat × Report) : List (Nat × Report) → List (Nat × Report)
  | [] => [t]
  | x :: xs => if x.1 < t.1 then x :: insCause t xs else t :: x :: xs
/-- The landing causes of results that land together, with their slots: a stopped load once for its operation, a result that raises an
enabled flag, and 0x0D for the poison that is consumed (R120, R172, R177, R180, R210). `own`, `tgt`: the buffer's owner, the context whose registers
are written. -/
def landCauses (own tgt : Ctx) (es : List LandEntry) : List (Nat × Report) :=
  es.filterMap fun e => match e.gone with
    | some g =>
      if es.find? (fun x => x.gone.isSome && x.op == e.op) = some e then some (e.slot, ⟨g.1, g.2, 0, some (own.stopLoad es e)⟩) else none
    | none => if e.poison.isSome then some (e.slot, ⟨0x0D, 0, 0, none⟩) else (fpTrap tgt e).map fun t => (e.slot, ⟨t.1, BitVec.ofNat 64 t.2, 0, none⟩)

/-- RESULT_LANDING: every due result of a buffer lands, unless one has not arrived (R131, R134); the landing causes in ascending
slot. -/
def State.landDue (s : State) (own tgt : Nat) : State × List Report :=
  let c := s.ctx own
  if s.frozenLand own then (s, [])
  else
    let drain := match c.hold with | .ending _ => true | _ => false
    let es := sortLand c.due
    let causes := ((landCauses c (s.ctx tgt) es).foldr insCause []).map (·.2)
    let s := s.modCtx own fun c => { c with land := c.land.filter fun e => !decide (e.tick ≤ c.schc) }
    ((s.landAll own tgt drain es).modCtx own fun c => c.dropDead es, if drain then [] else causes)

/-! Debug (R187, R189). -/

def Core.mode (k : Core) : Nat := fld k.dbgcfg 0 2
/-- Whether context c of a core may issue its one bundle now. -/
def Core.stepFor (k : Core) (c : Nat) : Bool := k.mode == 2 && bit k.dbgcfg 9 && fld k.dbgcfg 10 2 == c
/-- In step mode the matrix engine of a core with stopped contexts stands while no step waits (R189). -/
def State.stepHeld (s : State) (n : Nat) : Bool := (s.core n).mode == 2 && !(bit (s.core n).dbgcfg 9) && (ctxsOf n).any fun m => (s.ctx m).halted
/-- The engine-queue head of a stopped context stands but while a step of the context waits (R189). -/
def State.headHeld (s : State) (key : Nat) : Bool :=
  decide (key < 2048) && (s.ctx key).halted && (s.core (key / 4)).mode == 2 && !((s.core (key / 4)).stepFor (key % 4))

/-! Rollback (R217 to R220). -/

/-- Consumption of poison (R210): UNCORR, or a rollback that the context waits for (R219, R220). In the hidden trap context it is a
trap of the handler (R179); a handler's matrix command that outlives the handler has no one to trap. A rollback under way takes in what its drain still
reads. -/
def State.consume (s : State) (ctx : Nat) : State :=
  let c := s.ctx ctx
  match (if c.hold = .rollback then none else c.poisoned) with
  | none => s
  | some (array, addr) =>
    let s := s.modCtx ctx fun c => { c with poisoned := none }
    if 2048 ≤ ctx then
      match (s.core (ctx - 2048)).run with
      | none => s
      | some r =>
        let n := 4 * (ctx - 2048) + r
        { s.errRecord addr array 3 false 0 n with cur := n }.takeTrap 0x0D addr c.pc
    else
      let s := s.errRecord addr array 3 false 0 ctx
      if c.snap.isNone || c.irrev || c.rolled then
        { s with cur := ctx }.takeTrap 0x0D (if array < 6 then BitVec.allOnes 64 else addr) c.pc
      else s.modCtx ctx fun c => { c with land := [], fq := [], rowsAt := none, rowsRead := [], hold := .rollback, poisoned := some (array, addr) }

/-! Extents (R118, R120). -/

def Ctx.extent (c : Ctx) (n : Nat) : Extent := (c.ext[n]?).getD Extent.none

/-- What an extent access finds: a fabric address, out of bounds, or a revoked piece, which REMAP may have refused (R120). -/
inductive ExtHit where
  | at (addr : W64)
  | bound
  | revoked
  | refused
  deriving DecidableEq, Repr

/-- ext_row: chained access, `fuel` pieces at most (R118). `write` says which ACCESS bit the access needs (DEDUCED, log 54). -/
def extWalk (c : Ctx) (write : Bool) : Nat → Nat → Nat → ExtHit
  | 0, _, _ => .bound
  | fuel + 1, e, o =>
    let x := c.extent e
    if !x.valid || !(x.access.getLsbD (if write then 1 else 0)) then .bound
    else if x.len ≤ o then (if x.chain then extWalk c write fuel x.next.toNat (o - x.len) else .bound)
    else if x.refused then .refused
    else if x.revoked then .revoked
    else .at (x.base + BitVec.ofNat 64 (o * 128))
def extRow (c : Ctx) (write : Bool) (e o : Nat) : ExtHit := extWalk c write 16 e o

/-- The EXTBOUND value: extent number and row offset (R118). -/
def extTval (e o : Nat) : Nat := (e % 16 + 2 ^ 4 * o) % 2 ^ 64

/-- A fabric address's device and local part (R36). -/
def devOf (a : W64) : Nat := fld a 58 6
def localOf (a : W64) : Nat := fld a 0 58
/-- A row as an engine reads it: of this device's memory, or of another device's, which is free (log 20). -/
def State.peek (s : State) (a : W64) : Row :=
  if devOf a = s.dev.devid.toNat then s.rawRow (localOf a) else Config.farRow a.toNat s.dev.fresh
/-- Whether a fabric address is reachable: this device, or a peer whose PEERS bit is set (R36). -/
def State.reach (s : State) (a : W64) : Bool := devOf a == s.dev.devid.toNat || s.map.peers.getLsbD (devOf a)

/-! Timed accesses (R138, R140, R154). -/

/-- A timed access placed on its way: it performs `delay` cycles from now. -/
def State.time (s : State) (t : TAcc) : State := { s with timed := s.timed ++ [t] }

/-- The address of a timed access's row: `core` below 512 is a scratchpad, 512 + p is panel store p. -/
def tAddr (t : TAcc) : Nat := if t.core < 512 then spAddr t.core t.row else psAddr (t.core - 512) t.row

/-- Poison of a loaded row: its array and address (R209). -/
def State.poisonOf (s : State) (a : Nat) : Option (Nat × W64) :=
  if s.isPoison a || s.lost a then some ((homeOf a).array, BitVec.ofNat 64 (rowBase a)) else none

/-- Data of row `idx` of operation `op` delivered to a landing buffer: kept bits by the entry's mask; it counts as arrived in
cycle `arr`, but a scale register's, which no LAT bounds, once it is read (R133). Until then a scale entry's flag field holds
which 32 B part of the row it takes (R338). -/
def Ctx.deliver (c : Ctx) (op idx : Nat) (data : Row) (poison : Option (Nat × W64)) (arr : Nat) : Ctx :=
  { c with land := c.land.map fun e =>
      if e.op = op ∧ e.sub = idx ∧ e.got = false then
        { e with
            data := if e.kind = .scale then BitVec.ofNat 1024 (data.toNat / 2 ^ (256 * e.flags.toNat)) else data, poison := poison,
            flags := if e.kind = .scale then 0 else e.flags, got := true, arr := if e.kind = .scale then none else some arr }
      else e }

/-- The old value of one element of an ATOMR, which joins those that are there: they arrive together, with the last (R331, R410). -/
def Ctx.deliverElem (c : Ctx) (op : Nat) (data : Row) (poison : Option (Nat × W64)) (arr : Nat) : Ctx :=
  { c with land := c.land.map fun e =>
      if e.op = op ∧ e.need ≠ 0 ∧ e.gone.isNone then
        { e with
            data := e.data ||| data, poison := e.poison.orElse fun _ => poison, need := e.need - 1, got := decide (e.need = 1),
            arr := some (max arr (e.arr.getD 0)) }
      else e }

/-- One timed access performs: reads fill their landing entry, and count as arrived 4 cycles after issue in the scratchpad,
12 in the panel store (R135); writes reach the row. Operation 0 is the row or row pair a bundle reads before it issues
(R276). -/
def State.doTimed (s : State) (t : TAcc) : State :=
  let a := tAddr t
  if t.store then s.storeMem a t.data t.mask t.poison
  else
    let s := s.injRow a
    let row := s.rawRow a
    let poison := s.poisonOf a
    if t.op = 0 then
      s.modCtx t.ctx fun c => { c with
          rowsRead := c.rowsRead.put (t.row % Config.spRows) row
          poisoned := if poison.isSome && c.poisoned.isNone then poison else c.poisoned }
    else s.modCtx t.ctx fun c => c.deliver t.op t.idx row poison (t.due + if t.core < 512 then 2 else 6)

/-- Insertion by priority among the writes of one cycle (R138). -/
def insTimed (t : TAcc) : List TAcc → List TAcc
  | [] => [t]
  | x :: xs => if x.prio ≤ t.prio then x :: insTimed t xs else t :: x :: xs
def sortTimed : List TAcc → List TAcc
  | [] => []
  | x :: xs => insTimed x (sortTimed xs)

/-- The timed accesses that `now` picks leave the list. -/
def State.takeTimed (s : State) (now : TAcc → Bool) : State := { s with timed := s.timed.filter fun t => !(now t) }
/-- The timed reads that are due on their die perform: at the start of a cycle, before anything else in it (R138, R140, R152). -/
def State.performReads (s : State) (held : TAcc → Bool) : State :=
  let now (t : TAcc) : Bool := !t.store && !(held t) && decide (t.due ≤ s.cyc t.ctx)
  (s.timed.filter now).foldl State.doTimed (s.takeTimed now)
/-- The timed writes that are due perform, in order: at the end of a cycle of their die (R138, R140). -/
def State.performWrites (s : State) (held : TAcc → Bool) : State :=
  let now (t : TAcc) : Bool := t.store && !(held t) && s.ticks (dieOfCtx t.ctx) && decide (t.due ≤ s.cyc t.ctx)
  (sortTimed (s.timed.filter now).reverse).foldl State.doTimed (s.takeTimed now)

/-- Whether a context still has stores of its own that have not performed (R156, R164): timed, or queued. -/
def State.storesOut (s : State) (ctx : Nat) : Bool :=
  s.timed.any (fun t => t.store && t.ctx == ctx) || (s.ctx ctx).q.any (fun q => q.isStore && q.st != .dead)
/-- The same for the stores issued before a command: up to an operation of its queue, and a cycle of issue for timed ones (R164). -/
def State.storesUpTo (s : State) (ctx ops iss : Nat) : Bool :=
  s.timed.any (fun t => t.store && t.ctx == ctx && decide (t.iss ≤ iss)) || (s.ctx ctx).q.any (fun q => q.isStore && q.st != .dead && decide (q.op ≤ ops))
def State.loadsOut (s : State) (ctx : Nat) : Bool :=
  s.timed.any (fun t => !t.store && t.ctx == ctx) || (s.ctx ctx).q.any (fun q => q.isLoad && q.st != .dead)

/-- A read of a register sees the armed error, if it names it: array 0 vector, 1 scalar or guard, 2 scale (R209, R213).
Guards take numbers 64 upward in array 1 (DEDUCED, log 17). The answer says whether the read was uncorrectable (DEDUCED, log 84). -/
def State.injReg (s : State) (array ctx reg : Nat) : State × Bool :=
  let target := reg + 2 ^ 11 * (ctx % 4) + 2 ^ 13 * (ctx / 4)
  s.injArray array target (BitVec.ofNat 64 target) (some (ctx / 4)) ctx

end Sys2Proof.Machine
end

