-- ==== Sys2Proof/Machine/Sync.lean ====
section
/-! DEFINITION. Sync space: words, kinds, atomics, arrival actions, and the loop nests that read LIVE bounds from it
(R68, R69, R105 to R107, R163, R331, R332). -/

namespace Sys2Proof.Machine

/-! Sync addresses (R105): local part [57:56] view, [55:52] 0xF, [51:33] zero, [32:30] die, [29:3] index. -/

def syView (a : Nat) : Nat := bitsOf a 56 2
def syDie (a : Nat) : Nat := bitsOf a 30 3
def syIdx (a : Nat) : Nat := bitsOf a 3 27
def syKey (a : Nat) : Nat := syDie a * 2 ^ 27 + syIdx a
/-- LOG2MB of a die's overflow area (R107, R123). -/
def State.log2mb (s : State) (die : Nat) : Nat := fld (s.reg (0x320 + die)) 0 5
/-- Base of a die's overflow area. -/
def State.sovf (s : State) (die : Nat) : Nat := s.baseAt (0x320 + die) 20
/-- Whether a word's number is one of the overflow area, and where the word lies there: in its last 2^(LOG2MB − 2) MiB (R107)
(DESIGN CHOICE, log 74). -/
def syOver (key : Nat) : Bool := decide (2 ^ 19 ≤ key % 2 ^ 27)
def State.ovAddr (s : State) (key : Nat) : Nat :=
  let d := key / 2 ^ 27
  s.sovf d + (2 ^ s.log2mb d - 2 ^ (s.log2mb d - 2)) * 2 ^ 20 + 8 * (key % 2 ^ 27 - 2 ^ 19)
/-- Whether a sync address names a word that exists (R105, R107, R211). -/
def State.syPresent (s : State) (a : Nat) : Bool :=
  bitsOf a 52 4 == 15 && bitsOf a 33 19 == 0 && syView a != 3 &&
    (decide (syIdx a < 2 ^ 19) ||
      (s.log2mb (syDie a) != 0 && decide (syIdx a < 2 ^ 19 + 2 ^ (s.log2mb (syDie a) + 15)) && !s.lost (s.ovAddr (syKey a))))
/-- A sync word by its number: an overflow word's value is the bytes of the area, beside its hidden kind (R105, R107). -/
def State.syAt (s : State) (key : Nat) : SyncWord :=
  let w := s.sync.get SyncWord.reset key
  if syOver key then ⟨w.kind, BitVec.ofNat 64 (s.bytes (s.ovAddr key) 8)⟩ else w
def State.syWord (s : State) (a : Nat) : SyncWord := s.syAt (syKey a)
/-- A word and its kind stored; a row of the overflow area that holds poison keeps it (R209). -/
def State.setSy (s : State) (key : Nat) (w : SyncWord) : State :=
  if syOver key then
    let t := { s with sync := s.sync.put key ⟨w.kind, 0⟩ }
    if s.isPoison (s.ovAddr key) then t else t.putMem (s.ovAddr key) 8 w.val.toNat
  else { s with sync := s.sync.put key w }
/-- The poison that a read of a sync word meets: that of the overflow area's row, or an armed error of the SRAM (R209, R213; log 69). -/
def State.syRead (s : State) (a : Nat) : State × Option (Nat × W64) :=
  if s.syPresent a = false then (s, none)
  else if syOver (syKey a) then
    let o := s.ovAddr (syKey a)
    (s.injRow o, (s.injRow o).poisonOf o)
  else
    let x := BitVec.ofNat 64 (s.dev.devid.toNat * 2 ^ 58 + rowBase (a % 2 ^ 56))
    let r := s.injArray 8 (a % 2 ^ 56) x none noCtx
    (r.1, if r.2 then some (8, x) else none)
/-- A refused operation, recorded in the error ring (R105, R106, R212). -/
def State.syRefuse (s : State) (a : Nat) : State :=
  s.errRecord (BitVec.ofNat 64 (s.dev.devid.toNat * 2 ^ 58 + a % 2 ^ 58)) 14 7 false 0 noCtx

/-! DEP words: [31:0] COUNT, [47:32] GREF, [48] BOUND, [49] FIRED, [50] UNDER (R106). -/

def depBound (v : W64) : Bool := bit v 48
/-- The order of the youngest entry of a list. -/
def maxOrder : List (Nat × Entry) → Nat
  | [] => 0
  | (_, e) :: m => max e.order (maxOrder m)
/-- A number for an entry that its scheduler holds, outside the pools (R107): by the serial of its first task, which no other entry has. -/
def readyKey (e : Entry) : Nat := 2 ^ 90 + e.serial
/-- An entry joins the scheduler of its group's home die: its ranges are translated next (R108, R117). -/
def State.queueEntry (s : State) (e : Entry) : State :=
  { s with entries := s.entries.put (readyKey e) { e with st := .translating, order := maxOrder s.entries + 1 } }.post (readyKey e) 0 .translationComplete
/-- A bound entry whose word fires passes to its scheduler, and leaves its place in the pool (R107). -/
def State.readyEntry (s : State) (key : Nat) : State :=
  match s.entries.find key with
  | none => s
  | some e => { s with entries := s.entries.del key }.queueEntry e
/-- The bound entry of a DEP word of a die becomes ready (R106). -/
def State.fireDep (s : State) (die : Nat) (v : W64) : State := s.readyEntry (die * 65536 + fld v 32 16)

/-- The context that holds a task, among those listed. -/
def holderOf (serial : Nat) : List (Nat × Ctx) → Option Nat
  | [] => none
  | (n, c) :: m => match c.task with
    | some t => if t.serial = serial ∧ n < 2048 then some n else holderOf serial m
    | none => holderOf serial m
/-- The save that holds a task, among those listed. -/
def savedOf (serial : Nat) : List (Nat × Saved) → Option Saved
  | [] => none
  | (_, v) :: m => if v.task.serial = serial then some v else savedOf serial m

/-- A report cause aimed at a task, wherever it is (R172): its context; with a saved task the image keeps it; it is dropped for a handler's
command and for a task that has ended. -/
def State.reportTask (s : State) (ctx serial cause : Nat) (tval : W64) : State :=
  if 2048 ≤ ctx then s
  else
    match holderOf serial s.ctxs with
    | some n => s.report n cause tval
    | none => { s with saves := mapVals (fun v =>
        if v.task.serial = serial then { v with reports := v.reports ++ [⟨cause, tval, 0, none⟩] } else v) s.saves }

/-- A flag set for a task, wherever it is (R106, R181): in its context, or in its saved image (bytes 0x4_0300); with the task
ended the action is discarded and logged. -/
def State.setTaskFlag (s : State) (serial flag : Nat) (log : Bool) (addr : Nat) : State :=
  match holderOf serial s.ctxs with
  | some n => s.setFlag n flag
  | none =>
    match savedOf serial s.saves with
    | some v => s.putMem (v.addr + 0x40300) 2 (orN (s.bytes (v.addr + 0x40300) 2) (2 ^ flag))
    | none => if log then s.syRefuse addr else s

/-- The set-flag action of an arrival counter, aimed at the task last dispatched on a context (R106). -/
def State.arrFlag (s : State) (addr ctx flag : Nat) : State :=
  let last := (s.ctx ctx).last
  if last = 0 then s.syRefuse addr else s.setTaskFlag last flag true addr

/-- An arrival counter's action, which its next word holds (R106): a decrement travels to its home engine. -/
def State.arrAction (s : State) (a : Nat) : State :=
  let w := (s.syAt (syKey a + 1)).val
  match fld w 62 2 with
  | 1 => s.arrFlag a (fld w 0 13) (fld w 13 4)
  | 2 => { s with pend := s.pend ++ [.event 0 0 (.syncDec (BitVec.ofNat 64 (s.dev.devid.toNat * 2 ^ 58 + fld w 0 58)))] }
  | _ => s

/-- DEC (R106). -/
def State.syDec (s : State) (a : Nat) : State :=
  if !s.syPresent a then s.syRefuse a
  else
    let w := s.syWord a
    let k := syKey a
    match w.kind with
    | .plain => s.setSy k ⟨.plain, w.val - 1⟩
    | .dep =>
      let n := fld w.val 0 32
      if n = 0 then s.setSy k ⟨.dep, setFld w.val 50 1 1⟩
      else if n = 1 then
        let v := setFld (setFld (setFld w.val 0 32 0) 49 1 1) 48 1 0
        let s := s.setSy k ⟨.dep, v⟩
        if depBound w.val then s.fireDep (syDie a) w.val else s
      else s.setSy k ⟨.dep, setFld w.val 0 32 (n - 1)⟩
    | .arr =>
      let n := fld w.val 0 32
      if n ≤ 1 then (s.arrAction a).setSy k ⟨.arr, setFld w.val 0 32 (fld w.val 32 32)⟩
      else s.setSy k ⟨.arr, setFld w.val 0 32 (n - 1)⟩

/-- A store of one word through a view (R106). -/
def State.syStore (s : State) (a : Nat) (v : W64) : State :=
  if !s.syPresent a then s.syRefuse a
  else
    let w := s.syWord a
    let k := syKey a
    let bound := w.kind == .dep && depBound w.val
    match syView a with
    | 0 => if bound then s.syRefuse a else s.setSy k ⟨.plain, v⟩
    | 1 =>
      let n := fld v 0 32
      if w.kind = .dep then
        let v' := setFld (setFld w.val 0 32 n) 50 1 0
        if n = 0 then
          let s := s.setSy k ⟨.dep, setFld (setFld v' 49 1 1) 48 1 0⟩
          if bound then s.fireDep (syDie a) w.val else s
        else s.setSy k ⟨.dep, setFld v' 49 1 0⟩
      else s.setSy k ⟨.dep, BitVec.ofNat 64 n⟩
    | _ => if bound then s.syRefuse a else s.setSy k ⟨.arr, v⟩

/-- The new value of an atomic operation on an element of w bits (R332): 0 ADD to 12 DEC. -/
def atomNew (op w : Nat) (old x cv : Nat) : Nat :=
  let sg (v : Nat) : Int := sextNat v w
  match op with
  | 0 => (old + x) % 2 ^ w
  | 1 => add32 old x
  | 2 => if sg x < sg old then x else old
  | 3 => if sg old < sg x then x else old
  | 4 => if x < old then x else old
  | 5 => if old < x then x else old
  | 6 => old &&& x
  | 7 => old ||| x
  | 8 => old ^^^ x
  | 9 => x
  | 10 => if old = cv then x else old
  | 11 => if x ≤ old then 0 else (old + 1) % 2 ^ w
  | _ => (old + 2 ^ w - 1) % 2 ^ w

/-- A 64-bit atomic on a sync word: the state and the word returned (R105, R106, R332). DEC acts by the word's kind. -/
def State.syAtomic (s : State) (a op : Nat) (x cv : W64) (wide : Bool) : State × W64 :=
  if !s.syPresent a || !wide then (s.syRefuse a, 0)
  else
    let w := s.syWord a
    if op = 12 then (s.syDec a, w.val)
    else if w.kind = .plain then
      (s.setSy (syKey a) ⟨.plain, BitVec.ofNat 64 (atomNew op 64 w.val.toNat x.toNat cv.toNat)⟩, w.val)
    else (s.syRefuse a, w.val)

/-- The same where the word's read may meet an error: an uncorrectable one leaves the word and answers poison (R209; log 69). -/
def State.syAtom (s : State) (a op : Nat) (x cv : W64) (wide : Bool) : State × W64 × Option (Nat × W64) :=
  let p := s.syRead a
  if p.2.isSome then (p.1, 0, p.2) else let r := p.1.syAtomic a op x cv wide; (r.1, r.2, none)
/-- A decrement as its home engine performs it, where the word's read may meet an error. -/
def State.syCount (s : State) (a : Nat) : State :=
  let p := s.syRead a
  if p.2.isSome then p.1 else p.1.syDec a

/-- A word as a load reads it: an absent word reads zero and is logged (R105). -/
def State.syLoad (s : State) (a : Nat) : W64 := if s.syPresent a then (s.syWord a).val else 0

/-- The sync row at an address: 16 words from n words down. -/
def State.syRowFrom (s : State) (base : Nat) : Nat → Nat
  | 0 => 0
  | n + 1 => s.syRowFrom base n + (s.syLoad (base + 8 * n)).toNat * 2 ^ (64 * n)
/-- A row load of sync space: one operation on all 16 words (R163). -/
def State.syRow (s : State) (a : Nat) : State × Row :=
  let base := rowBase a
  (if s.syPresent base then s else s.syRefuse base, BitVec.ofNat 1024 (s.syRowFrom base 16))

/-- A row store of sync space: every word whose bytes the store names, ascending (R106, R153). -/
def State.syRowStore (s : State) (base : Nat) (data mask : Nat) : Nat → State
  | 0 => s
  | n + 1 =>
    let s := s.syRowStore base data mask n
    let m := mask / 2 ^ (64 * n) % 2 ^ 64
    if m = 0 then s
    else
      let old := (s.syLoad (base + 8 * n)).toNat
      s.syStore (base + 8 * n) (BitVec.ofNat 64 old &&& ~~~(BitVec.ofNat 64 m) ||| (BitVec.ofNat 64 (data / 2 ^ (64 * n)) &&& BitVec.ofNat 64 m))

/-! Loop nests (R66 to R69). -/

/-- Field of an LNR: n bytes at an offset. -/
def lnrF (r : BitVec 2048) (off n : Nat) : Nat := r.toNat / 2 ^ (8 * off) % 2 ^ (8 * n)
/-- Field of a level entry. -/
def lnrL (r : BitVec 2048) (l off n : Nat) : Nat := lnrF r (0x28 + 32 * l + off) n
def lnrLive (r : BitVec 2048) (l : Nat) : Bool := lnrF r 4 2 / 2 ^ (3 + l) % 2 == 1

/-- Whether a LIVE level's address is the word view of sync space (R67). -/
def liveAddrOk (a : Nat) : Bool := a != 0 && bitsOf a 56 2 == 0 && bitsOf a 52 4 == 15 && bitsOf a 33 19 == 0

/-- The part of R67's check that a LOOP makes: KIND, LEVELS, reserved bytes and the LIVE addresses, zero at a level that is not LIVE (R66). -/
def lnrOkLoop (r : BitVec 2048) (kind : Nat) : Bool :=
  let n := lnrF r 1 1
  lnrF r 0 1 == kind && decide (1 ≤ n) && decide (n ≤ 6) && lnrF r 4 2 / 2 ^ 9 == 0 && lnrF r 6 2 == 0 && lnrF r 0x24 4 == 0 &&
    lnrF r 0xE8 24 == 0 && (List.range n).all fun l => if lnrLive r l then liveAddrOk (lnrL r l 0x18 8) else lnrL r l 0x18 8 == 0

/-- The whole check of R67 for an engine command of a KIND. -/
def lnrOkCmd (r : BitVec 2048) (kind : Nat) : Bool :=
  let fl := lnrF r 4 2
  let elemb := lnrF r 2 1
  let it := lnrF r 0x20 4
  let ss := lnrF r 0x0F 1
  let ds := lnrF r 0x17 1
  lnrOkLoop r kind && (fl % 2 == 0 || elemb == 1 || elemb == 2 || elemb == 4) && it % 128 == 0 && decide (128 ≤ it) &&
    decide (it ≤ 32768) && decide (ss ≤ 2) && decide (ds ≤ if kind = 4 then 3 else 2) &&
    (if ss = 2 then decide (lnrF r 0x0E 1 ≤ 15) else lnrF r 0x0E 1 == 0) &&
    (if ds = 2 then decide (lnrF r 0x16 1 ≤ 15) else lnrF r 0x16 1 == 0) &&
    (kind != 4 || lnrF r 0x1A 2 != 0) &&
    (if fl / 4 % 2 = 1 then lnrF r 3 1 != 255 else lnrF r 3 1 == 0)

/-- Runs start from level l − 1 down; a LIVE level waits for its bound (R69). -/
def nestStart (n : Nest) : Nat → Nest
  | 0 => n
  | l + 1 =>
    let n := { n with idx := n.idx.set l 0 }
    if n.live.getD l false then { n with await := some l }
    else nestStart { n with run := n.run.set l (n.bound.getD l 0) } l
/-- The next index vector from level l upward, `fuel` levels left; the nest ends when no level is left (R68). -/
def nestUp (n : Nest) : Nat → Nat → Nest
  | 0, _ => { n with done := true }
  | fuel + 1, l =>
    if n.levels ≤ l then { n with done := true }
    else if n.idx.getD l 0 + 1 < n.run.getD l 0 then nestStart { n with idx := n.idx.set l (n.idx.getD l 0 + 1) } l
    else nestUp n fuel (l + 1)
/-- One pass of the nest is over. -/
def nestNext (n : Nest) : Nest := nestUp n 7 0
/-- A LIVE bound read: the run uses min(value, BOUND); 0 makes the run empty (R69). -/
def nestGot (n : Nest) (v : Nat) : Nest :=
  match n.await with
  | none => n
  | some l =>
    let b := min v (n.bound.getD l 0)
    let n := { n with await := none, run := n.run.set l b }
    if b = 0 then nestUp n 7 (l + 1) else nestStart n l
/-- The nest of a record (R66): a level whose bound is 0 makes it empty. -/
def nestOf (r : BitVec 2048) : Nest :=
  let k := lnrF r 1 1
  let ls := List.range k
  let n : Nest := ⟨k, ls.map fun l => lnrL r l 0 4, ls.map fun l => lnrLive r l, ls.map fun l => BitVec.ofNat 64 (lnrL r l 0x18 8),
    List.replicate 6 0, List.replicate 6 0, none, false⟩
  if n.bound.contains 0 then { n with done := true } else nestStart n k

/-- The low 32 bits of the sync word at a LIVE address, free for another device's (log 20): an absent word or an unreachable peer reads 0 and is
recorded (R69). -/
def State.liveRead (s : State) (a : W64) : State × Nat :=
  if !s.reach a then (s.errRecord a 14 7 false 0 noCtx, 0)
  else if devOf a ≠ s.dev.devid.toNat then let f := s.freshWord; (f.1, (Config.farRow a.toNat s.dev.fresh).toNat % 2 ^ 32)
  else if s.syPresent (localOf a) then (s, fld (s.syLoad (localOf a)) 0 32)
  else (s.syRefuse (localOf a), 0)

end Sys2Proof.Machine
end

