-- ==== Sys2Proof/Machine/Group.lean ====
section
/-! DEFINITION. Task records, groups, dependences, triggers and the end of tasks (R101, R104, R107 to R113). -/

namespace Sys2Proof.Machine

/-! The task record (R104). -/

def trF (r : Row) (off n : Nat) : Nat := r.toNat / 2 ^ (8 * off) % 2 ^ (8 * n)
def trEntry (r : Row) : CodeAddr := BitVec.ofNat 48 (trF r 0 6)
def trDict (r : Row) : Nat := trF r 6 2
/-- DEPCTR's local sync address, 0 for none. -/
def trDep (r : Row) : Nat := trF r 8 8 % 2 ^ 58
def trSucc (r : Row) : Nat := trF r 0x10 8 % 2 ^ 58
def trNsucc (r : Row) : Nat := trF r 0x10 8 / 2 ^ 58
def trPrio (r : Row) : Nat := trF r 0x18 1 % 8
def trLevel (r : Row) : Nat := trF r 0x19 1 % 8
def trRank (r : Row) : Nat := trF r 0x1A 2 % 2 ^ 11
/-- Declared range i: virtual address, length in 4 KiB units, ACCESS. -/
def trRange (r : Row) (i : Nat) : Nat × Nat × Nat :=
  let w := trF r (0x20 + 8 * i) 8
  (w % 2 ^ 36 * 4096, w / 2 ^ 36 % 2 ^ 26, w / 2 ^ 62)
def trSsptr (r : Row) : Nat := trF r 0x78 6 / 128 * 128
def trSsmask (r : Row) : Nat := trF r 0x7E 2
def trNv (r : Row) : Nat := trSsmask r / 16 % 32
/-- A record with n bytes at an offset replaced. -/
def trSet (r : Row) (off n v : Nat) : Row :=
  BitVec.ofNat 1024 (r.toNat % 2 ^ (8 * off) + 2 ^ (8 * off) * (v % 2 ^ (8 * n)) + 2 ^ (8 * (off + n)) * (r.toNat / 2 ^ (8 * (off + n))))

/-- The template check of a LAUNCH or TSPAWN (R104): reserved bits, PRIO, range accesses, NV, and LEVEL's range (R101). -/
def trOk (r : Row) : Bool :=
  trF r 8 8 / 2 ^ 58 % 16 == 0 && trF r 0x18 1 / 16 == 0 && trF r 0x19 1 / 8 == 0 && trF r 0x1A 2 / 2 ^ 11 == 0 &&
    decide (trLevel r ≤ 4) && trSsmask r / 2 ^ 9 == 0 && decide (trNv r ≤ 16) &&
    (List.range 8).all fun i => (trRange r i).2.1 == 0 || (trRange r i).2.2 != 0

/-- The record of group g built from a template (R104): stepped DEPCTR and SUCC, GROUP. -/
def trFor (r : Row) (g level : Nat) : Row :=
  let d := trF r 8 8
  let dstep := d / 2 ^ 63 % 2 = 1
  let sstep := d / 2 ^ 62 % 2 = 1
  let r := if dstep then trSet r 8 8 (d / 2 ^ 58 * 2 ^ 58 + (d % 2 ^ 58 + 8 * g) % 2 ^ 58) else r
  let u := trF r 0x10 8
  let r := if sstep then trSet r 0x10 8 (u / 2 ^ 58 * 2 ^ 58 + (u % 2 ^ 58 + 8 * g) % 2 ^ 58) else r
  trSet (trSet r 0x1C 4 g) 0x19 1 level

/-! Groups. -/

/-- A group's key: unique for a command and a group index. -/
def groupKey (cmd idx : Nat) : Nat := cmd * 2 ^ 32 + idx % 2 ^ 32
/-- The least of the first n numbers that is not taken. -/
def leastFree (taken : Nat → Bool) : Nat → Option Nat
  | 0 => none
  | n + 1 =>
    match leastFree taken n with
    | some k => some k
    | none => if taken n then none else some n
/-- Whether an entry of a die's pool is taken (R107): by a group or continuation bound to one of the die's words, or by the trigger state of a group
homed there. -/
def State.poolTaken (s : State) (die n : Nat) : Bool :=
  (s.entries.find (die * 65536 + n)).isSome || s.groups.any fun g => g.2.die == die && g.2.gref == n
/-- The lowest free entry of a die's pool of 65,536 (R107): at most as many numbers are tried as are taken, plus one. -/
def State.freeGref (s : State) (die : Nat) : Option Nat :=
  leastFree (s.poolTaken die) (min 65536 (s.entries.length + s.groups.length + 1))

/-- What binding or creation answers (R108). -/
inductive Made where
  | ok (s : State)
  | full
  | refused
  deriving DecidableEq, Repr

/-- An entry bound to its DEPCTR, in the pool of the word's home die, or ready at once (R108). -/
def State.bindEntry (s : State) (dep : Nat) (e : Entry) : Made :=
  if dep = 0 then .ok (s.queueEntry e)
  else
    let w := s.syWord dep
    if !s.syPresent dep || w.kind != .dep || depBound w.val then .refused
    else if fld w.val 0 32 = 0 then .ok ((s.setSy (syKey dep) ⟨.dep, setFld w.val 49 1 1⟩).queueEntry e)
    else
      match s.freeGref (syDie dep) with
      | none => .full
      | some g =>
        .ok ({ s with entries := s.entries.put (syDie dep * 65536 + g) { e with st := .bound } }.setSy (syKey dep)
          ⟨.dep, setFld (setFld w.val 32 16 g) 48 1 1⟩)

/-- Entry n of a die's group pool (R107). -/
def State.poolAddr (s : State) (die n : Nat) : Nat := s.sovf die + 128 * n
/-- A group of a command created and its DEPCTR bound (R101, R107, R108): `r` is the group's own record, `die` its home die, `size` its tasks. The
record stands in the pool entry of the group's trigger state, where a program can read its arguments (R104; DESIGN CHOICE, log 127). -/
def State.makeGroup (s : State) (cmd idx level size die resmask : Nat) (r : Row) : Made :=
  match s.freeGref die with
  | none => .full
  | some gref =>
    let g : Group := ⟨cmd, idx, level, size, die, r, BitVec.ofNat 16 resmask, false, false, size, [], gref⟩
    let e : Entry := ⟨.new, .bound, groupKey cmd idx, 0, s.serial, r, 0, 0, 0, 0, []⟩
    ({ s with groups := s.groups.put (groupKey cmd idx) g, serial := s.serial + size }.putMem (s.poolAddr die gref) 128 r.toNat).bindEntry (trDep r) e

/-- The successor decrements of a group, as queued stores of a context, in order (R109, R163): each waits for the stores named
in `after`. -/
def succAccs (s : State) (n : Nat) (r : Row) (op : Nat) (after : List (Nat × Nat)) : List QAcc :=
  (List.range (trNsucc r)).map fun i =>
    ⟨false, true, BitVec.ofNat 64 (s.dev.devid.toNat * 2 ^ 58 + (trSucc r + 8 * i) % 2 ^ 58), op, i, .dec after, .waiting, s.cyc n, 0, false⟩

/-- A group triggers once: its decrements leave through context n's store queue (R109). -/
def State.triggerBy (s : State) (n key : Nat) (after : List (Nat × Nat)) : State :=
  match s.groups.find key with
  | none => s
  | some g =>
    if g.trigd || g.never then s
    else
      let s := { s with groups := s.groups.put key { g with trigd := true } }
      s.modCtx n fun c => { c with ops := c.ops + 1, q := c.q ++ succAccs s n g.trec (c.ops + 1) after }

/-- Whether engines still hold work of a command (R110). -/
def runOf (cmd : Nat) (r : Option RunCmd) : Bool := match r with | some x => x.c.cmd == cmd | none => false
def Core.hasCmd (c : Core) (cmd : Nat) : Bool :=
  runOf cmd c.copyE || runOf cmd c.offE || runOf cmd c.mainE || runOf cmd c.shadowE || runOf cmd c.recE || c.prio.any (·.cmd == cmd)

/-- A launch completes once its groups are all created and ended and its engine commands have completed (R110): OK, or
FAULT when a binding was refused, a parked group failed, or a task was killed (R92, R108, R119). -/
def State.tryFinish (s : State) (cmd : Nat) : State :=
  match (s.cmds.find cmd).bind (·.launch) with
  | none => s
  | some l =>
    if (l.next < l.count ∧ l.failed = false) ∨ s.groups.any (fun g => g.2.cmd == cmd) ∨ s.cores.any (fun c => c.2.hasCmd cmd) ∨
        s.ctxs.any (fun c => c.2.engs.any (·.cmd == cmd)) then s
    else s.finishCmd cmd (if l.killed then 7 else if l.lost then 8 else if l.failed then 5 else 0)

/-- A task of a group has ended on context n: the decrements of the group's last TEND wait for its stores (R163). -/
def State.memberEnds (s : State) (n key : Nat) : State :=
  match s.groups.find key with
  | some g => { s with groups := s.groups.put key { g with ended := (n, (s.ctx n).ops) :: g.ended } }
  | none => s
/-- One task or continuation of a group has ended with TEND on context n: the last one triggers the group and ends it (R109,
R110). -/
def State.leaveGroup (s : State) (n key : Nat) : State :=
  match s.groups.find key with
  | none => s
  | some g =>
    let ended := (n, (s.ctx n).ops) :: g.ended
    let s := { s with groups := s.groups.put key { g with live := g.live - 1, ended := ended } }
    if g.live ≤ 1 then
      let s := s.triggerBy n key ended
      { s with groups := s.groups.del key }.tryFinish g.cmd
    else s

/-! The continuation frame (R111). -/

/-- The rows of the frame beyond row 0 that hold registers, by SSMASK: row number and content. -/
def packRegs (w : Nat) (f : Nat → Nat) : Nat → Nat
  | 0 => 0
  | n + 1 => packRegs w f n + f n % 2 ^ w * 2 ^ (w * n)

/-- The vector ranges in row 0: first register and count. -/
def frameRanges (row0 : Row) (nv : Nat) : List (Nat × Nat) :=
  (List.range nv).map fun i => (trF row0 (4 * i) 4 % 2 ^ 11, trF row0 (4 * i) 4 / 2 ^ 11 % 2 ^ 12)
/-- Whether every range is legal (R111). -/
def rangesOk (row0 : Row) (nv : Nat) : Bool :=
  (List.range nv).all fun i =>
    let w := trF row0 (4 * i) 4
    let k := w / 2 ^ 11 % 2 ^ 12
    w / 2 ^ 23 == 0 && decide (1 ≤ k) && decide (k ≤ 2048) && decide (w % 2 ^ 11 + k ≤ 2048)
/-- The registers of the ranges, in list order. -/
def rangeRegs : List (Nat × Nat) → List Nat
  | [] => []
  | (f, k) :: rest => (List.range k).map (f + ·) ++ rangeRegs rest

/-- Each row of the frame that TWAIT writes: offset in rows, data, and whether the row holds a poisoned register (R110, R111).
Registers are named by logical number, mapped through RRB. -/
def frameRows (c : Ctx) (mask : Nat) (row0 : Row) : List (Nat × Row × Bool) :=
  let nv := mask / 16 % 32
  let pois (k : LKind) (n : Nat) : Bool := c.poisonRegs.contains (k, n)
  let anyP (k : LKind) (lo n : Nat) : Bool := (List.range n).any fun i => pois k (lo + i)
  let r0 := trSet (trSet (trSet row0 64 8 c.csr.rrb.toNat) 72 2 c.f.toNat) 74 54 0
  let sRows := if mask % 2 = 1 then (List.range 4).map fun i =>
      (1 + i, BitVec.ofNat 1024 (packRegs 64 (fun j => if 16 * i + j = 0 then 0 else (c.s.get 0 (16 * i + j)).toNat) 16), anyP .scalar (16 * i) 16) else []
  let gRows := if mask / 2 % 2 = 1 then
      [(5, BitVec.ofNat 1024 (packRegs 64 (fun j => if j = 0 then 2 ^ 33 - 1 else (c.g.get 0 j).toNat) 16), anyP .guard 0 16)] else []
  let kRows := if mask / 8 % 2 = 1 then (List.range 8).map fun i =>
      (6 + i, BitVec.ofNat 1024 (packRegs 256 (fun j => (c.k.get 0 (4 * i + j)).toNat) 4), anyP .scale (4 * i) 4) else []
  let regs := rangeRegs (frameRanges row0 nv)
  let vRows := (List.range regs.length).map fun i =>
      let p := physV c.csr.rrb (regs.getD i 0)
      (14 + i, c.v.get 0 p, pois .vec p || pois .row p)
  (0, r0, false) :: (sRows ++ gRows ++ kRows ++ vRows)

/-- The last row of the frame. -/
def frameLen (c : Ctx) (mask : Nat) (row0 : Row) : Nat := ((frameRows c mask row0).map (·.1)).foldl max 0 + 1

/-- Where the row of a virtual address lies in a task's writable extents: the ranges of its record in order, then the row of the extent
(R111, R118, R120). -/
def frameHit (c : Ctx) (r : Row) (va : Nat) : ExtHit :=
  ((List.range 8).findSome? fun i =>
    let g := trRange r i
    if g.2.1 ≠ 0 ∧ g.1 ≤ va ∧ va < g.1 + g.2.1 * 4096 then
      match extRow c true i ((va - g.1) / 128) with
      | .bound => none
      | h => some h
    else none).getD .bound
/-- Its fabric address, where an access may perform. -/
def frameAddr (c : Ctx) (r : Row) (va : Nat) : Option W64 :=
  match frameHit c r va with
  | .at x => some x
  | _ => none

/-! Launches, and where entries are queued. -/

/-- The launch of a command. -/
def State.launchOf (s : State) (cmd : Nat) : Option Launch := (s.cmds.find cmd).bind (·.launch)
def State.partOf (s : State) (group : Nat) : Nat :=
  match s.groups.find group with | some g => (match s.launchOf g.cmd with | some l => l.part | none => 0) | none => 0
/-- The die whose ready queue an entry belongs to (R114). -/
def State.dieOfEntry (s : State) (e : Entry) : Nat :=
  match e.kind with
  | .new => match s.groups.find e.group with | some g => g.die | none => 0
  | _ => dieOfCore e.core
/-- Whether no task of a die or a partition exists: on a context, saved, or in a group (R123). -/
def State.noTasks (s : State) (ofTask : Nat → TaskRun → Bool) (ofGroup : Group → Bool) : Bool :=
  !(s.ctxs.any fun c => decide (c.1 < 2048) && (match c.2.task with | some t => ofTask c.1 t | none => false)) &&
    !(s.saves.any fun v => ofTask v.2.ctx v.2.task) && !(s.groups.any fun g => ofGroup g.2)
def State.dieIdle (s : State) (die : Nat) : Bool := s.noTasks (fun n _ => dieOfCore (n / 4) == die) fun g => g.die == die
def State.partIdle (s : State) (part : Nat) : Bool :=
  s.noTasks (fun _ t => t.part == part) fun g => match s.launchOf g.cmd with | some l => l.part == part | none => false

end Sys2Proof.Machine
end

