-- ==== Sys2Proof/Machine/Fetch.lean ====
section
/-! DEFINITION. Fetch and expansion of bundles, and dictionary regions (R148, R150, R151, R231 to R234, R237, R251). -/

namespace Sys2Proof.Machine

/-- The code word at a code-word address: an address that holds no memory reads 0xFFFE (R231). -/
def State.codeWord (s : State) (a : Nat) : Nat :=
  match homeOf (2 * (a % 2 ^ 48)) with
  | .hole | .desc | .sync _ => 0xFFFE
  | _ => s.bytes (2 * (a % 2 ^ 48)) 2
/-- Poison under a code word (R231, R211). -/
def State.codePoison (s : State) (a : Nat) : Option (Nat × W64) :=
  let b := 2 * (a % 2 ^ 48)
  if s.isPoison b || s.lost b then some ((homeOf b).array, BitVec.ofNat 64 (rowBase b)) else none

/-- The region that the code word of the i-th bundle from a context's next one on indexes (R148, R150, R173): ABASE and ALEN, the old region for the
bundles still owed to a swap window, the handler's region for a hidden trap context. -/
def State.region (s : State) (key i : Nat) : Nat × Nat :=
  if 2048 ≤ key then ((s.core (key - 2048)).regionOf 0xFFFF).getD (0, 0)
  else
    let c := s.ctx key
    if i < c.owed then (c.oldBase, c.oldLen) else (fld c.csr.dictb 0 14, fld c.csr.dictl 0 15)

/-- BADINDEX's value: the code word, or the task's dictionary id with [63] set where the id is absent (R148, R177). -/
def State.badTval (s : State) (key i w : Nat) : Nat :=
  match (s.ctx key).task with
  | some t =>
    if fld (s.ctx key).csr.dictl 0 15 = 0 ∧ ((s.core (key / 4)).regionOf (trDict t.trec)).isNone ∧ (s.ctx key).owed ≤ i then
      2 ^ 63 + trDict t.trec else w
  | none => w

/-- The parcels of a literal bundle, n of them from word a on (R238). -/
def State.literal (s : State) (a : Nat) : Nat → List W32
  | 0 => []
  | n + 1 => BitVec.ofNat 32 (s.codeWord a + s.codeWord (a + 1) * 2 ^ 16) :: s.literal (a + 2) n

/-- The rows that a literal bundle's 50 bytes may lie in, as they stand (R234, R238). -/
def State.codeRows (s : State) (a : Nat) : List (Nat × Row) :=
  ([rowBase (2 * a), rowBase (2 * a + 49)].eraseDups).map fun x => (x, s.rawRow x)
/-- The expansion of one bundle at a code-word address (R251), the i-th from the context's next one on. -/
def State.expand (s : State) (key i : Nat) (pc : CodeAddr) : FetchEnt :=
  let a := pc.toNat
  let w := s.codeWord a
  let addr (x : Nat) : CodeAddr := BitVec.ofNat 48 x
  let r := s.region key i
  if w = 0xFFFF then
    let hdr := s.codeWord (a + 1) + s.codeWord (a + 2) * 2 ^ 16
    if hdrOk hdr then
      let n := 1 + slotParcels (hdr % 2 ^ 11)
      let p := (s.codePoison a).orElse fun _ => s.codePoison (a + 2 * n)
      ⟨pc, addr (a + 1 + 2 * n), s.literal (a + 1) n, none, p, s.codeRows a⟩
    else ⟨pc, addr (a + 3), [], some (0x01, BitVec.ofNat 64 (hdr * 2 ^ 32 + 12)), (s.codePoison a).orElse fun _ => s.codePoison (a + 2), s.codeRows a⟩
  else if w = 0xFFFE ∨ r.2 ≤ w ∨ Config.dictEntries ≤ r.1 + w then
    ⟨pc, addr (a + 1), [], some (0x02, BitVec.ofNat 64 (s.badTval key i w)), s.codePoison a, []⟩
  else
    let k := if 2048 ≤ key then key - 2048 else key / 4
    ⟨pc, addr (a + 1), parcelsOf ((s.core k).dict.get 0 (r.1 + w)).toNat 12, none, s.codePoison a, []⟩

/-- The entry of the dictionary store that expands the bundle at a code-word address, the i-th from the context's next one on, and the core whose store
it is. -/
def State.dictEntry (s : State) (key i : Nat) (pc : CodeAddr) : Option (Nat × Nat) :=
  let w := s.codeWord pc.toNat
  let r := s.region key i
  if w = 0xFFFF ∨ w = 0xFFFE ∨ r.2 ≤ w ∨ Config.dictEntries ≤ r.1 + w then none
  else some (if 2048 ≤ key then key - 2048 else key / 4, r.1 + w)
/-- An expanded bundle as it is read: an access to lost memory is recorded, and an armed error of the dictionary store names its entry (R209, R211,
R213). -/
def State.fetched (s : State) (key i : Nat) (e : FetchEnt) : State × FetchEnt :=
  match e.poison with
  | some (_, a) => (if s.lost a.toNat then s.lostRec a.toNat else s, e)
  | none =>
    match s.dictEntry key i e.pc with
    | none => (s, e)
    | some (core, n) =>
      let target := n % 2 ^ 13 + 2 ^ 13 * core
      let r := s.injArray 5 target (BitVec.ofNat 64 target) (some core) (if 2048 ≤ key then noCtx else key)
      (r.1, if r.2 then { e with poison := some (5, BitVec.ofNat 64 target) } else e)
/-- The bundle at a code-word address, the i-th from the context's next one on, as it is read: an armed error of memory meets the row of its first word,
and of a literal bundle that of its last word (R209, R213, R233). -/
def State.fetchAt (s : State) (key i : Nat) (pc : CodeAddr) : State × FetchEnt :=
  let s := s.injRow (2 * pc.toNat)
  let last := 2 * ((s.expand key i pc).next.toNat - 1)
  let s := if rowBase last = rowBase (2 * pc.toNat) then s else s.injRow last
  s.fetched key i (s.expand key i pc)
/-- The fetch unit takes the next bundle in sequence into the queue of 8 (R233). -/
def State.fetchOne (s : State) (key : Nat) : State :=
  let c := s.ctx key
  if 8 ≤ c.fq.length then s
  else
    let pc := match c.fq.getLast? with | some e => e.next | none => c.pc
    let r := s.fetchAt key c.fq.length pc
    r.1.modCtx key fun c => { c with fq := c.fq ++ [r.2] }

/-- Code rows put over what memory holds. -/
def State.overlay (s : State) (rows : List (Nat × Row)) : State :=
  { s with mem := (rows.foldl (fun t x => t.putMem x.1 128 x.2.toNat) s).mem }
/-- The last bundle in the queue, a literal one, with row k of it read only now: its other row stays as it was read, and the mixed bundle is expanded as it
stands (R234). -/
def State.fetchRow (s : State) (key k : Nat) : State :=
  let q := (s.ctx key).fq
  match q.getLast? with
  | none => s
  | some e =>
    if e.seen.length ≤ k then s
    else
      let x := (s.overlay (e.seen.eraseIdx k)).expand key (q.length - 1) e.pc
      s.modCtx key fun c => { c with fq := c.fq.dropLast ++ [{ x with poison := e.poison.orElse fun _ => x.poison }] }

/-- A control transfer: what was fetched beyond the bundle is discarded, an owed window closes, and a running loop ends
(R150, R233, R277). -/
def Ctx.jumpTo (c : Ctx) (pc : CodeAddr) : Ctx := { c with next := pc, fq := [], owed := 0, lp := none }
/-- A loop that is over: the context goes on after its body, whose bundles count against an owed window once (R150, R276, R278). -/
def Ctx.leaveLoop (c : Ctx) (after : CodeAddr) (body : Nat) : Ctx := { c with next := after, fq := [], owed := c.owed - body, lp := none }

/-! Dictionary regions (R148 to R151). -/

def overlap (b1 n1 b2 n2 : Nat) : Bool := decide (b1 < b2 + n2) && decide (b2 < b1 + n1)
/-- Whether a region meets the active region of any context of the core, or a swap window owed there, also one that a saved task's image records
(R149, R150, R182). -/
def State.regionBusy (s : State) (core base n : Nat) : Bool :=
  ((List.range 4).any fun i =>
    let c := s.ctx (4 * core + i)
    c.task.isSome && (overlap base n (fld c.csr.dictb 0 14) (fld c.csr.dictl 0 15) || (c.owed != 0 && overlap base n c.oldBase c.oldLen))) ||
  s.saves.any fun v => v.2.ctx / 4 == core && s.bytes (v.2.addr + 0x40358) 1 != 0 &&
    overlap base n (s.bytes (v.2.addr + 0x40354) 2) (s.bytes (v.2.addr + 0x40356) 2)

/-- The lowest-numbered table entry that may be replaced (R151). -/
def State.victim (s : State) (core : Nat) : List (Nat × (Nat × Nat × Nat)) → Option Nat
  | [] => none
  | (k, id, b, n) :: rest =>
    if id ≠ 0xFFFF ∧ s.regionBusy core b n = false then some k else s.victim core rest
/-- The least number below n that is no key. -/
def freeKey {α : Type} (m : AMap α) : Nat → Option Nat
  | 0 => none
  | n + 1 => match freeKey m n with
    | some k => some k
    | none => if (m.find n).isNone then some n else none

/-- Binding an id to a region in the table of 64 (R151); none when no entry qualifies. -/
def State.bindId (s : State) (core id base n : Nat) : Option State :=
  let c := s.core core
  let at' (k : Nat) : State := s.setCore core { c with region := c.region.put k (id, base, n) }
  match c.region.find? (fun e => e.2.1 == id) with
  | some e => some (at' e.1)
  | none =>
    match freeKey c.region 64 with
    | some k => some (at' k)
    | none => (s.victim core c.region).map at'

/-- Whether a 48 B entry is accepted (R237): a legal header and zero bytes beyond the last parcel. -/
def entryOk (e : Nat) : Bool := hdrOk (e % 2 ^ 32) && e % 2 ^ 384 / 2 ^ (32 * (1 + slotParcels (e % 2 ^ 11))) == 0

/-- Entries from a byte address into the dictionary store, ascending, until one is refused (R237): the state, how many were
written, and whether all were. An id whose region is overwritten and unused is unbound (R151). -/
def State.writeEntries (s : State) (core base : Nat) (get : Nat → Nat) : Nat → State × Nat × Bool
  | 0 => (s, 0, true)
  | n + 1 =>
    let r := s.writeEntries core base get n
    if r.2.2 && entryOk (get n) then
      (r.1.modCore core fun c => { c with
          dict := c.dict.put (base + n) (BitVec.ofNat 384 (get n))
          region := c.region.filter fun e => !overlap (base + n) 1 e.2.2.1 e.2.2.2 },
        r.2.1 + 1, true)
    else (r.1, r.2.1, false)

end Sys2Proof.Machine
end

