-- ==== Sys2Proof/Machine/Control.lean ====
section
/-! DEFINITION. The control slot but for CSRR and CSRW (R274 to R294), and the empty bundle (R235). -/

namespace Sys2Proof.Machine

/-- The check of the instructions that a handler may not issue: it holds no task (R274). -/
def State.noTask (s : State) (i : Instr) : Option (Nat × Nat) := if s.hidden then some (0x01, slotTval i) else none
/-- LOOP, CALL, RET and DSWAP trap ILLEGAL in a body bundle (R277). -/
def State.noBody (s : State) (i : Instr) : Option (Nat × Nat) := if s.me.lp.isSome then some (0x01, slotTval i) else none
/-- The first of two checks that traps. -/
def both (a b : Option (Nat × Nat)) : Option (Nat × Nat) := match a with | some x => some x | none => b

/-- CNOP. -/
def execCnop (s : State) : Host.Outcome State Fault Refusal := .next s

/-! Control transfer (R275). -/

/-- A branch target: this bundle's first word plus a signed offset, modulo 2^48 (R240). -/
def State.target {n : Nat} (s : State) (off : BitVec n) : CodeAddr := s.me.pc + off.signExtend 48
/-- The next bundle of the context, when the transfer is taken. -/
def State.branch (s : State) (taken : Bool) (t : CodeAddr) : Host.Outcome State Fault Refusal :=
  .next (if taken then s.modMe fun c => c.jumpTo t else s)

/-- BR (R275). -/
def execBr (off : BitVec 24) (s : State) : Host.Outcome State Fault Refusal := s.branch true (s.target off)
/-- BRZ: all 64 bits are compared (R275). -/
def execBrz (r : BitVec 6) (off : BitVec 18) (s : State) : Host.Outcome State Fault Refusal :=
  s.branch (s.rdS r == 0) (s.target off)
/-- BRNZ (R275). -/
def execBrnz (r : BitVec 6) (off : BitVec 18) (s : State) : Host.Outcome State Fault Refusal :=
  s.branch (s.rdS r != 0) (s.target off)
/-- BRG: the c bit of the guard (R275). -/
def execBrg (g : BitVec 4) (inv : Bool) (off : BitVec 19) (s : State) : Host.Outcome State Fault Refusal :=
  s.branch (s.scalarOn g inv) (s.target off)
/-- JMP: bits [63:48] of the register are ignored (R275). -/
def execJmp (r : BitVec 6) (s : State) : Host.Outcome State Fault Refusal := s.branch true ((s.rdS r).truncate 48)
/-- CALL: lands the next bundle's address in s63 after 1 tick (R275). -/
def execCall (off : BitVec 24) (s : State) : Host.Outcome State Fault Refusal :=
  issue s (s.noBody (.call off))
    ((s.landS 0 0 63 1 (s.me.next.zeroExtend 64)).modMe fun c => c.jumpTo (s.target off))
/-- RET: to s63[47:0] (R275). -/
def execRet (s : State) : Host.Outcome State Fault Refusal :=
  issue s (s.noBody .ret) (s.modMe fun c => c.jumpTo ((s.rdS 63).truncate 48))

/-! The loop buffer (R147, R276 to R278). -/

/-- The row pair at scratchpad rows r and r + 1: what the bundle's reads brought, or, where the meaning is taken alone, what
the rows hold (R276). -/
def State.pairAt (s : State) (r : Nat) : BitVec 2048 :=
  match s.me.rowsAt with
  | some _ => (s.me.rowsRead.get 0 (r % Config.spRows)).zeroExtend 2048 |||
      ((s.me.rowsRead.get 0 ((r + 1) % Config.spRows)).zeroExtend 2048 <<< 1024)
  | none => (s.rawRow (spAddr s.coreNo r)).zeroExtend 2048 ||| ((s.rawRow (spAddr s.coreNo (r + 1))).zeroExtend 2048 <<< 1024)
/-- The read of a row pair is used up when its bundle issues (DEDUCED, log 105). -/
def State.pairUsed (s : State) : State := s.modMe fun c => { c with rowsAt := none, rowsRead := [] }

/-- The row of a LOOP's record. -/
def State.loopRow (s : State) (base : BitVec 6) (off : BitVec 14) : Nat :=
  (s.rdS base + off.signExtend 64).toNat % Config.spRows

/-- The next n bundles in code order from an address, the first the i-th from the context's next one on, as they are read (R276). -/
def State.bodyFrom (s : State) (key i : Nat) (pc : CodeAddr) : Nat → State × List FetchEnt
  | 0 => (s, [])
  | n + 1 =>
    let r := s.fetchAt key i pc
    let t := r.1.bodyFrom key (i + 1) r.2.next n
    (t.1, r.2 :: t.2)

/-- The loop buffer after LOOP issues, or none for an empty nest (R276). -/
def State.startLoop (s : State) (row n : Nat) : State :=
  let read := s.bodyFrom s.act 0 s.me.next n
  let body := read.2
  let after := match body.getLast? with | some e => e.next | none => s.me.next
  let nest := nestOf (s.pairAt row)
  read.1.modMe fun c =>
    if nest.done then { c.leaveLoop after n with lp := c.lp }
    else { c with
        next := c.next
        fq := []
        ix := if nest.await.isNone then nest.idx.map (BitVec.ofNat 32) else c.ix
        lp := some ⟨body, after, 0, false, nest, row, c.next, none⟩ }

/-- LOOP: a refused record traps ILLEGAL; otherwise the N bundles after it enter the loop buffer (R276). -/
def execLoop (base : BitVec 6) (body : BitVec 4) (off : BitVec 14) (s : State) : Host.Outcome State Fault Refusal :=
  let row := s.loopRow base off
  let i := Instr.loop base body off
  issue s (both (both (s.noTask i) (s.noBody i)) (if lnrOkLoop (s.pairAt row) 0 then none else some (0x01, slotTval i)))
    (s.startLoop row (body.toNat + 1)).pairUsed

/-- LOOPBRK: legal only in a body; with the guard's c bit the loop ends and ix0 to ix5 keep their values (R278). -/
def execLoopbrk (g : BitVec 4) (inv : Bool) (s : State) : Host.Outcome State Fault Refusal :=
  let i := Instr.loopbrk g inv
  issue s (both (s.noTask i) (if s.me.lp.isNone then some (0x01, slotTval i) else none))
    (if s.scalarOn g inv then
      s.modMe fun c => match c.lp with | some l => c.leaveLoop l.after l.buf.length | none => c
    else s)

/-! Task control (R279 to R283). -/

/-- TEND: the context drains and the task ends (R110, R279). -/
def execTend (s : State) : Host.Outcome State Fault Refusal :=
  issue s (s.noTask .tend) (s.modMe fun c => { c with hold := .ending none, req := false, reports := [] })

/-- What the frame of a task's TWAIT is found to be (R111, R120): its rows in place with row 0, or the first trap, or a wait for a revoked piece. -/
inductive FrameIs where
  | at (row0 : Row)
  | waits
  | trap (cause tval : Nat)
  deriving DecidableEq, Repr
def State.frameIs (s : State) (c : Ctx) (r : Row) : FrameIs :=
  let ss := trSsptr r
  match frameHit c r ss with
  | .bound => .trap 0x04 ss
  | .refused => .trap 0x05 ss
  | .revoked => .waits
  | .at x =>
    let row0 := s.peek x
    let hits := (List.range (frameLen c (trSsmask r) row0)).map fun k => frameHit c r (ss + 128 * k)
    if !rangesOk row0 (trNv r) then .trap 0x01 ss
    else if hits.contains .bound then .trap 0x04 ss
    else if hits.contains .refused then .trap 0x05 ss
    else if hits.contains .revoked then .waits else .at row0
/-- What TWAIT finds at issue (R111, R280): the frame out of the writable extents, illegal ranges, or a word that cannot be
bound. -/
def State.twaitTrap (s : State) (i : Instr) (a : W64) : Option (Nat × Nat) :=
  match s.me.task with
  | none => some (0x01, slotTval i)
  | some t =>
    match s.frameIs s.me t.trec with
    | .trap c v => some (c, v)
    | .waits => none
    | .at _ =>
      let w := s.syWord (localOf a)
      if !s.syPresent (localOf a) || w.kind != .dep || depBound w.val then some (0x01, a.toNat) else none
/-- Whether TWAIT waits: for a revoked piece of its frame (R120), or for room in the pool of its word's die (R108). -/
def State.twaitWaits (s : State) (a : W64) : Bool :=
  match s.me.task with
  | none => false
  | some t => s.frameIs s.me t.trec == .waits ||
    (fld (s.syWord (localOf a)).val 0 32 != 0 && (s.freeGref (syDie (localOf a))).isNone)

/-- TWAIT: the task ends with a continuation, bound when it has drained (R111, R280). -/
def execTwait (r : BitVec 6) (off : BitVec 18) (s : State) : Host.Outcome State Fault Refusal :=
  let i := Instr.twait r off
  match both (s.noTask i) (s.twaitTrap i (s.rdS r)) with
  | some t => issue s (some t) s
  | none =>
    if s.twaitWaits (s.rdS r) then .next s
    else .next (s.modMe fun c => { c with hold := .ending (some (s.rdS r, s.target off, c.pc)), req := false, reports := [] })

/-- The checks of TSIG's address (R281): sync space, then reachability. -/
def State.tsigTrap (s : State) (a : W64) : Option (Nat × Nat) :=
  if fld a 52 4 ≠ 15 then some (0x01, a.toNat) else if !s.reach a then some (0x0A, a.toNat) else none
/-- TSIG: one DEC as a queued store; an irreversible effect of the segment (R218, R281). -/
def execTsig (r : BitVec 6) (s : State) : Host.Outcome State Fault Refusal :=
  let a := s.rdS r
  issue s (both (s.noTask (.tsig r)) (s.tsigTrap a))
    (s.modMe fun c => { c with ops := c.ops + 1, irrev := true, q := c.q ++ [⟨false, true, a, c.ops + 1, 0, .dec [], .waiting, s.clk, 0, false⟩] })

/-- The row of a TSPAWN's record. -/
def State.spawnRow (s : State) (r : BitVec 6) (off : BitVec 18) : Nat := (s.rdS r + off.signExtend 64).toNat % Config.spRows
/-- TSPAWN's record check (R113, R282): R104's, LEVEL and RANK zero, the rest of row 1 zero, a pool on the die (R107). -/
def State.spawnOk (s : State) (p : BitVec 2048) : Bool :=
  let r : Row := p.truncate 1024
  trOk r && trLevel r == 0 && trRank r == 0 && p.toNat / 2 ^ 1024 / 2 ^ 16 == 0 && s.log2mb (dieOfCore s.coreNo) != 0
/-- What TSPAWN makes: one level-0 group of the launch, with the launch's next spawn index (R113). -/
def State.spawn (s : State) (p : BitVec 2048) : Made :=
  match s.me.task with
  | none => .refused
  | some t =>
    match (s.cmds.find t.cmd).bind (·.launch) with
    | none => .refused
    | some l =>
      let r := trFor (p.truncate 1024) l.spawn 0
      let s' := match s.cmds.find t.cmd with
        | some c => { s with cmds := s.cmds.put t.cmd { c with launch := some { l with spawn := l.spawn + 1 } } }
        | none => s
      s'.makeGroup t.cmd l.spawn 0 1 (dieOfCore s.coreNo) (p.toNat / 2 ^ 1024 % 2 ^ 16) r
/-- TSPAWN: a failed check or a refused binding traps ILLEGAL with the scratchpad row (R282, log 114); a full pool holds the bundle. -/
def execTspawn (r : BitVec 6) (off : BitVec 18) (s : State) : Host.Outcome State Fault Refusal :=
  let row := s.spawnRow r off
  let p := s.pairAt row
  match both (s.noTask (.tspawn r off)) (if s.spawnOk p then none else some (0x01, row)) with
  | some t => issue s (some t) s
  | none =>
    match s.spawn p with
    | .ok s' => .next s'.pairUsed
    | .full => .next s
    | .refused => issue s (some (0x01, row)) s

/-- TRIG: the group triggers, once (R109, R279). -/
def execTrig (s : State) : Host.Outcome State Fault Refusal :=
  issue s (s.noTask .trig)
    (match s.me.task with
    | some t => (s.modMe fun c => { c with irrev := true }).triggerBy s.act t.group []
    | none => s)

/-- YIELD: with REQ set the context is saved after this bundle, WHY 0x00 (R283). -/
def execYield (s : State) : Host.Outcome State Fault Refusal :=
  issue s (s.noTask .yield) (if s.me.req then s.modMe fun c => { c with hold := .save 0 false } else s)

/-- RDV: it issues once its arrival is answered; until then the context waits, and the arrival leaves when its earlier stores
have performed (R284). -/
def execRdv (sa se : BitVec 6) (s : State) : Host.Outcome State Fault Refusal :=
  issue s (s.noTask (.rdv sa se))
    (match s.me.hold with
    | .rdv _ _ true => s.modMe fun c => { c with hold := .none }
    | .rdv a e false => s.modMe fun c => { c with hold := .rdv a e false }
    | .late a => (s.modMe fun c => { c with hold := .none }).takeTrap 0x17 a s.me.pc
    | _ => s.modMe fun c => { c with hold := .rdv (s.rdS sa) ((s.rdS se).truncate 32) false, rdvAt := none })

/-! Flags, ordering and fences (R286, R287). -/

/-- MARK: a place in both queues (R159). -/
def execMark (s : State) : Host.Outcome State Fault Refusal :=
  .next (s.modMe fun c => { c with ops := c.ops + 1, q := c.q ++ [⟨true, true, 0, c.ops + 1, 0, .mark, .waiting, s.clk, 0, false⟩] })
/-- FSET: bit 15 is ignored (R286). -/
def execFset (m : BitVec 16) (s : State) : Host.Outcome State Fault Refusal :=
  .next (s.modMe fun c => { c with f := c.f ||| (m &&& 0x7FFF) })
/-- FCLR: bit 15 is ignored, and what the device sets in the same cycle stays set (R286). -/
def execFclr (m : BitVec 16) (s : State) : Host.Outcome State Fault Refusal :=
  .next (s.modMe fun c => c.clearFlags (m &&& 0x7FFF))
/-- FENCE: later bundles wait for its kind and scope (R160, R287). -/
def execFence (scope : BitVec 3) (kind : BitVec 2) (s : State) : Host.Outcome State Fault Refusal :=
  .next (s.modMe fun c => { c with hold := .fence scope.toNat kind.toNat })

/-! Traps and return (R288, R289). -/

/-- TRAP: the named cause in the after class, bit 62 of TVAL set (R288). -/
def execTrap (cause : BitVec 8) (code : BitVec 16) (s : State) : Host.Outcome State Fault Refusal :=
  .next (s.takeTrap cause.toNat (BitVec.ofNat 64 (code.toNat + 2 ^ 62)) s.me.next)
/-- BKPT: BREAK in the after class with the immediate (R177, R288). -/
def execBkpt (imm : BitVec 24) (s : State) : Host.Outcome State Fault Refusal :=
  .next (s.takeTrap 0x11 (imm.zeroExtend 64) s.me.next)
/-- RFT: PRIV outside a handler; it waits until the handler's landing buffer is empty, then acts on TFRAME.ACTION (R178, R289). -/
def execRft (s : State) : Host.Outcome State Fault Refusal :=
  if s.hidden then
    .next (if s.me.land.isEmpty then s.returnTrap else s.modMe fun c => { c with hold := .rft })
  else issue s (some (0x03, slotTval .rft)) s

/-- RMACK: ACKVER := RMVERDEV, f15 cleared, the grace timer stopped; f15 set by a version in the same cycle stays, and its timer runs (R18, R292). -/
def execRmack (s : State) : Host.Outcome State Fault Refusal :=
  issue s (s.noTask .rmack)
    (s.modMe fun c => { c.clearFlags 0x8000 with
        grace := c.fset.getLsbD 15
        csr := { c.csr with ackver := s.reg 0x302 } })

/-- Whether the context has a DICTLD that has not completed (R293). -/
def State.dictldOut (s : State) : Bool :=
  s.me.eq.any (fun e => e.op == 0x08) ||
    (match (s.core s.coreNo).copyE with | some r => r.c.op == 0x08 && r.c.ctx == s.act | none => false)
/-- DSWAP exchanges ACTIVE and SHADOW, binds the shadow's id, and owes up to 8 bundles of the old region (R150, R293). -/
def execDswap (s : State) : Host.Outcome State Fault Refusal :=
  if s.dictldOut then .next s
  else
    let c := s.me
    let sb := fld c.csr.dictb 16 14
    let sl := fld c.csr.dictl 16 15
    let ab := fld c.csr.dictb 0 14
    let al := fld c.csr.dictl 0 15
    match both (both (s.noTask .dswap) (s.noBody .dswap)) (if sl = 0 ∨ c.shadowId.isNone then some (0x01, slotTval .dswap) else none) with
    | some t => issue s (some t) s
    | none =>
      let id := c.shadowId.getD 0
      match s.bindId s.coreNo id sb sl with
      | none => issue s (some (0x01, id)) s
      | some s' =>
        .next (s'.modMe fun c => { c with
            shadowId := none
            oldBase := ab
            oldLen := al
            owed := 8
            csr := { c.csr with
              dictb := BitVec.ofNat 64 (sb + 2 ^ 16 * ab)
              dictl := BitVec.ofNat 64 (sl + 2 ^ 16 * al) } })

/-- ROT: RRB := (RRB + n) mod 1024; in a handler the trapped context's (R173, R291). -/
def execRot (n : BitVec 10) (s : State) : Host.Outcome State Fault Refusal :=
  .next (s.modTgt fun c => { c with csr := { c.csr with rrb := BitVec.ofNat 64 ((fld c.csr.rrb 0 10 + n.toNat) % 1024) } })

/-! The issue of a bundle (R130, R235, R276). -/

/-- After a body bundle: the next one of the body, or the first with the pass over; whether another pass follows is decided
when the context would next issue (R147, R276). -/
def Ctx.loopStep (c : Ctx) : Ctx :=
  match c.lp with
  | none => c
  | some l =>
    if l.pos + 1 < l.buf.length then
      { c with lp := some { l with pos := l.pos + 1 }, next := (match l.buf[l.pos + 1]? with | some e => e.pc | none => c.next) }
    else { c with lp := some { l with pos := 0, passed := true }, next := l.body }
/-- The pass that follows, when the context would issue: none left ends the loop at the bundle after the body (R147). -/
def Ctx.loopHead (c : Ctx) : Ctx :=
  match c.lp with
  | none => c
  | some l =>
    if !l.passed then c
    else
      let n := nestNext l.nest
      if n.done then { c.leaveLoop l.after l.buf.length with pc := l.after }
      else { c with lp := some { l with passed := false, nest := n } }

/-- A pass that begins: its indices stand in ix0 to ix5 (R276). A nest that a LIVE bound has ended goes on after the body. -/
def Ctx.passStart (c : Ctx) : Ctx :=
  match c.lp with
  | none => c
  | some l =>
    if l.passed || l.nest.await.isSome then c
    else if l.nest.done then { c.leaveLoop l.after l.buf.length with pc := l.after }
    else { c with ix := l.nest.idx.map (BitVec.ofNat 32) }

/-- A segment entry's snapshot (R217): SCHC and the address before it issues. -/
def Ctx.snapshot (c : Ctx) : Ctx :=
  { c with
      snap := some ⟨c.s, c.g, c.f, c.csr.rrb, c.pc, c.schc, c.ix, c.lp, c.csr.rngsel, c.rngKey, c.rngCtr, c.rngWait, c.csr.logh, c.csr.recst⟩
      irrev := false
      outside := 0
      rolled := false }

/-- One issue tick: SCHC advances by one and the context goes on at its next bundle (R130). -/
def State.tick (s : State) (key : Nat) : State :=
  s.modCtx key fun c => { c with schc := c.schc + 1, pc := c.next }

end Sys2Proof.Machine
end

