-- ==== Sys2Proof/Machine/MemSlots.lean ====
section
/-! DEFINITION. The LS, SS, PS and GS slots but for QLD and QSCAT, and STMC (R326 to R332). -/

namespace Sys2Proof.Machine

/-- The stride of an operation: the MODS field, signed, in the strided forms (R326). -/
def strideOf (a : MArgs) : Int := a.mods.toInt
/-- The row address a (R326). -/
def State.rowAddr (s : State) (a : MArgs) : W64 := s.rdS a.base + a.off.signExtend 64
/-- The k-th row address o(k) (R326). -/
def rowK (base : W64) (stride : Int) (k : Nat) : Nat := (base + BitVec.ofInt 64 (stride * (k : Int))).toNat
/-- Rows of an operation. -/
def nRows (a : MArgs) : Nat := a.rows.toNat + 1

/-- A new operation number of the issuing context; 0 is never one. -/
def State.newOp (s : State) : State × Nat := (s.modMe fun c => { c with ops := c.ops + 1 }, s.me.ops + 1)

/-- Place among the writes of one cycle: sources of multicasts first, then the lead's store, then the merged one (R138). -/
def State.storePrio (s : State) : Nat := if s.cur % 4 = (s.core s.coreNo).lead then 1000 else 1001
/-- In the panel store: ascending core, lead before merged (R140). -/
def State.panelPrio (s : State) : Nat := 2 * s.coreNo + if s.cur % 4 = (s.core s.coreNo).lead then 0 else 1

/-- The landing entries of a load's rows (R131, R132): an operation with no active lane takes them all the same (R327). -/
def State.loadEntries (s : State) (a : MArgs) (slot op : Nat) (lanes : Nat) : List LandEntry :=
  (List.range (nRows a)).map fun k =>
    ⟨.row, s.phys (a.v.toNat + k), s.me.schc + latBound a.lat.toNat, s.me.schc, slot, k, 0, laneMask lanes, 0, none,
      decide (lanes = 0), none, op, none, 0⟩

/-- A timed load of rows from core or panel `home` (512 upward a panel), first performing `delay` cycles from now. -/
def State.timedLoad (s : State) (a : MArgs) (slot home delay : Nat) (row : Nat → Nat) : State :=
  let n := s.newOp
  let lanes := s.lanes a.gd
  let es := s.loadEntries a slot n.2 lanes
  let s := n.1.modMe fun c => { c with land := c.land ++ es }
  if lanes = 0 then s
  else (List.range (nRows a)).foldl (fun s k =>
    s.time ⟨s.clk + delay + k, false, 0, home, row k, s.act, n.2, k, 0, 0, false, s.clk⟩) s

/-- A timed store of rows. -/
def State.timedStore (s : State) (a : MArgs) (home delay prio : Nat) (row : Nat → Nat) : State :=
  let lanes := s.lanes a.gd
  if lanes = 0 then s
  else (List.range (nRows a)).foldl (fun s k =>
    s.time ⟨s.clk + delay + k, true, prio, home, row k, s.act, 0, k, s.rdV (a.v.toNat + k), laneMask lanes, false, s.clk⟩) s

/-- The first panel-store row of an operation that is out of bounds traps EXTBOUND (R140, R326). -/
def psTrap (row : Nat → Nat) (n : Nat) : Option (Nat × Nat) :=
  ((List.range n).find? fun k => decide (Config.psRows ≤ row k)).map fun k => (0x04, row k)

/-- LDR: consecutive scratchpad rows (R326, R327). -/
def execLdr (a : MArgs) (s : State) : Host.Outcome State Fault Refusal :=
  .next (s.timedLoad a 3 s.coreNo 2 (fun k => rowK (s.rowAddr a) 1 k % Config.spRows))
/-- LDRS: rows at the stride in MODS. -/
def execLdrs (a : MArgs) (s : State) : Host.Outcome State Fault Refusal :=
  .next (s.timedLoad a 3 s.coreNo 2 (fun k => rowK (s.rowAddr a) (strideOf a) k % Config.spRows))
/-- STR (R326, R327). -/
def execStr (a : MArgs) (s : State) : Host.Outcome State Fault Refusal :=
  .next (s.timedStore a s.coreNo 2 s.storePrio (fun k => rowK (s.rowAddr a) 1 k % Config.spRows))
/-- STRS. -/
def execStrs (a : MArgs) (s : State) : Host.Outcome State Fault Refusal :=
  .next (s.timedStore a s.coreNo 2 s.storePrio (fun k => rowK (s.rowAddr a) (strideOf a) k % Config.spRows))
/-- PLD: panel-store rows of the core's panel (R140). -/
def execPld (a : MArgs) (s : State) : Host.Outcome State Fault Refusal :=
  let row := rowK (s.rowAddr a) 1
  issue s (psTrap row (nRows a)) (s.timedLoad a 5 (512 + panelOfCore s.coreNo) 6 row)
/-- PST. -/
def execPst (a : MArgs) (s : State) : Host.Outcome State Fault Refusal :=
  let row := rowK (s.rowAddr a) 1
  issue s (psTrap row (nRows a)) (s.timedStore a (512 + panelOfCore s.coreNo) 6 s.panelPrio row)

/-- STMC: one row into the multicast window of every live core the mask names, 8 cycles from issue (R139, R162, R330). -/
def execStmc (a : MArgs) (s : State) : Host.Outcome State Fault Refusal :=
  let lanes := s.lanes a.gd
  let mask := fld (s.rdS a.base) 0 16
  let row := 0x7F00 + a.off.toNat % 256
  let cores := (List.range 16).filter fun i => mask / 2 ^ i % 2 == 1 && s.map.cores.getLsbD (coreAt s.coreNo i)
  .next (if lanes = 0 then s else cores.foldl (fun s' i =>
    s'.time ⟨s.clk + 8, true, s.coreNo, coreAt s.coreNo i, row, s.act, 0, 0, s.rdV a.v.toNat, laneMask lanes, false, s.clk⟩) s)

/-! Queued accesses (R154, R156). -/

/-- What is captured of an operation (R180, R182): parcel, base scalar, guard and issue tick. -/
def State.srcOf (s : State) (i : Instr) (a : MArgs) : Nat :=
  (match encSlot i with | some (_, v) => v | none => 0) + 2 ^ 64 * (s.rdS a.base).toNat + 2 ^ 128 * (s.rdG a.gd.g).toNat + 2 ^ 192 * s.me.schc
/-- Entries added to the issuing context's queues. -/
def State.enqueue (s : State) (src : Nat) (qs : List QAcc) : State :=
  s.modMe fun c => { c with q := c.q ++ qs.map fun q => { q with iss := s.clk, src := src } }

/-- What the extent rows of an operation find at issue (R326, R36): a trap, a freeze, or for each row its fabric address, or (true) its place in
an extent whose piece is revoked (R120). -/
inductive GsChk where
  | trap (cause tval : Nat)
  | frozen
  | ok (places : List (W64 × Bool))
  deriving DecidableEq, Repr

/-- The checks of R326 over the row offsets of an operation: every extent bound first, then, if a lane is active, reachability
row by row (R394). -/
def State.gsCheck (s : State) (write : Bool) (ext : Nat) (offs : List Nat) (on : Bool) : GsChk :=
  let hits := offs.map fun o => (o, extRow s.tgt write ext o)
  match hits.find? (fun h => h.2 == .bound) with
  | some h => .trap 0x04 (extTval ext h.1)
  | none =>
    let places := hits.map fun h => match h.2 with | .at x => (x, false) | _ => (BitVec.ofNat 64 (extTval ext h.1), true)
    if !on then .ok places else
    match places.find? (fun x => !x.2 && !s.reach x.1) with
    | some x => .trap 0x0A x.1.toNat
    | none => .ok places
/-- The same for a quilt operation, which goes whole (log 46): it freezes at issue over a revoked row, and traps EXTREVOKED over a refused one. -/
def GsChk.whole (g : GsChk) (s : State) (write : Bool) (ext : Nat) : GsChk :=
  match g with
  | .ok places =>
    let bad := places.filter Prod.snd
    match bad.find? fun x => extRow s.tgt write ext (x.1.toNat / 16) == .refused with
    | some x => .trap 0x05 x.1.toNat
    | none => if bad.isEmpty then .ok places else .frozen
  | r => r

/-- A GS operation's outcome: its trap, nothing yet while it is frozen, or its effect (R120). -/
def gsOut (s : State) (c : GsChk) (eff : List (W64 × Bool) → State) : Host.Outcome State Fault Refusal :=
  match c with
  | .trap cause tval => issue s (some (cause, tval)) s
  | .frozen => .next s
  | .ok places => .next (eff places)

/-- Both ACCESS bits an ATOMR needs. -/
def State.gsCheck2 (s : State) (ext : Nat) (offs : List Nat) (on : Bool) : GsChk :=
  match s.gsCheck true ext offs on with
  | .ok _ => s.gsCheck false ext offs on
  | r => r

/-- The row offsets of an operation's rows. -/
def State.offsets (s : State) (a : MArgs) (stride : Int) : List Nat := (List.range (nRows a)).map (rowK (s.rowAddr a) stride)

/-- Rows of a queued load, in order. -/
def ldAccs (op : Nat) : Nat → List (W64 × Bool) → List QAcc
  | _, [] => []
  | k, x :: xs => ⟨true, false, x.1, op, k, .ld, .waiting, 0, 0, x.2⟩ :: ldAccs op (k + 1) xs

/-- A queued load of rows (R154): its landing entries, and a place in the load queue for each row; the source fields are
captured for a part-way stop (R180). -/
def State.queuedLoad (s : State) (i : Instr) (a : MArgs) (places : List (W64 × Bool)) : State :=
  let n := s.newOp
  let src := s.srcOf i a
  let lanes := s.lanes a.gd
  let es := s.loadEntries a 6 n.2 lanes
  let s := n.1.modMe fun c => { c with land := c.land ++ es }
  if lanes = 0 then s else s.enqueue src (ldAccs n.2 0 places)

/-- Rows of a queued store: data of V + k under the guard's lanes. -/
def State.stAccs (s : State) (a : MArgs) (op : Nat) : Nat → List (W64 × Bool) → List QAcc
  | _, [] => []
  | k, x :: xs => ⟨false, true, x.1, op, k, .st (s.rdV (a.v.toNat + k)) (laneMask (s.lanes a.gd)) false, .waiting, s.clk, 0, x.2⟩ :: s.stAccs a op (k + 1) xs
def State.queuedStore (s : State) (i : Instr) (a : MArgs) (places : List (W64 × Bool)) : State :=
  if s.lanes a.gd = 0 then s
  else let n := s.newOp; n.1.enqueue (s.srcOf i a) (s.stAccs a n.2 0 places)

/-- GLD. -/
def execGld (a : MArgs) (s : State) : Host.Outcome State Fault Refusal :=
  gsOut s (s.gsCheck false a.ext.toNat (s.offsets a 1) (decide (s.lanes a.gd ≠ 0))) (s.queuedLoad (.gld a) a)
/-- GLDS. -/
def execGlds (a : MArgs) (s : State) : Host.Outcome State Fault Refusal :=
  gsOut s (s.gsCheck false a.ext.toNat (s.offsets a (strideOf a)) (decide (s.lanes a.gd ≠ 0))) (s.queuedLoad (.glds a) a)
/-- GST. -/
def execGst (a : MArgs) (s : State) : Host.Outcome State Fault Refusal :=
  gsOut s (s.gsCheck true a.ext.toNat (s.offsets a 1) (decide (s.lanes a.gd ≠ 0))) (s.queuedStore (.gst a) a)
/-- GSTS. -/
def execGsts (a : MArgs) (s : State) : Host.Outcome State Fault Refusal :=
  gsOut s (s.gsCheck true a.ext.toNat (s.offsets a (strideOf a)) (decide (s.lanes a.gd ≠ 0))) (s.queuedStore (.gsts a) a)

/-- The fabric address of a local address of this device. -/
def State.here (s : State) (a : Nat) : W64 := BitVec.ofNat 64 (s.dev.devid.toNat * 2 ^ 58 + a)

/-- Output row k of a corner-turned store: element 8c + r is element k of register V + r (R329). -/
def State.stashRow (s : State) (a : MArgs) (k : Nat) : Built :=
  let w := fmtWidth a.ext.toNat
  let c := 8 * a.mods.toNat
  build w (fun i => decide (c ≤ i) && laneOn (s.lanes a.gd) (laneOf w k)) (fun i => (elem w (s.rdV (a.v.toNat + (i - c))) k, 0))
    (c + nRows a)
/-- The corner-turned rows through the store queue; a row with nothing to write is not accessed (R329). -/
def State.stash (s : State) (a : MArgs) (addr : Nat → Nat) : State :=
  let n := s.newOp
  n.1.enqueue 0 ((List.range (1024 / fmtWidth a.ext.toNat)).filterMap fun k =>
    let b := s.stashRow a k
    if b.mask = 0 then none
    else some ⟨false, true, s.here (addr k), n.2, k, .st (BitVec.ofNat 1024 b.data) (BitVec.ofNat 1024 b.mask) false, .waiting, s.clk, 0,
      false⟩)

/-- STASH: into the core's scratchpad. -/
def execStash (a : MArgs) (s : State) : Host.Outcome State Fault Refusal :=
  .next (s.stash a fun k => spAddr s.coreNo (rowK (s.rowAddr a) 1 k))
/-- PSTASH: into the core's panel store, every row in bounds. -/
def execPstash (a : MArgs) (s : State) : Host.Outcome State Fault Refusal :=
  let row := rowK (s.rowAddr a) 1
  issue s (psTrap row (1024 / fmtWidth a.ext.toNat)) (s.stash a fun k => psAddr (panelOfCore s.coreNo) (row k))

/-- Elements e below n whose lane step·e is active, ascending. -/
def activeElems (lanes step : Nat) : Nat → List Nat
  | 0 => []
  | n + 1 => activeElems lanes step n ++ (if laneOn lanes (step * n) then [n] else [])
/-- The active elements of ATOM and ATOMR: 32-bit by their lane, 64-bit by lane 2e (R331). -/
def State.atomElems (s : State) (a : MArgs) : List Nat :=
  if a.rows = 0 then activeElems (s.lanes a.gd) 1 32 else activeElems (s.lanes a.gd) 2 16

/-- The separate operations of ATOM and ATOMR (R331). -/
def State.atomAccs (s : State) (a : MArgs) (place : W64 × Bool) (op : Nat) (ret : Bool) : List QAcc :=
  let wide := a.rows != 0
  let w := if wide then 64 else 32
  (s.atomElems a).zipIdx.map fun x =>
    ⟨ret, true, place.1, op, x.2, .atom a.mods.toNat x.1 (BitVec.ofNat 64 (elem w (s.rdV a.v.toNat) x.1))
      (BitVec.ofNat 64 (elem w (s.rdV (a.v.toNat + 1)) x.1)) wide ret, .waiting, s.clk, 0, place.2⟩

/-- ATOM: one atomic operation per active element on one row (R331, R332). An issued one is an irreversible effect of the
segment (R218). -/
def execAtom (a : MArgs) (s : State) : Host.Outcome State Fault Refusal :=
  gsOut s (s.gsCheck true a.ext.toNat [rowK (s.rowAddr a) 1 0] (!(s.atomElems a).isEmpty)) fun addrs =>
    let n := s.newOp
    let s' := n.1.modMe fun c => { c with irrev := true }
    s'.enqueue (s.srcOf (.atom a) a) (s.atomAccs a (addrs.headD (0, false)) n.2 false)

/-- The bits of some elements of width w. -/
def elemMask (w : Nat) : List Nat → Nat
  | [] => 0
  | e :: es => elemMask w es ||| ((2 ^ w - 1) * 2 ^ (w * e))
/-- ATOMR: ATOM, and the old values of the active elements land together in their lanes (R331, R410). -/
def execAtomr (a : MArgs) (s : State) : Host.Outcome State Fault Refusal :=
  gsOut s (s.gsCheck2 a.ext.toNat [rowK (s.rowAddr a) 1 0] (!(s.atomElems a).isEmpty)) fun addrs =>
    let n := s.newOp
    let w := if a.rows != 0 then 64 else 32
    let es := s.atomElems a
    let entry : LandEntry := ⟨.vec, s.phys a.v.toNat, s.me.schc + latBound a.lat.toNat, s.me.schc, 6, 0, 0, BitVec.ofNat 1024 (elemMask w es), 0,
      none, es.isEmpty, none, n.2, none, es.length⟩
    let s' := n.1.modMe fun c => { c with irrev := true, land := c.land ++ [entry] }
    s'.enqueue (s.srcOf (.atomr a) a) (s.atomAccs a (addrs.headD (0, false)) n.2 true)

/-- NOP of a slot: no effect (R262). -/
def execNop (_slot : NSlot) (s : State) : Host.Outcome State Fault Refusal := .next s

end Sys2Proof.Machine
end

