-- ==== Sys2Proof/Machine/Quilt.lean ====
section
/-! DEFINITION. Quilt regions: the descriptor, QLD's gather and QSCAT's scatter (R333 to R336). -/

namespace Sys2Proof.Machine

/-! The descriptor (R333). -/

def quD (d : BitVec 2048) : Nat := lnrF d 0 1
def quL (d : BitVec 2048) : Nat := lnrF d 1 1
def quF (d : BitVec 2048) : Nat := lnrF d 2 1
/-- Whether the table holds BF16. -/
def quBf (d : BitVec 2048) : Bool := lnrF d 3 1 == 1
def quT (d : BitVec 2048) : Nat := lnrF d 4 1
def quText (d : BitVec 2048) : Nat := lnrF d 5 1
def quGext (d : BitVec 2048) : Nat := lnrF d 6 1
/-- EB: bytes of a table entry. -/
def quEb (d : BitVec 2048) : Nat := quF d * (if quBf d then 2 else 4)
/-- GB: bytes of a gradient entry. -/
def quGb (d : BitVec 2048) : Nat := quF d * 4

/-- The encoding of a whole number in binary32. -/
def ofNat32 (n : Nat) : Nat := (encodeFp fp32 .rne (.fin false n 0)).1
/-- floor of a finite, non-negative binary32 number; none when it is not one. -/
def floor32 (x : Nat) : Option Nat :=
  match decodeFp fp32 x with
  | .fin neg m e => if neg && m != 0 then none else some (match e with | .ofNat k => m * 2 ^ k | .negSucc k => m / 2 ^ (k + 1))
  | _ => none

/-- N0 multiplied l times by B (R334). -/
def quGrow (b : Nat) : Nat → Nat → Nat
  | 0, p => p
  | l + 1, p => quGrow b l (mul32 p b)
/-- Nl, if it is a number from 1 to 2^24 (R334). -/
def quNl (d : BitVec 2048) (l : Nat) : Option Nat :=
  match floor32 (quGrow (lnrF d 0x0C 4) l (lnrF d 8 4)) with
  | some n => if 1 ≤ n ∧ n ≤ 2 ^ 24 then some n else none
  | none => none
/-- Whether a binary32 word is finite and positive. -/
def posFinite (x : Nat) : Bool := decide (x < 0x7F800000) && x != 0

/-- The descriptor check of R334 for level l. -/
def quOk (d : BitVec 2048) (l : Nat) : Bool :=
  decide (1 ≤ quD d) && decide (quD d ≤ 8) && decide (1 ≤ quL d) && decide (quL d ≤ 16) && [1, 2, 4, 8].contains (quF d) &&
    decide (lnrF d 3 1 ≤ 1) && decide (10 ≤ quT d) && decide (quT d ≤ 24) && decide (quText d ≤ 15) && decide (quGext d ≤ 15) &&
    lnrF d 7 1 == 0 && d.toNat / 2 ^ 256 == 0 && decide (l < quL d) && posFinite (lnrF d 8 4) && posFinite (lnrF d 0x0C 4) &&
    (quNl d l).isSome

/-! Positions and corners (R335). -/

/-- A coordinate limited to [0, 1): NaN and negatives become 0. -/
def quClamp (x : Nat) : Nat :=
  match decodeFp fp32 x with
  | .fin neg m _ => if neg && m != 0 then 0 else if 0x3F800000 ≤ x % 2 ^ 31 then 0x3F7FFFFF else x % 2 ^ 31
  | .inf neg => if neg then 0 else 0x3F7FFFFF
  | _ => 0
/-- base and fr of a coordinate. -/
def quPos (n x : Nat) : Nat × Nat :=
  let q := mul32 (quClamp x) (ofNat32 n)
  let b := min ((floor32 q).getD 0) (n - 1)
  (b, sub32 q (ofNat32 b))
def one32 : Nat := 0x3F800000
/-- The share of dimension d at a corner. -/
def quShare (fr : Nat) (up : Bool) : Nat := if up then fr else sub32 one32 fr
/-- The weight of corner k, dimensions ascending from d. -/
def quWeight (k : Nat) : Nat → Nat → List (Nat × Nat) → Nat
  | _, w, [] => w
  | d, w, p :: ps => quWeight k (d + 1) (mul32 w (quShare p.2 (k / 2 ^ d % 2 == 1))) ps

/-- The multipliers π of the hashed index. -/
def quPi (d : Nat) : Nat :=
  [1, 0x9E3779B1, 0xB5297A4D, 0x68E31DA5, 0x1B56C4E9, 0xC7A5D2B3, 0x2C1B3C6D, 0x7FEB352D].getD d 0
/-- The plain index of corner k. -/
def quFlat (n k : Nat) : Nat → List (Nat × Nat) → Nat
  | _, [] => 0
  | d, p :: ps => (p.1 + k / 2 ^ d % 2) * (n + 1) ^ d + quFlat n k (d + 1) ps
/-- The hash of corner k. -/
def quHash (k : Nat) : Nat → List (Nat × Nat) → Nat
  | _, [] => 0
  | d, p :: ps => ((p.1 + k / 2 ^ d % 2) * quPi d % 2 ^ 32) ^^^ quHash k (d + 1) ps
/-- The entry index of corner k. -/
def quIdx (t n k : Nat) (ps : List (Nat × Nat)) : Nat :=
  if (n + 1) ^ ps.length ≤ 2 ^ t then quFlat n k 0 ps else quHash k 0 ps % 2 ^ t

/-- The positions of lane i. -/
def quLane (d : BitVec 2048) (n : Nat) (coords : List Row) (i : Nat) : List (Nat × Nat) :=
  (coords.take (quD d)).map fun r => quPos n (lane r i)
/-- The corners of a lane, ascending: weight and entry index. -/
def quCorners (d : BitVec 2048) (n : Nat) (coords : List Row) (i : Nat) : List (Nat × Nat) :=
  let ps := quLane d n coords i
  (List.range (2 ^ quD d)).map fun k => (quWeight k 0 one32 ps, quIdx (quT d) n k ps)

/-- The byte of a table entry within TEXT, and of a gradient entry within GEXT (R333). -/
def quEntry (d : BitVec 2048) (l idx : Nat) : Nat := lnrF d 0x10 8 * 128 + (l * 2 ^ quT d + idx) * quEb d
def quGrad (d : BitVec 2048) (l idx : Nat) : Nat := lnrF d 0x18 8 * 128 + (l * 2 ^ quT d + idx) * quGb d

/-- A feature of an entry's row, widened to FP32. -/
def quFeature (d : BitVec 2048) (row : Row) (byte f : Nat) : Nat :=
  if quBf d then row.toNat / 2 ^ (8 * (byte % 128 + 2 * f)) % 2 ^ 16 * 2 ^ 16 else row.toNat / 2 ^ (8 * (byte % 128 + 4 * f)) % 2 ^ 32

/-- The active lanes, ascending. -/
def lanesOn (lanes : Nat) : List Nat := (List.range 32).filter fun i => laneOn lanes i
/-- The row offsets within TEXT that a QLD reads, in order of lane and corner, each once. -/
def quRows (d : BitVec 2048) (l n : Nat) (coords : List Row) (lanes : Nat) : List Nat :=
  ((lanesOn lanes).map fun i => (quCorners d n coords i).map fun c => quEntry d l c.2 / 128).flatten.eraseDups

/-- Feature f of a lane: the corners' entries weighted and summed, k ascending (R335). `row` answers a row offset's data. -/
def quSum (d : BitVec 2048) (l f : Nat) (row : Nat → Row) : Nat → List (Nat × Nat) → Nat
  | acc, [] => acc
  | acc, c :: cs =>
    let b := quEntry d l c.2
    quSum d l f row (fma32 c.1 (quFeature d (row (b / 128)) b f) acc) cs
/-- The landed row of feature f. -/
def quGather (d : BitVec 2048) (l n f : Nat) (coords : List Row) (lanes : Nat) (row : Nat → Row) : Row :=
  BitVec.ofNat 1024 (build 32 (laneOn lanes) (fun i => (quSum d l f row 0 (quCorners d n coords i), 0)) 32).data

/-! The two instructions. -/

/-- The descriptor's row address a (R326, R333): the first of its two rows is sp_row(a). -/
def State.quDesc (s : State) (a : MArgs) : BitVec 2048 := s.pairAt ((s.rowAddr a).toNat % Config.spRows)
/-- The register check that needs the descriptor, and the descriptor check (R334). -/
def State.quTrap (s : State) (i : Instr) (a : MArgs) : Option (Nat × Nat) :=
  let d := s.quDesc a
  if quOk d a.ext.toNat = false then some (0x13, (s.rowAddr a).toNat)
  else if 2047 < a.v.toNat + 7 + quF d then some (0x01, slotTval i)
  else none
/-- The captured coordinate registers. -/
def State.quCoords (s : State) (a : MArgs) (d : BitVec 2048) : List Row := (List.range (quD d)).map fun k => s.rdV (a.v.toNat + k)

/-- What QLD finds at issue. -/
def State.qldCheck (s : State) (a : MArgs) : GsChk :=
  match s.quTrap (.qld a) a with
  | some t => .trap t.1 t.2
  | none =>
    let d := s.quDesc a
    s.gsCheck false (quText d) (quRows d a.ext.toNat ((quNl d a.ext.toNat).getD 1) (s.quCoords a d) (s.lanes a.gd)) true |>.whole s false (quText d)
/-- QLD issued: one landing entry for each feature, and one place in the load queue (R335). -/
def State.qldGo (s : State) (a : MArgs) (places : List (W64 × Bool)) : State :=
  let addrs := places.map Prod.fst
  let d := s.quDesc a
  let n := s.newOp
  let lanes := s.lanes a.gd
  let es := (List.range (quF d)).map fun f : Nat =>
    LandEntry.mk .vec (s.phys (a.v.toNat + 8 + f)) (s.me.schc + latBound a.lat.toNat) s.me.schc 6 f 0 (laneMask lanes) 0 none
      (decide (lanes = 0)) none n.2 none 0
  let s' := (n.1.modMe fun c => { c with land := c.land ++ es }).pairUsed
  if lanes = 0 then s'
  else s'.enqueue (s.srcOf (.qld a) a) [⟨true, false, addrs.headD 0, n.2, 0, .qld a d (s.quCoords a d) lanes (addrs.map fun x => (x, none)), .waiting, 0, 0, false⟩]

/-- What QSCAT finds at issue: every gradient row within GEXT. -/
def State.qscatCheck (s : State) (a : MArgs) : GsChk :=
  match s.quTrap (.qscat a) a with
  | some t => .trap t.1 t.2
  | none =>
    let d := s.quDesc a
    let n := (quNl d a.ext.toNat).getD 1
    let coords := s.quCoords a d
    s.gsCheck true (quGext d) (((lanesOn (s.lanes a.gd)).map fun i =>
      (quCorners d n coords i).map fun c => quGrad d a.ext.toNat c.2 / 128).flatten) true |>.whole s true (quGext d)
/-- The operations of a scatter: for each lane and corner ascending, the gradient entry's byte and w × g[f] for every f, with
the lane and corner's place (R336). -/
def quAdds (d : BitVec 2048) (l n : Nat) (coords : List Row) (lanes : Nat) (g : Nat → Row) : List (Nat × List W32) :=
  ((lanesOn lanes).map fun i => (quCorners d n coords i).map fun c =>
    (quGrad d l c.2, (List.range (quF d)).map fun f => BitVec.ofNat 32 (mul32 c.1 (lane (g f) i)))).flatten
/-- The queue entries of a scatter, in issue order. -/
def addAccs (op : Nat) : Nat → List (Nat × List W32) → List W64 → List QAcc
  | k, (b, vs) :: rest, x :: xs => ⟨false, true, x, op, k, .addf (b % 128) vs, .waiting, 0, 0, false⟩ :: addAccs op (k + 1) rest xs
  | _, _, _ => []
/-- QSCAT issued: an irreversible effect of the segment (R218, R336). -/
def State.qscatGo (s : State) (a : MArgs) (places : List (W64 × Bool)) : State :=
  let addrs := places.map Prod.fst
  let d := s.quDesc a
  let n := s.newOp
  let adds := quAdds d a.ext.toNat ((quNl d a.ext.toNat).getD 1) (s.quCoords a d) (s.lanes a.gd) fun f => s.rdV (a.v.toNat + 8 + f)
  ((n.1.modMe fun c => { c with irrev := true }).enqueue (s.srcOf (.qscat a) a) (addAccs n.2 0 adds addrs)).pairUsed

end Sys2Proof.Machine
end

