-- ==== Sys2Proof/Machine/Scalar.lean ====
section
/-! DEFINITION. The scalar half (R295 to R304). -/

namespace Sys2Proof.Machine

/-- A scalar result (R295): it enters the landing buffer when the pair's guard enables the half. -/
def State.scalarOut (s : State) (p : PSlot) (gd : Gd) (sd : BitVec 6) (lat : Nat) (v : W64) :
    Host.Outcome State Fault Refusal :=
  .next (if s.scalarOn gd.g gd.inv then s.landS (pbit p) 0 sd lat v else s)

/-- A compare's result: the c bit, and with C clear the lanes too; [11:8] the guard, [12] C (R300). -/
def State.cmpOut (s : State) (p : PSlot) (gd : Gd) (sd : BitVec 6) (r : Bool) : Host.Outcome State Fault Refusal :=
  let mask := if sd.toNat / 16 % 2 = 1 then 2 ^ 32 else 2 ^ 33 - 1
  .next (if s.scalarOn gd.g gd.inv then s.landG (pbit p) 0 (sd.toNat % 16) 1 (if r then mask else 0) mask 0 else s)

/-- Bits [127:64] of the signed 128-bit product. -/
def mulHigh (a b : W64) : W64 := BitVec.ofInt 64 (a.toInt * b.toInt / ((2 ^ 64 : Nat) : Int))
/-- Division truncating toward zero, with the special cases of R298. -/
def divS (a b : W64) : W64 := if b = 0 then BitVec.allOnes 64 else BitVec.ofInt 64 (a.toInt.tdiv b.toInt)
def remS (a b : W64) : W64 := if b = 0 then a else BitVec.ofInt 64 (a.toInt.tmod b.toInt)
def divU (a b : W64) : W64 := if b = 0 then BitVec.allOnes 64 else BitVec.ofNat 64 (a.toNat / b.toNat)
def remU (a b : W64) : W64 := if b = 0 then a else BitVec.ofNat 64 (a.toNat % b.toNat)
def clz64 (a : W64) : W64 := if a = 0 then 64 else BitVec.ofNat 64 (63 - Nat.log2 a.toNat)
/-- Set bits among the low n bits. -/
def popcount (x : Nat) : Nat → Nat
  | 0 => 0
  | n + 1 => popcount x n + x / 2 ^ n % 2
def popc64 (a : W64) : W64 := BitVec.ofNat 64 (popcount a.toNat 64)
/-- BFX: a field that crosses bit 63 yields only the bits up to 63 (R303). -/
def bfx64 (a : W64) (pos width : Nat) : W64 := BitVec.ofNat 64 (a.toNat / 2 ^ pos % 2 ^ width)
/-- BFI: bits that would land above bit 63 are dropped (R303). -/
def bfi64 (d a : W64) (pos width : Nat) : W64 :=
  BitVec.ofNat 64 (d.toNat % 2 ^ pos + 2 ^ pos * (a.toNat % 2 ^ width) + 2 ^ (pos + width) * (d.toNat / 2 ^ (pos + width)))

/-- The length of one piece; an extent with VALID clear gives 0 (R304). -/
def elenOne (c : Ctx) (e : Nat) : Nat := if (c.extent e).valid then (c.extent e).len else 0
/-- The lengths of a piece and those chained after it (R304). -/
def elenSum (c : Ctx) : Nat → Nat → Nat
  | 0, _ => 0
  | fuel + 1, e =>
    let x := c.extent e
    if x.valid then x.len + (if x.chain then elenSum c fuel x.next.toNat else 0) else 0

/-- SNOP: no effect (R297). -/
def execSnop (_p : PSlot) (_gd : Gd) (s : State) : Host.Outcome State Fault Refusal := .next s

/-- ADD: a + b (R297). -/
def execAdd (a : RArgs) (s : State) : Host.Outcome State Fault Refusal :=
  s.scalarOut a.p a.gd a.sd 1 (s.rdS a.sa + s.rdS a.sb)

/-- SUB: a − b (R297). -/
def execSub (a : RArgs) (s : State) : Host.Outcome State Fault Refusal :=
  s.scalarOut a.p a.gd a.sd 1 (s.rdS a.sa - s.rdS a.sb)

/-- MUL: bits [63:0] of the product (R297). -/
def execMul (a : RArgs) (s : State) : Host.Outcome State Fault Refusal :=
  s.scalarOut a.p a.gd a.sd 3 (s.rdS a.sa * s.rdS a.sb)

/-- MULH: bits [127:64] of the signed product (R297). -/
def execMulh (a : RArgs) (s : State) : Host.Outcome State Fault Refusal :=
  s.scalarOut a.p a.gd a.sd 3 (mulHigh (s.rdS a.sa) (s.rdS a.sb))

/-- MULHU: bits [127:64] of the unsigned product (R297). -/
def execMulhu (a : RArgs) (s : State) : Host.Outcome State Fault Refusal :=
  s.scalarOut a.p a.gd a.sd 3 (BitVec.ofNat 64 ((s.rdS a.sa).toNat * (s.rdS a.sb).toNat / 2 ^ 64))

/-- DIV (R298). -/
def execDiv (a : RArgs) (s : State) : Host.Outcome State Fault Refusal :=
  s.scalarOut a.p a.gd a.sd 12 (divS (s.rdS a.sa) (s.rdS a.sb))

/-- DIVU (R298). -/
def execDivu (a : RArgs) (s : State) : Host.Outcome State Fault Refusal :=
  s.scalarOut a.p a.gd a.sd 12 (divU (s.rdS a.sa) (s.rdS a.sb))

/-- REM (R298). -/
def execRem (a : RArgs) (s : State) : Host.Outcome State Fault Refusal :=
  s.scalarOut a.p a.gd a.sd 12 (remS (s.rdS a.sa) (s.rdS a.sb))

/-- REMU (R298). -/
def execRemu (a : RArgs) (s : State) : Host.Outcome State Fault Refusal :=
  s.scalarOut a.p a.gd a.sd 12 (remU (s.rdS a.sa) (s.rdS a.sb))

/-- AND (R297). -/
def execAnd (a : RArgs) (s : State) : Host.Outcome State Fault Refusal :=
  s.scalarOut a.p a.gd a.sd 1 (s.rdS a.sa &&& s.rdS a.sb)

/-- OR (R297). -/
def execOr (a : RArgs) (s : State) : Host.Outcome State Fault Refusal :=
  s.scalarOut a.p a.gd a.sd 1 (s.rdS a.sa ||| s.rdS a.sb)

/-- XOR (R297). -/
def execXor (a : RArgs) (s : State) : Host.Outcome State Fault Refusal :=
  s.scalarOut a.p a.gd a.sd 1 (s.rdS a.sa ^^^ s.rdS a.sb)

/-- SHL by b[5:0] (R299). -/
def execShl (a : RArgs) (s : State) : Host.Outcome State Fault Refusal :=
  s.scalarOut a.p a.gd a.sd 1 (s.rdS a.sa <<< ((s.rdS a.sb).toNat % 64))

/-- SHR by b[5:0] (R299). -/
def execShr (a : RArgs) (s : State) : Host.Outcome State Fault Refusal :=
  s.scalarOut a.p a.gd a.sd 1 (s.rdS a.sa >>> ((s.rdS a.sb).toNat % 64))

/-- SRA by b[5:0] (R299). -/
def execSra (a : RArgs) (s : State) : Host.Outcome State Fault Refusal :=
  s.scalarOut a.p a.gd a.sd 1 ((s.rdS a.sa).sshiftRight ((s.rdS a.sb).toNat % 64))

/-- MIN, signed (R297). -/
def execMin (a : RArgs) (s : State) : Host.Outcome State Fault Refusal :=
  s.scalarOut a.p a.gd a.sd 1 (if (s.rdS a.sb).slt (s.rdS a.sa) then s.rdS a.sb else s.rdS a.sa)

/-- MAX, signed (R297). -/
def execMax (a : RArgs) (s : State) : Host.Outcome State Fault Refusal :=
  s.scalarOut a.p a.gd a.sd 1 (if (s.rdS a.sa).slt (s.rdS a.sb) then s.rdS a.sb else s.rdS a.sa)

/-- MINU, unsigned (R297). -/
def execMinu (a : RArgs) (s : State) : Host.Outcome State Fault Refusal :=
  s.scalarOut a.p a.gd a.sd 1 (if s.rdS a.sb < s.rdS a.sa then s.rdS a.sb else s.rdS a.sa)

/-- MAXU, unsigned (R297). -/
def execMaxu (a : RArgs) (s : State) : Host.Outcome State Fault Refusal :=
  s.scalarOut a.p a.gd a.sd 1 (if s.rdS a.sa < s.rdS a.sb then s.rdS a.sb else s.rdS a.sa)

/-- CLZ: zero bits above the highest set bit (R297). -/
def execClz (a : RArgs) (s : State) : Host.Outcome State Fault Refusal :=
  s.scalarOut a.p a.gd a.sd 1 (clz64 (s.rdS a.sa))

/-- POPC: set bits (R297). -/
def execPopc (a : RArgs) (s : State) : Host.Outcome State Fault Refusal :=
  s.scalarOut a.p a.gd a.sd 1 (popc64 (s.rdS a.sa))

/-- ADDI (R297). -/
def execAddi (a : IArgs) (s : State) : Host.Outcome State Fault Refusal :=
  s.scalarOut a.p a.gd a.sd 1 (s.rdS a.sa + a.imm.signExtend 64)

/-- ANDI (R297). -/
def execAndi (a : IArgs) (s : State) : Host.Outcome State Fault Refusal :=
  s.scalarOut a.p a.gd a.sd 1 (s.rdS a.sa &&& a.imm.signExtend 64)

/-- ORI (R297). -/
def execOri (a : IArgs) (s : State) : Host.Outcome State Fault Refusal :=
  s.scalarOut a.p a.gd a.sd 1 (s.rdS a.sa ||| a.imm.signExtend 64)

/-- XORI (R297). -/
def execXori (a : IArgs) (s : State) : Host.Outcome State Fault Refusal :=
  s.scalarOut a.p a.gd a.sd 1 (s.rdS a.sa ^^^ a.imm.signExtend 64)

/-- SHLI by imm[5:0] (R297). -/
def execShli (a : IArgs) (s : State) : Host.Outcome State Fault Refusal :=
  s.scalarOut a.p a.gd a.sd 1 (s.rdS a.sa <<< (a.imm.toNat % 64))

/-- SHRI by imm[5:0] (R297). -/
def execShri (a : IArgs) (s : State) : Host.Outcome State Fault Refusal :=
  s.scalarOut a.p a.gd a.sd 1 (s.rdS a.sa >>> (a.imm.toNat % 64))

/-- SRAI by imm[5:0] (R297). -/
def execSrai (a : IArgs) (s : State) : Host.Outcome State Fault Refusal :=
  s.scalarOut a.p a.gd a.sd 1 ((s.rdS a.sa).sshiftRight (a.imm.toNat % 64))

/-- BFX: bits pos to min(pos + width, 64) − 1 of a, zero-extended (R303). -/
def execBfx (a : IArgs) (s : State) : Host.Outcome State Fault Refusal :=
  s.scalarOut a.p a.gd a.sd 1 (bfx64 (s.rdS a.sa) (a.imm.toNat % 64) (a.imm.toNat / 64 + 1))

/-- BFI: d at issue with the field replaced by the low bits of a (R303). -/
def execBfi (a : IArgs) (s : State) : Host.Outcome State Fault Refusal :=
  s.scalarOut a.p a.gd a.sd 1 (bfi64 (s.rdS a.sd) (s.rdS a.sa) (a.imm.toNat % 64) (a.imm.toNat / 64 + 1))

/-- IXR: the loop index named by imm[2:0] (R304). -/
def execIxr (a : IArgs) (s : State) : Host.Outcome State Fault Refusal :=
  s.scalarOut a.p a.gd a.sd 1 ((s.tgt.ix.getD (a.imm.toNat % 8) 0).zeroExtend 64)

/-- ELEN: rows of the extent and every piece chained after it (R304). -/
def execElen (a : IArgs) (s : State) : Host.Outcome State Fault Refusal :=
  s.scalarOut a.p a.gd a.sd 1 (BitVec.ofNat 64 (elenSum s.tgt 16 (a.imm.toNat % 16)))

/-- ELEN.PIECE: rows of the one piece (R304). -/
def execElenPiece (a : IArgs) (s : State) : Host.Outcome State Fault Refusal :=
  s.scalarOut a.p a.gd a.sd 1 (BitVec.ofNat 64 (elenOne s.tgt (a.imm.toNat % 16)))

/-- LI: sext(imm, 18) (R302). -/
def execLi (a : LArgs) (s : State) : Host.Outcome State Fault Refusal :=
  s.scalarOut a.p a.gd a.sd 1 (a.imm.signExtend 64)

/-- LUI: d at issue shifted up by 18 bits, with 18 new bits below (R302). -/
def execLui (a : LArgs) (s : State) : Host.Outcome State Fault Refusal :=
  s.scalarOut a.p a.gd a.sd 1 (s.rdS a.sd * 2 ^ 18 + a.imm.zeroExtend 64)

/-- SEL: always executes, the pair's guard is its condition (R301). -/
def execSel (a : RArgs) (s : State) : Host.Outcome State Fault Refusal :=
  .next (s.landS (pbit a.p) 0 a.sd 1 (if s.scalarOn a.gd.g a.gd.inv then s.rdS a.sa else s.rdS a.sb))

/-- CMPEQ (R300). -/
def execCmpeq (a : RArgs) (s : State) : Host.Outcome State Fault Refusal :=
  s.cmpOut a.p a.gd a.sd (s.rdS a.sa == s.rdS a.sb)

/-- CMPLT, signed (R300). -/
def execCmplt (a : RArgs) (s : State) : Host.Outcome State Fault Refusal :=
  s.cmpOut a.p a.gd a.sd ((s.rdS a.sa).slt (s.rdS a.sb))

/-- CMPLTU, unsigned (R300). -/
def execCmpltu (a : RArgs) (s : State) : Host.Outcome State Fault Refusal :=
  s.cmpOut a.p a.gd a.sd (decide (s.rdS a.sa < s.rdS a.sb))

/-- CMPEQI (R300). -/
def execCmpeqi (a : IArgs) (s : State) : Host.Outcome State Fault Refusal :=
  s.cmpOut a.p a.gd a.sd (s.rdS a.sa == a.imm.signExtend 64)

/-- CMPLTI, signed (R300). -/
def execCmplti (a : IArgs) (s : State) : Host.Outcome State Fault Refusal :=
  s.cmpOut a.p a.gd a.sd ((s.rdS a.sa).slt (a.imm.signExtend 64))

end Sys2Proof.Machine
end

