-- ==== Sys2Proof/Machine/Vector.lean ====
section
/-! DEFINITION. The vector half: arithmetic, comparison, conversion, function unit, integers and logic (R305 to R317). -/

namespace Sys2Proof.Machine

/-- The element of a logical register in a format. -/
def State.el (s : State) (a : VArgs) (r : BitVec 11) (i : Nat) : Nat := elem (fmtWidth a.fmt.toNat) (s.rdV r.toNat) i
/-- The elements of the destination whose lane is active. -/
def State.onEl (s : State) (a : VArgs) (i : Nat) : Bool := laneOn (s.lanes a.gd) (laneOf (fmtWidth a.fmt.toNat) i)
/-- The element-wise result of an operation that does not round under RM. -/
def State.elems (s : State) (a : VArgs) (f : Nat → Nat × Nat) : Built :=
  build (fmtWidth a.fmt.toNat) (s.onEl a) f (1024 / fmtWidth a.fmt.toNat)
/-- It lands in VD after `lat` ticks (R306). -/
def State.vecOut (s : State) (a : VArgs) (lat : Nat) (b : Built) : Host.Outcome State Fault Refusal :=
  .next (s.landV a.p a.vd.toNat lat b)
/-- The trap of an operation that rounds under SR without a usable stream (R201). -/
def State.srTrap (s : State) (i : Instr) : Option (Nat × Nat) := if s.isSr then s.drawTrap (slotTval i) else none
/-- The element-wise effect of an operation that rounds under RM: it draws once under SR, whatever the guard (R201, R308). -/
def State.rmEff (s : State) (a : VArgs) (lat : Nat) (f : RMode → Nat → Nat × Nat) : State :=
  let d := s.srDraw
  d.1.landV a.p a.vd.toNat lat (s.elems a fun i => f (modeOf s.rm d.2 (fmtWidth a.fmt.toNat) i) i)
def State.rmOut (s : State) (i : Instr) (a : VArgs) (lat : Nat) (f : RMode → Nat → Nat × Nat) :
    Host.Outcome State Fault Refusal := issue s (s.srTrap i) (s.rmEff a lat f)

/-- VADD: a + b (R309). -/
def execVadd (a : VArgs) (s : State) : Host.Outcome State Fault Refusal :=
  s.rmOut (.vadd a) a 4 fun m i => fpAdd (fpOf a.fmt.toNat) m (s.el a a.va i) (s.el a a.vb i)

/-- VSUB: a − b (R309). -/
def execVsub (a : VArgs) (s : State) : Host.Outcome State Fault Refusal :=
  s.rmOut (.vsub a) a 4 fun m i => fpSub (fpOf a.fmt.toNat) m (s.el a a.va i) (s.el a a.vb i)

/-- VMUL: a × b (R309). -/
def execVmul (a : VArgs) (s : State) : Host.Outcome State Fault Refusal :=
  s.rmOut (.vmul a) a 4 fun m i => fpMul (fpOf a.fmt.toNat) m (s.el a a.va i) (s.el a a.vb i)

/-- VFMA: a × b + c (R309). -/
def execVfma (a : VArgs) (s : State) : Host.Outcome State Fault Refusal :=
  s.rmOut (.vfma a) a 4 fun m i => fpFma (fpOf a.fmt.toNat) m false false (s.el a a.va i) (s.el a a.vb i) (s.el a a.vc i)

/-- VFMS: a × b − c (R309). -/
def execVfms (a : VArgs) (s : State) : Host.Outcome State Fault Refusal :=
  s.rmOut (.vfms a) a 4 fun m i => fpFma (fpOf a.fmt.toNat) m false true (s.el a a.va i) (s.el a a.vb i) (s.el a a.vc i)

/-- VFNMA: −(a × b) + c (R309). -/
def execVfnma (a : VArgs) (s : State) : Host.Outcome State Fault Refusal :=
  s.rmOut (.vfnma a) a 4 fun m i => fpFma (fpOf a.fmt.toNat) m true false (s.el a a.va i) (s.el a a.vb i) (s.el a a.vc i)

/-- VMIN (R310). -/
def execVmin (a : VArgs) (s : State) : Host.Outcome State Fault Refusal :=
  s.vecOut a 4 (s.elems a fun i => fpMinMax (fpOf a.fmt.toNat) false (s.el a a.va i) (s.el a a.vb i))

/-- VMAX (R310). -/
def execVmax (a : VArgs) (s : State) : Host.Outcome State Fault Refusal :=
  s.vecOut a 4 (s.elems a fun i => fpMinMax (fpOf a.fmt.toNat) true (s.el a a.va i) (s.el a a.vb i))

/-- VABS (R310). -/
def execVabs (a : VArgs) (s : State) : Host.Outcome State Fault Refusal :=
  s.vecOut a 2 (s.elems a fun i => (fpAbs (fpOf a.fmt.toNat) (s.el a a.va i), 0))

/-- VNEG (R310). -/
def execVneg (a : VArgs) (s : State) : Host.Outcome State Fault Refusal :=
  s.vecOut a 2 (s.elems a fun i => (fpNeg (fpOf a.fmt.toNat) (s.el a a.va i), 0))

/-- VRND; with MOD no NX (R311). -/
def execVrnd (a : VArgs) (s : State) : Host.Outcome State Fault Refusal :=
  s.rmOut (.vrnd a) a 4 fun m i => fpRnd (fpOf a.fmt.toNat) m a.mod (s.el a a.va i)

/-- VSCALB: a × 2^k, k the element of vb read as signed (R311). -/
def execVscalb (a : VArgs) (s : State) : Host.Outcome State Fault Refusal :=
  s.rmOut (.vscalb a) a 4 fun m i =>
    fpScalb (fpOf a.fmt.toNat) m (s.el a a.va i) (sextNat (s.el a a.vb i) (fmtWidth a.fmt.toNat))

/-- Lane results of a compare: bit l set where the condition holds. -/
def condBits (f : Nat → Bool) : Nat → Nat
  | 0 => 0
  | n + 1 => condBits f n + (if f n then 2 ^ n else 0)
/-- Flags of the active lanes. -/
def condFlags (on : Nat → Bool) (f : Nat → Nat) : Nat → Nat
  | 0 => 0
  | n + 1 => orN (condFlags on f n) (if on n then f n else 0)

/-- A compare's guard result: active lanes, and c as the OR, or with MOD the AND, over them (R312). -/
def State.vcmpOut (s : State) (a : VArgs) (lat : Nat) (f : Nat → Bool × Nat) : Host.Outcome State Fault Refusal :=
  let lanes := s.lanes a.gd
  let r := condBits (fun l => (f l).1) 32 &&& lanes
  let c := if a.mod then r == lanes else r != 0
  .next (s.landG (pbit a.p) 1 (a.vd.toNat % 16) lat (r + if c then 2 ^ 32 else 0) (lanes + 2 ^ 32)
    (condFlags (laneOn lanes) (fun l => (f l).2) 32))

/-- Integer compare conditions (R312): signed for I32, unsigned for N32. -/
def intCond (fmt cond a b : Nat) : Bool :=
  match cond with
  | 0 => a == b
  | 1 => decide (intOf fmt a < intOf fmt b)
  | 2 => decide (intOf fmt a ≤ intOf fmt b)
  | _ => a != b

/-- VCMP: FP32 lanes (R312). -/
def execVcmp (a : VArgs) (s : State) : Host.Outcome State Fault Refusal :=
  s.vcmpOut a 4 fun l => fpCmp (a.vc.toNat % 8) (lane (s.rdV a.va.toNat) l) (lane (s.rdV a.vb.toNat) l)

/-- VICMP: I32 or N32 lanes (R312). -/
def execVicmp (a : VArgs) (s : State) : Host.Outcome State Fault Refusal :=
  s.vcmpOut a 2 fun l => (intCond a.fmt.toNat (a.vc.toNat % 8) (lane (s.rdV a.va.toNat) l) (lane (s.rdV a.vb.toNat) l), 0)

/-- VSEL: every lane written, the guard as condition (R313). -/
def execVsel (a : VArgs) (s : State) : Host.Outcome State Fault Refusal :=
  s.vecOut a 2 (build 32 (fun _ => true) (fun l =>
    (if laneOn (s.lanes a.gd) l then lane (s.rdV a.va.toNat) l else lane (s.rdV a.vb.toNat) l, 0)) 32)

/-- VCVT's elements (R314): source code, part and element counts from the fields; narrowing writes only its part. -/
def State.cvtElems (s : State) (a : VArgs) (d : Row) : Built :=
  let dst := a.fmt.toNat
  let src := a.vc.toNat % 16
  let h := a.vc.toNat / 16 % 4
  let wd := fmtWidth dst
  let ws := fmtWidth src
  let n := 1024 / max ws wd
  let lanes := s.lanes a.gd
  if ws ≤ wd then
    build wd (fun i => laneOn lanes (laneOf wd i)) (fun i =>
      convert src dst (modeOf s.rm d wd i) a.mod (elem ws (s.rdV a.va.toNat) (i + n * h))) n
  else
    build wd (fun j => decide (n * h ≤ j) && laneOn lanes (laneOf wd j)) (fun j =>
      convert src dst (modeOf s.rm d wd j) a.mod (elem ws (s.rdV a.va.toNat) (j - n * h))) (n * h + n)

/-- VCVT (R314); it draws under SR whatever the formats (R201). -/
def execVcvt (a : VArgs) (s : State) : Host.Outcome State Fault Refusal :=
  issue s (s.srTrap (.vcvt a)) (let d := s.srDraw
    d.1.landV a.p a.vd.toNat 4 (s.cvtElems a d.2))

/-- VEXP2 (R204, R315). -/
def execVexp2 (a : VArgs) (s : State) : Host.Outcome State Fault Refusal :=
  s.vecOut a 8 (s.elems a fun i => fnUnit .exp2 (s.el a a.va i))

/-- VLOG2 (R204, R315). -/
def execVlog2 (a : VArgs) (s : State) : Host.Outcome State Fault Refusal :=
  s.vecOut a 8 (s.elems a fun i => fnUnit .log2 (s.el a a.va i))

/-- VRCP (R204, R315). -/
def execVrcp (a : VArgs) (s : State) : Host.Outcome State Fault Refusal :=
  s.vecOut a 8 (s.elems a fun i => fnUnit .rcp (s.el a a.va i))

/-- VRSQRT (R204, R315). -/
def execVrsqrt (a : VArgs) (s : State) : Host.Outcome State Fault Refusal :=
  s.vecOut a 8 (s.elems a fun i => fnUnit .rsqrt (s.el a a.va i))

/-- VSQRT (R204, R315). -/
def execVsqrt (a : VArgs) (s : State) : Host.Outcome State Fault Refusal :=
  s.vecOut a 8 (s.elems a fun i => fnUnit .sqrt (s.el a a.va i))

/-- VTANH (R204, R315). -/
def execVtanh (a : VArgs) (s : State) : Host.Outcome State Fault Refusal :=
  s.vecOut a 8 (s.elems a fun i => fnUnit .tanh (s.el a a.va i))

/-- VSIGM (R204, R315). -/
def execVsigm (a : VArgs) (s : State) : Host.Outcome State Fault Refusal :=
  s.vecOut a 8 (s.elems a fun i => fnUnit .sigm (s.el a a.va i))

/-- VEXP (R204, R315). -/
def execVexp (a : VArgs) (s : State) : Host.Outcome State Fault Refusal :=
  s.vecOut a 8 (s.elems a fun i => fnUnit .exp (s.el a a.va i))

/-- Integer elements: exact, then wrapped or saturated once (R316). -/
def State.intOut (s : State) (a : VArgs) (sat : Bool) (f : Int → Int → Int → Int) : Host.Outcome State Fault Refusal :=
  let k := a.fmt.toNat
  s.vecOut a 2 (s.elems a fun i =>
    let x := f (intOf k (s.el a a.va i)) (intOf k (s.el a a.vb i)) (intOf k (s.el a a.vc i))
    (if sat then satInt k x else wrapInt (fmtWidth k) x, 0))
/-- Whole 32-bit lanes (R316). -/
def State.logicOut (s : State) (a : VArgs) (f : Nat → Nat → Nat) : Host.Outcome State Fault Refusal :=
  s.vecOut a 2 (build 32 (laneOn (s.lanes a.gd)) (fun l => (f (lane (s.rdV a.va.toNat) l) (lane (s.rdV a.vb.toNat) l), 0)) 32)
/-- A shift's count: the immediate with MOD, else the low log2(w) bits of vb's element (R317). -/
def State.shiftCount (s : State) (a : VArgs) (i : Nat) : Nat :=
  if a.mod then a.vc.toNat else s.el a a.vb i % fmtWidth a.fmt.toNat

/-- VIADD, wrapped (R316). -/
def execViadd (a : VArgs) (s : State) : Host.Outcome State Fault Refusal :=
  s.intOut a false fun x y _ => x + y

/-- VISUB, wrapped or with MOD saturated (R316). -/
def execVisub (a : VArgs) (s : State) : Host.Outcome State Fault Refusal :=
  s.intOut a a.mod fun x y _ => x - y

/-- VIADDS, saturated (R316). -/
def execViadds (a : VArgs) (s : State) : Host.Outcome State Fault Refusal :=
  s.intOut a true fun x y _ => x + y

/-- VIMUL: low bits; with MOD bits [63:32] of the product (R316). -/
def execVimul (a : VArgs) (s : State) : Host.Outcome State Fault Refusal :=
  let k := a.fmt.toNat
  s.vecOut a 2 (s.elems a fun i =>
    let x := intOf k (s.el a a.va i) * intOf k (s.el a a.vb i)
    (if a.mod then wrapInt 32 (x / ((2 ^ 32 : Nat) : Int)) else wrapInt 32 x, 0))

/-- VIMAD: a × b + c, wrapped or with MOD saturated (R316). -/
def execVimad (a : VArgs) (s : State) : Host.Outcome State Fault Refusal :=
  s.intOut a a.mod fun x y z => x * y + z

/-- VAND (R316). -/
def execVand (a : VArgs) (s : State) : Host.Outcome State Fault Refusal :=
  s.logicOut a fun x y => x &&& y

/-- VOR (R316). -/
def execVor (a : VArgs) (s : State) : Host.Outcome State Fault Refusal :=
  s.logicOut a fun x y => x ||| y

/-- VXOR (R316). -/
def execVxor (a : VArgs) (s : State) : Host.Outcome State Fault Refusal :=
  s.logicOut a fun x y => x ^^^ y

/-- VSHL (R317). -/
def execVshl (a : VArgs) (s : State) : Host.Outcome State Fault Refusal :=
  s.vecOut a 2 (s.elems a fun i => (s.el a a.va i * 2 ^ s.shiftCount a i, 0))

/-- VSHR (R317). -/
def execVshr (a : VArgs) (s : State) : Host.Outcome State Fault Refusal :=
  s.vecOut a 2 (s.elems a fun i => (s.el a a.va i / 2 ^ s.shiftCount a i, 0))

/-- VSRA: copies of the element's top bit, in every format (R317). -/
def execVsra (a : VArgs) (s : State) : Host.Outcome State Fault Refusal :=
  let w := fmtWidth a.fmt.toNat
  s.vecOut a 2 (s.elems a fun i => (wrapInt w (sextNat (s.el a a.va i) w / ((2 ^ s.shiftCount a i : Nat) : Int)), 0))

/-- VIMIN (R316). -/
def execVimin (a : VArgs) (s : State) : Host.Outcome State Fault Refusal :=
  s.intOut a false fun x y _ => min x y

/-- VIMAX (R316). -/
def execVimax (a : VArgs) (s : State) : Host.Outcome State Fault Refusal :=
  s.intOut a false fun x y _ => max x y

end Sys2Proof.Machine
end

