-- ==== Sys2Proof/Machine/VecMove.lean ====
section
/-! DEFINITION. The vector half: data movement, lane reductions, guard operations and random draws (R318 to R325). -/

namespace Sys2Proof.Machine

/-- Active lanes of a 32-bit lane result. -/
def State.laneOut (s : State) (a : VArgs) (lat : Nat) (f : Nat → Nat) : Host.Outcome State Fault Refusal :=
  s.vecOut a lat (build 32 (laneOn (s.lanes a.gd)) (fun l => (f l, 0)) 32)

/-- VMOV (R318). -/
def execVmov (a : VArgs) (s : State) : Host.Outcome State Fault Refusal :=
  s.laneOut a 2 fun l => lane (s.rdV a.va.toNat) l

/-- VBCAST: lane j of va (R318). -/
def execVbcast (a : VArgs) (s : State) : Host.Outcome State Fault Refusal :=
  s.laneOut a 2 fun _ => lane (s.rdV a.va.toNat) (a.vc.toNat % 32)

/-- VBCAST.I: sext(imm, 11) (R318). -/
def execVbcastI (a : VArgs) (s : State) : Host.Outcome State Fault Refusal :=
  s.laneOut a 2 fun _ => wrapInt 32 a.vc.toInt

/-- VEXT: lanes of va then vb, from lane n (R318). -/
def execVext (a : VArgs) (s : State) : Host.Outcome State Fault Refusal :=
  let n := a.vc.toNat % 32
  s.laneOut a 2 fun l => if l + n < 32 then lane (s.rdV a.va.toNat) (l + n) else lane (s.rdV a.vb.toNat) (l + n - 32)

/-- VINS: lane k only (R318). -/
def execVins (a : VArgs) (s : State) : Host.Outcome State Fault Refusal :=
  s.vecOut a 2 (build 32 (fun l => decide (l = a.vc.toNat / 32 % 32) && laneOn (s.lanes a.gd) l)
    (fun _ => (lane (s.rdV a.va.toNat) (a.vc.toNat % 32), 0)) 32)

/-- VPERM: va[vb[l][4:0]] (R318). -/
def execVperm (a : VArgs) (s : State) : Host.Outcome State Fault Refusal :=
  s.laneOut a 3 fun l => lane (s.rdV a.va.toNat) (lane (s.rdV a.vb.toNat) l % 32)

/-- VPERM.X: of va then vc, by vb[l][5:0] (R318). -/
def execVpermX (a : VArgs) (s : State) : Host.Outcome State Fault Refusal :=
  s.laneOut a 3 fun l => let t := lane (s.rdV a.vb.toNat) l % 64
    if t < 32 then lane (s.rdV a.va.toNat) t else lane (s.rdV a.vc.toNat) (t - 32)

/-- VROT: va[(l + n) mod 32] (R318). -/
def execVrot (a : VArgs) (s : State) : Host.Outcome State Fault Refusal :=
  s.laneOut a 3 fun l => lane (s.rdV a.va.toNat) ((l + a.vc.toNat % 32) % 32)

/-- VROT.V: n from lane 0 of vb (R318). -/
def execVrotV (a : VArgs) (s : State) : Host.Outcome State Fault Refusal :=
  s.laneOut a 3 fun l => lane (s.rdV a.va.toNat) ((l + lane (s.rdV a.vb.toNat) 0 % 32) % 32)

/-- 128 bytes of the string va, vb from byte o (R320), as a number. -/
def State.rowMerge (s : State) (a : VArgs) (o : Nat) : Nat :=
  ((s.rdV a.va.toNat).toNat + 2 ^ 1024 * (s.rdV a.vb.toNat).toNat) / 2 ^ (8 * o)

/-- VRMRG: o = imm[6:0] (R320). -/
def execVrmrg (a : VArgs) (s : State) : Host.Outcome State Fault Refusal :=
  s.laneOut a 3 fun l => s.rowMerge a (a.vc.toNat % 128) / 2 ^ (32 * l)

/-- VRMRG.V: o = vc[0][6:0] (R320). -/
def execVrmrgV (a : VArgs) (s : State) : Host.Outcome State Fault Refusal :=
  s.laneOut a 3 fun l => s.rowMerge a (lane (s.rdV a.vc.toNat) 0 % 128) / 2 ^ (32 * l)

/-- The active lanes of a mask, ascending. -/
def lanesFrom (lanes : Nat) : Nat → List Nat
  | 0 => []
  | n + 1 => lanesFrom lanes n ++ (if laneOn lanes n then [n] else [])

/-- VPACK: the active lanes compacted into the low lanes (R321). -/
def execVpack (a : VArgs) (s : State) : Host.Outcome State Fault Refusal :=
  let ls := lanesFrom (s.lanes a.gd) 32
  s.vecOut a 3 (build 32 (fun l => decide (l < ls.length)) (fun l => (lane (s.rdV a.va.toNat) (ls.getD l 0), 0)) 32)

/-- VUNPK: the low lanes expanded into the active lanes (R321). -/
def execVunpk (a : VArgs) (s : State) : Host.Outcome State Fault Refusal :=
  s.laneOut a 3 fun l => lane (s.rdV a.va.toNat) (popcount (s.lanes a.gd) l)

/-- VZIP, with MOD the high half (R318). -/
def execVzip (a : VArgs) (s : State) : Host.Outcome State Fault Refusal :=
  let h := if a.mod then 16 else 0
  s.laneOut a 3 fun l => if l % 2 = 0 then lane (s.rdV a.va.toNat) (l / 2 + h) else lane (s.rdV a.vb.toNat) (l / 2 + h)

/-- VUNZIP, with MOD the odd lanes (R318). -/
def execVunzip (a : VArgs) (s : State) : Host.Outcome State Fault Refusal :=
  let h := if a.mod then 1 else 0
  s.laneOut a 3 fun l => if l < 16 then lane (s.rdV a.va.toNat) (2 * l + h) else lane (s.rdV a.vb.toNat) (2 * (l - 16) + h)

/-- VLANE: sext(imm, 11) + l (R318). -/
def execVlane (a : VArgs) (s : State) : Host.Outcome State Fault Refusal :=
  s.laneOut a 3 fun l => wrapInt 32 (a.vc.toInt + (l : Int))

/-- VLANE.MUL: sext(imm, 11) × l (R318). -/
def execVlaneMul (a : VArgs) (s : State) : Host.Outcome State Fault Refusal :=
  s.laneOut a 3 fun l => wrapInt 32 (a.vc.toInt * (l : Int))

/-- VXS: one lane, or two with MOD, into a scalar register; only when lane j is active (R319). -/
def execVxs (a : VArgs) (s : State) : Host.Outcome State Fault Refusal :=
  let j := a.vc.toNat % 32
  let v := lane (s.rdV a.va.toNat) j + (if a.mod then lane (s.rdV a.va.toNat) (j + 1) * 2 ^ 32 else 0)
  .next (if laneOn (s.lanes a.gd) j then s.landS (pbit a.p) 1 (BitVec.ofNat 6 a.vd.toNat) 2 (BitVec.ofNat 64 v) else s)

/-- One level of the tree: neighbours combined, the left operand the lower lane; an absent one passes the other (R322). -/
def treeLevel (f : Nat → Nat → Nat × Nat) : List (Option Nat) → List (Option Nat) × Nat
  | x :: y :: rest =>
    let r := treeLevel f rest
    match x, y with
    | some a, some b => (some (f a b).1 :: r.1, orN (f a b).2 r.2)
    | some a, none => (some a :: r.1, r.2)
    | none, o => (o :: r.1, r.2)
  | l => (l, 0)
/-- The tree of R322 over 2^n values. -/
def treeFold (f : Nat → Nat → Nat × Nat) : Nat → List (Option Nat) → Nat → Option Nat × Nat
  | 0, l, fl => (l.headD none, fl)
  | n + 1, l, fl => let r := treeLevel f l; treeFold f n r.1 (orN fl r.2)

/-- The lanes of va that are active, `g` applied to each. -/
def State.treeIn (s : State) (a : VArgs) (g : Nat → Nat) : List (Option Nat) :=
  (List.range 32).map fun l => if laneOn (s.lanes a.gd) l then some (g (lane (s.rdV a.va.toNat) l)) else none

/-- A lane reduction: the result in every lane, the empty value with no active lane (R322); `one` is what a single active
lane passes through. -/
def State.reduceOut (s : State) (a : VArgs) (g : Nat → Nat) (f : Nat → Nat → Nat × Nat) (empty : Nat) (one : Nat → Nat × Nat) :
    Host.Outcome State Fault Refusal :=
  let xs := s.treeIn a g
  let r := treeFold f 5 xs 0
  let v := match r.1 with
    | none => (empty, 0)
    | some x => if popcount (s.lanes a.gd) 32 = 1 then one x else (x, r.2)
  s.vecOut a 6 (build 32 (fun _ => true) (fun _ => (v.1, v.2)) 32)

/-- R191 on a single value: a NaN canonical, NV for a signalling one. -/
def canon32 (x : Nat) : Nat × Nat :=
  match decodeFp fp32 x with
  | .nan sg => (fp32.nanBits, if sg then 1 else 0)
  | _ => (x, 0)
/-- The larger or smaller of two lanes in FP32, I32 or N32 (R322). -/
def pickLane (fmt : Nat) (isMax : Bool) (x y : Nat) : Nat × Nat :=
  if fmt = 0 then fpMinMax fp32 isMax x y
  else (if decide (intOf fmt x < intOf fmt y) == isMax then y else x, 0)
def passLane (fmt x : Nat) : Nat × Nat := if fmt = 0 then canon32 x else (x, 0)

/-- VRSUM: binary32 adds to nearest even (R322). -/
def execVrsum (a : VArgs) (s : State) : Host.Outcome State Fault Refusal :=
  s.reduceOut a id (fun x y => fpAdd fp32 .rne x y) 0 canon32

/-- VRMAX (R322). -/
def execVrmax (a : VArgs) (s : State) : Host.Outcome State Fault Refusal :=
  let k := a.fmt.toNat
  s.reduceOut a id (pickLane k true) (if k = 0 then 0xFF800000 else if k = 8 then 2 ^ 31 else 0) (passLane k)

/-- VRMIN (R322). -/
def execVrmin (a : VArgs) (s : State) : Host.Outcome State Fault Refusal :=
  let k := a.fmt.toNat
  s.reduceOut a id (pickLane k false) (if k = 0 then 0x7F800000 else if k = 8 then 2 ^ 31 - 1 else 2 ^ 32 - 1) (passLane k)

/-- VRAMAX: the magnitude applied to every lane first (R322). -/
def execVramax (a : VArgs) (s : State) : Host.Outcome State Fault Refusal :=
  s.reduceOut a (fun x => x % 2 ^ 31) (fun x y => fpMinMax fp32 true x y) 0 canon32

/-- VRISUM: the exact sum of the active lanes, wrapped or with MOD saturated once (R194, R322). -/
def execVrisum (a : VArgs) (s : State) : Host.Outcome State Fault Refusal :=
  let k := a.fmt.toNat
  let x := ((s.treeIn a id).filterMap id).foldl (fun acc v => acc + intOf k v) 0
  s.vecOut a 6 (build 32 (fun _ => true) (fun _ => (if a.mod then satInt k x else wrapInt 32 x, 0)) 32)

/-- A guard result: lane bits under the guard's lanes, c under its c bit (R323). -/
def State.guardOut (s : State) (a : VArgs) (v : Nat) : Host.Outcome State Fault Refusal :=
  .next (s.landG (pbit a.p) 1 (a.vd.toNat % 16) 2 v (s.lanes a.gd + if s.scalarOn a.gd.g a.gd.inv then 2 ^ 32 else 0) 0)
/-- Guard register named by the low bits of a field. -/
def State.guardOf (s : State) (r : BitVec 11) : Nat := (s.rdG (BitVec.ofNat 4 r.toNat)).toNat

/-- GAND (R323). -/
def execGand (a : VArgs) (s : State) : Host.Outcome State Fault Refusal :=
  s.guardOut a (s.guardOf a.va &&& s.guardOf a.vb)

/-- GOR (R323). -/
def execGor (a : VArgs) (s : State) : Host.Outcome State Fault Refusal :=
  s.guardOut a (s.guardOf a.va ||| s.guardOf a.vb)

/-- GXOR (R323). -/
def execGxor (a : VArgs) (s : State) : Host.Outcome State Fault Refusal :=
  s.guardOut a (s.guardOf a.va ^^^ s.guardOf a.vb)

/-- GANDN: ga AND NOT gb (R323). -/
def execGandn (a : VArgs) (s : State) : Host.Outcome State Fault Refusal :=
  s.guardOut a (s.guardOf a.va &&& (2 ^ 33 - 1 - s.guardOf a.vb))

/-- GCNT: set lane bits of ga; with MOD those below the lane (R324). -/
def execGcnt (a : VArgs) (s : State) : Host.Outcome State Fault Refusal :=
  s.laneOut a 2 fun l => popcount (s.guardOf a.va) (if a.mod then l else 32)

/-- GSET: lane bit where va is nonzero; c their OR over active lanes (R324). -/
def execGset (a : VArgs) (s : State) : Host.Outcome State Fault Refusal :=
  let r := condBits (fun l => lane (s.rdV a.va.toNat) l != 0) 32
  s.guardOut a (r + if (r &&& s.lanes a.gd) != 0 then 2 ^ 32 else 0)

/-- GSET.N: lanes below n; c set for n above 0 (R324). -/
def execGsetN (a : VArgs) (s : State) : Host.Outcome State Fault Refusal :=
  s.guardOut a (2 ^ a.vc.toNat - 1 + if a.vc.toNat = 0 then 0 else 2 ^ 32)

/-- VRNG: word l of one draw (R325). -/
def execVrng (a : VArgs) (s : State) : Host.Outcome State Fault Refusal :=
  issue s (s.drawTrap (slotTval (.vrng a))) (let d := s.draw
    d.1.landV a.p a.vd.toNat 10 (build 32 (laneOn (s.lanes a.gd)) (fun l => (lane d.2 l, 0)) 32))

/-- VRNGF: word[31:8] × 2^−24, exact (R207, R325). -/
def execVrngf (a : VArgs) (s : State) : Host.Outcome State Fault Refusal :=
  issue s (s.drawTrap (slotTval (.vrngf a))) (let d := s.draw
    d.1.landV a.p a.vd.toNat 10 (build 32 (laneOn (s.lanes a.gd)) (fun l =>
      (encodeFp fp32 .rne (.fin false (lane d.2 l / 2 ^ 8) (-24))).1 |> fun x => (x, 0)) 32))

/-- VNOP: no effect, whatever its guard (R243, R307). -/
def execVnop (_p : PSlot) (_gd : Gd) (s : State) : Host.Outcome State Fault Refusal := .next s

end Sys2Proof.Machine
end

