-- ==== Sys2Proof/Machine/Tile.lean ====
section
/-! DEFINITION. Tiles: operand layouts, the product of R202, and the result of each matrix command from its inputs
(R198, R202, R342, R345, R346, R349 to R352, R354). -/

namespace Sys2Proof.Machine

/-! Operand tiles (R198, R342). A tile is a number: its rows, byte 0 lowest. -/

/-- K per command of a format. -/
def mxK (fmt : Nat) : Nat := if fmt = 1 then 32 else if fmt = 6 then 128 else if fmt = 7 then 256 else 64
/-- Scratchpad rows of a dense operand tile. -/
def mxRows (fmt : Nat) : Nat := if fmt = 5 then 18 else if fmt = 6 then 24 else if fmt = 7 then 32 else 16
/-- Rows joined, the first lowest. -/
def joinRows : List Row → Nat
  | [] => 0
  | r :: rs => r.toNat + 2 ^ 1024 * joinRows rs
/-- Element k of tile row t of an operand with `depth` elements a row, decoded exactly. -/
def mxElem (fmt depth tile t k : Nat) : FVal :=
  if 5 ≤ fmt then
    let n := 8 * pleatBytes (pleatM fmt)
    pleatVal (pleatM fmt) (tile / 2 ^ (n * (t * (depth / 16) + k / 16)) % 2 ^ n) (k % 16)
  else
    let w := fmtWidth fmt
    decodeFp (fpOf fmt) (tile / 2 ^ (w * (t * depth + k)) % 2 ^ w)
/-- A value as FP32 bits. -/
def fp32Of (v : FVal) : Nat := (encodeFp fp32 .rne v).1
/-- A row of 32 words. -/
def rowOf (f : Nat → Nat) : Row := BitVec.ofNat 1024 (packRegs 32 f 32)
/-- Element [i][j] of a tile of FP32 rows. -/
def tl (t : List Row) (i j : Nat) : Nat := lane (t.getD i 0) j
/-- A tile from its elements. -/
def tileOf (f : Nat → Nat → Nat) : List Row := (List.range 32).map fun i => rowOf (f i)
/-- A NaN made canonical. -/
def canonNan (x : Nat) : Nat := (canon32 x).1

/-! The chunk sum (R202). -/

/-- floor(log2) of a nonzero product. -/
def prodLog (m : Nat) (e : Int) : Int := e + (Nat.log2 m : Int)
def prodExp : FVal → Option Int
  | .fin _ m e => if m = 0 then none else some (prodLog m e)
  | _ => none
def maxI : List Int → Option Int
  | [] => none
  | x :: xs => match maxI xs with | none => some x | some y => some (max x y)
/-- A product truncated toward zero to a window whose least bit is 2^lo. -/
def truncAt (lo : Int) : FVal → Int
  | .fin neg m e =>
    let x : Nat := if lo ≤ e then m * 2 ^ (e - lo).toNat else m / 2 ^ (lo - e).toNat
    if neg then -(x : Int) else x
  | _ => 0
def minExp : List FVal → Int
  | [] => 0
  | .fin _ _ e :: xs => min e (minExp xs)
  | _ :: xs => minExp xs
/-- One chunk of exact products: its binary32 value and whether the chunk register saturated. -/
def chunkSum (ps : List FVal) : Nat × Bool :=
  if ps.any FVal.isNan then (fp32.nanBits, false)
  else
    let inf := ps.filter FVal.isInf
    if !inf.isEmpty then
      (if inf.any FVal.neg && inf.any (fun v => !v.neg) then fp32.nanBits else if inf.any FVal.neg then 0xFF800000 else 0x7F800000, false)
    else
      match maxI (ps.filterMap prodExp) with
      | none => (0, false)
      | some emax =>
        let S := ps.foldl (fun a p => a + truncAt (emax - 31) p) 0
        let lo := minExp ps
        let sat := decide (2 ^ 39 ≤ S.natAbs)
        let neg := if sat then decide (ps.foldl (fun a p => a + truncAt lo p) 0 < 0) else decide (S < 0)
        let mag := if sat then 2 ^ 39 - 1 else S.natAbs
        (if mag = 0 then 0 else fp32Of (.fin neg mag (emax - 31)), sat)

/-- Chunks of n positions accumulated in ascending k: `left` positions from k on; a pruned position forms no product. -/
def chunks (n : Nat) (p : Nat → Option FVal) : Nat → Nat → Nat → Nat × Bool → Nat × Bool
  | 0, _, _, acc => acc
  | fuel + 1, k, left, acc =>
    if left = 0 then acc
    else
      let m := min n left
      let c := chunkSum ((List.range m).filterMap fun i => p (k + i))
      chunks n p fuel (k + m) (left - m) (add32 acc.1 c.1, acc.2 || c.2)
/-- The chunk interval of a PI code. -/
def piOf (c : Nat) : Nat := 32 * 2 ^ c
/-- The element of R202 over `depth` positions: K is the command's (R198). -/
def dotOf (pi K depth : Nat) (p : Nat → Option FVal) (acc : Nat) : Nat × Bool :=
  let n := min pi K
  let r := chunks n p (depth / n + 1) 0 depth (acc, false)
  (canonNan r.1, r.2)

/-! Sparse operands (R346). -/

/-- Position of the n-th set bit (n is 0 or 1) of a nibble, if it has one. -/
def nthBit (nib n : Nat) : Option Nat := ((List.range 4).filter fun b => nib / 2 ^ b % 2 == 1)[n]?
/-- The stored element that stands at expanded position p of row i, if any. -/
def sparseAt (K M i p : Nat) : Option Nat :=
  let g := p / 4
  let nib := M / 2 ^ (8 * (i * (K / 4) + g / 2) + 4 * (g % 2)) % 16
  if nthBit nib 0 = some (p % 4) then some (2 * g) else if nthBit nib 1 = some (p % 4) then some (2 * g + 1) else none

/-! Results. -/

/-- What a matrix command writes: rows of its tile, scratchpad rows, vector registers, and whether the chunk register
saturated. -/
structure MxOut where
  tile : List (Nat × Row)
  sp : List (Nat × Row)
  regs : List (Nat × Row)
  sat : Bool
  deriving DecidableEq, Repr

def noOut : MxOut := ⟨[], [], [], false⟩
/-- All 32 rows of a tile. -/
def wholeTile (t : List Row) : MxOut := ⟨(List.range 32).map fun i => (i, t.getD i 0), [], [], false⟩

/-- The tree of R322 over the 32 values of f. -/
def tree32 (op : Nat → Nat → Nat) (f : Nat → Nat) : Nat :=
  ((treeFold (fun x y => (op x y, 0)) 5 ((List.range 32).map fun l => some (f l)) 0).1).getD 0
def treeSum (f : Nat → Nat) : Nat := tree32 add32 f
def treeMax (f : Nat → Nat) : Nat := tree32 (fun x y => (fpMinMax fp32 true x y).1) f
/-- 2^−5. -/
def inv32 : Nat := 0x3D000000
/-- The square of a value, rounded. -/
def sq32 (x : Nat) : Nat := mul32 x x

/-- TACT's functions (R350). -/
def tactFn (fn x : Nat) : Nat :=
  match fn with
  | 0 =>
    match decodeFp fp32 x with
    | .nan _ => fp32.nanBits
    | v => if v.neg || v.isZero then 0 else x
  | 1 =>
    match decodeFp fp32 x with
    | .nan _ => fp32.nanBits
    | .inf neg => if neg then 0x80000000 else 0x7F800000
    | .fin neg m e => if m = 0 then x else fp32Of (siluV neg m e)
  | 2 => (fnUnit .tanh x).1
  | 3 => (fnUnit .sigm x).1
  | _ => (fnUnit .exp x).1

/-- A scale factor of TSCALE: x × 2^(e − 127), a NaN with e = 0xFF (R350). -/
def scaleBy (x e : Nat) : Nat := if e = 255 then fp32.nanBits else (fpScalb fp32 .rne x ((e : Int) - 127)).1

/-- The steps of TNORM on one row: d, g (R352). -/
def normD (fn : Nat) (r : Nat → Nat) (j : Nat) : Nat := if fn = 0 then r j else sub32 (r j) (mul32 (treeSum r) inv32)
def normG (fn eps : Nat) (r : Nat → Nat) : Nat :=
  (fnUnit .rsqrt (add32 (mul32 (treeSum fun j => sq32 (normD fn r j)) inv32) eps)).1

/-- The inputs of TMUL and TMULS: element products at position k of [i][j]. -/
def prodAt (op : Nat) (a : XArgs) (A B M i j k : Nat) : Option FVal :=
  let K := mxK a.fmta.toNat
  if op = 2 then
    (sparseAt K M i k).map fun p =>
      (mulV (mxElem a.fmta.toNat K A i p) (mxElem a.fmtb.toNat (2 * K) B j k)).1
  else some (mulV (mxElem a.fmta.toNat K A i k) (mxElem a.fmtb.toNat K B j k)).1

def mulProd (w : WinEnt) (A B M i j k : Nat) : Option FVal := prodAt w.c.op w.c.a A B M i j k

/-- Rows that TMUL and TMULS write (R345): the captured limit. -/
def rowLimit (c : MxCmd) : Nat :=
  if c.a.ga || c.a.gb then min (trF c.desc 0x22 1) 32
  else if c.op = 1 ∧ c.a.s ≠ 0 then min c.sval.toNat 32
  else 32

/-- TMUL and TMULS (R345, R346) (DEDUCED, log 90). -/
def outMul (w : WinEnt) : MxOut :=
  let a := w.c.a
  let K := mxK a.fmta.toNat
  let A := joinRows w.arows
  let B := joinRows w.brows
  let M := joinRows w.mrows
  let depth := if w.c.op = 2 then 2 * K else K
  let el (i j : Nat) := dotOf (piOf a.pi.toNat) K depth (mulProd w A B M i j) (if a.acc then tl w.accIn i j else 0)
  let r := rowLimit w.c
  ⟨(List.range r).map fun i => (i, rowOf fun j => (el i j).1), [], [],
    (List.range r).any fun i => (List.range 32).any fun j => (el i j).2⟩

/-- Element [i][j] of packed FP32 or BF16 rows, widened, a NaN to the canonical one (R191, R192, R349). -/
def packed32 (fmt tile i j : Nat) : Nat :=
  if fmt = 1 then canonNan (tile / 2 ^ (16 * (32 * i + j)) % 2 ^ 16 * 2 ^ 16) else tile / 2 ^ (32 * (32 * i + j)) % 2 ^ 32
/-- A loaded value, or with accumulate the sum (R349). -/
def accumTo (acc : Bool) (old x : Nat) : Nat := if acc then add32 old x else x

/-- TSTA: the tile converted and packed from a row on (R349). -/
def outSta (w : WinEnt) : MxOut :=
  let f := w.c.a.fmta.toNat
  let bits := fmtWidth f
  let el (n : Nat) : Nat :=
    let x := tl w.accIn (n / 32) (n % 32)
    let v := decodeFp fp32 x
    let r := encodeFp (fpOf f) .rne v
    if f = 0 then (if v.isNan then fp32.nanBits else x)
    else if w.c.a.fn.toNat % 2 = 1 then (saturate (fpOf f) v r).1 else r.1
  let per := 1024 / bits
  ⟨[], (List.range bits).map fun t =>
    ((w.c.a.arow.toNat + t) % Config.spRows, BitVec.ofNat 1024 (packRegs bits (fun n => el (t * per + n)) per)), [], false⟩

/-- TBIAS's row element n. -/
def biasAt (w : WinEnt) (n : Nat) : Nat :=
  let r := (w.arows.headD 0).toNat
  if w.c.a.fmta.toNat = 1 then fp32Of (mxElem 1 32 r 0 n) else r / 2 ^ (32 * n) % 2 ^ 32

/-- TRED's row (R351). -/
def outRed (w : WinEnt) : MxOut :=
  let x := tl w.accIn
  let el (q : Nat) : Nat :=
    match w.c.a.fn.toNat with
    | 0 => treeSum fun j => x q j
    | 1 => treeSum fun i => x i q
    | 2 => treeMax fun j => x q j
    | 3 => treeMax fun i => x i q
    | _ => treeSum fun j => sq32 (x q j)
  ⟨[], [(w.c.a.arow.toNat % Config.spRows, rowOf el)], [], false⟩

/-- Byte n of the captured scale register. -/
def scaleByte (w : WinEnt) (n : Nat) : Nat := w.c.kreg.toNat / 2 ^ (8 * n) % 256

/-- What a command writes, from its inputs alone: arows holds A, source rows, bias row, source registers or the source tile,
brows B, mrows the metadata and accIn the tile T (R345 to R352). A KAT's tile is compared and written nowhere (R214). -/
def mxOut (w : WinEnt) : MxOut :=
  let a := w.c.a
  let x := tl w.accIn
  let y := tl w.arows
  match w.c.op with
  | 1 | 2 => outMul w
  | 3 => wholeTile (tileOf fun _ _ => 0)
  | 4 =>
    let A := joinRows w.arows
    wholeTile (tileOf fun i j => accumTo a.acc (x i j) (packed32 a.fmta.toNat A i j))
  | 5 => outSta w
  | 6 => ⟨[], [], (List.range 32).map fun i => (w.c.regs.getD i 0, w.accIn.getD i 0), false⟩
  | 7 => wholeTile (tileOf fun i j => accumTo a.acc (x i j) (y i j))
  | 8 => wholeTile (tileOf fun i j => add32 (x i j) (y i j))
  | 9 => wholeTile (tileOf fun i j => scaleBy (x i j) (scaleByte w (if a.s.toNat / 32 % 2 = 1 then j else i)))
  | 10 => wholeTile (tileOf fun i j => add32 (x i j) (biasAt w (if a.fn.toNat % 2 = 1 then i else j)))
  | 11 => wholeTile (tileOf fun i j => tactFn a.fn.toNat (x i j))
  | 12 => outRed w
  | 13 => wholeTile (tileOf fun i j => y j i)
  | 14 => wholeTile (tileOf fun i j => mul32 (normD a.fn.toNat (x i) j) (normG a.fn.toNat (w.c.sval.toNat % 2 ^ 32) (x i)))
  | 15 => wholeTile (tileOf fun i j => y i j)
  | _ => noOut

/-! Known-answer tiles (R353, R354). -/

/-- One step of the generator. -/
def katNext (x : Nat) : Nat :=
  let x := (x ^^^ (x * 2 ^ 13)) % 2 ^ 32
  let x := x ^^^ (x / 2 ^ 17)
  (x ^^^ (x * 2 ^ 5)) % 2 ^ 32
/-- n draws of four bytes: what they give as one number, and the state after them. -/
def katDraw : Nat → Nat → Nat × Nat
  | 0, x => (0, x)
  | n + 1, x => let y := katNext x; let r := katDraw n y; (y + 2 ^ 32 * r.1, r.2)
/-- The formats of a pattern. -/
def katFmt (pattern : Nat) : Nat := if pattern = 0 then 1 else if pattern = 1 then 3 else if pattern = 2 then 6 else 7
/-- A drawn operand adjusted so that every element is finite. -/
def katAdjust (pattern bytes x : Nat) : Nat :=
  match pattern with
  | 0 => packRegs 16 (fun i => (x / 2 ^ (16 * i) % 2 ^ 16 &&& 0x80FF) ||| 0x3F00) (bytes / 2)
  | 1 => packRegs 8 (fun i => (x / 2 ^ (8 * i) % 2 ^ 8 &&& 0x87) ||| 0x30) bytes
  | _ =>
    let n := if pattern = 2 then 12 else 8
    packRegs 8 (fun i => if i % n = 0 then 0x7F else x / 2 ^ (8 * i) % 2 ^ 8) bytes
/-- Both operands of a KAT. -/
def katOps (pattern seed : Nat) : Nat × Nat :=
  let bytes := mxRows (katFmt pattern) * 128
  let a := katDraw (bytes / 4) (seed * 2 ^ 16 + (seed ^^^ 0xA5A5))
  let b := katDraw (bytes / 4) a.2
  (katAdjust pattern bytes a.1, katAdjust pattern bytes b.1)
/-- The rows of a number. -/
def rowsOf (x n : Nat) : List Row := (List.range n).map fun i => BitVec.ofNat 1024 (x / 2 ^ (1024 * i))

/-- One bit of the reflected CRC-32C. -/
def crcBit (c : Nat) : Nat := if c % 2 = 1 then (c / 2) ^^^ 0x82F63B78 else c / 2
def crcByte (c b : Nat) : Nat := crcBit (crcBit (crcBit (crcBit (crcBit (crcBit (crcBit (crcBit (c ^^^ b))))))))
/-- The register after n bytes of x, lowest first. -/
def crcFrom (c x : Nat) : Nat → Nat
  | 0 => c
  | n + 1 => crcFrom (crcByte c (x % 256)) (x / 256) n
/-- CRC-32C of n bytes (R354): initial value all-ones, final complement. -/
def crc32c (x n : Nat) : W32 := BitVec.ofNat 32 (crcFrom 0xFFFFFFFF x n ^^^ 0xFFFFFFFF)
/-- The CRC-32C of a result's rows: a whole tile of 4 KiB for tile results. -/
def outCrc (w : WinEnt) (o : MxOut) : W32 :=
  let rows := if !o.tile.isEmpty then (List.range 32).map fun i => (o.tile.find? (·.1 == i)).elim (w.accIn.getD i 0) (·.2)
    else o.sp.map (·.2) ++ o.regs.map (·.2)
  crc32c (joinRows rows) (128 * rows.length)

end Sys2Proof.Machine
end

