-- ==== Sys2Proof/Machine/Record.lean ====
section
/-! DEFINITION. Record mode: the basting log, the gradient map, entries and their copies (R370 to R377, R294). -/

namespace Sys2Proof.Machine

/-! Rows of the log (R370). -/

/-- The fabric address of an extent row, a revoked piece included. -/
def extAny (c : Ctx) : Nat → Nat → Nat → W64
  | 0, _, _ => 0
  | fuel + 1, e, o =>
    let x := c.extent e
    if x.len ≤ o ∧ x.chain then extAny c fuel x.next.toNat (o - x.len) else x.base + BitVec.ofNat 64 (o * 128)
def logSpace (c : Ctx) : Nat := fld c.csr.logb 62 2
def logBase (c : Ctx) : Nat := fld c.csr.logb 0 48
def logExt (c : Ctx) : Nat := fld c.csr.logb 58 4
def logHead (c : Ctx) : Nat := fld c.csr.logh 0 48
def logLast (c : Ctx) : Nat := fld c.csr.recst 16 48
/-- LAST of an empty log. -/
def noEntry : Nat := 2 ^ 48 - 1
/-- Where row o of context n's log lies. -/
def State.logAddr (s : State) (n o : Nat) : W64 :=
  let c := s.ctx n
  if logSpace c = 0 then s.here (psAddr (panelOfCore (n / 4)) (logBase c + o)) else extAny c 16 (logExt c) (logBase c + o)
/-- The newest row of the log still in a store queue at an address. -/
def queuedLog (a : W64) : List QAcc → Option Row
  | [] => none
  | q :: qs =>
    match queuedLog a qs with
    | some r => some r
    | none => match q.what with | .log d _ => if q.addr = a then some d else none | _ => none
/-- Row o of the log as its context wrote it. -/
def State.logRow (s : State) (n o : Nat) : Row :=
  let a := s.logAddr n o
  (queuedLog a (s.ctx n).q).getD (s.peek a)
/-- Whether recording is open in the issuing context: never in the hidden trap context (R377). -/
def State.recording (s : State) : Bool := !s.hidden && bit s.me.csr.recst 0

/-- Rows that the pieces of an extent hold for writing. -/
def extTotal (c : Ctx) : Nat → Nat → Nat
  | 0, _ => 0
  | fuel + 1, e =>
    let x := c.extent e
    if x.valid && x.access.getLsbD 1 then x.len + (if x.chain then extTotal c fuel x.next.toNat else 0) else 0
/-- Whether rows lo to hi − 1 of an extent meet a piece of some kind: a revoked one, or a refused one. -/
def extMeets (c : Ctx) (is : Extent → Bool) : Nat → Nat → Nat → Nat → Bool
  | 0, _, _, _ => false
  | fuel + 1, e, lo, hi =>
    let x := c.extent e
    (is x && decide (lo < x.len) && decide (0 < hi)) || (x.chain && extMeets c is fuel x.next.toNat (lo - x.len) (hi - x.len))
/-- What n rows of the log from row lo on find (R118, R140, R370): out of bounds with the first such row, refused or revoked. -/
def logRange (c : Ctx) (lo n : Nat) : GsChk :=
  if n = 0 then .ok []
  else if logSpace c = 0 then
    if lo + n ≤ Config.psRows then .ok [] else .trap 0x04 (max lo Config.psRows)
  else if extTotal c 16 (logExt c) < lo + n then .trap 0x04 (extTval (logExt c) (max lo (extTotal c 16 (logExt c))))
  else if extMeets c (·.refused) 16 (logExt c) lo (lo + n) then .trap 0x05 (extTval (logExt c) lo)
  else if extMeets c (·.revoked) 16 (logExt c) lo (lo + n) then .frozen else .ok []

/-! Slots of an entry (R372 to R374). -/

/-- What a slot's contents are to the adjoint. -/
inductive Need where
  | value | link | dest | saved | kept
  deriving DecidableEq, Repr

/-- An operand slot: its SPACE code, the rows, tile or physical registers it covers, LOC and ROWS. -/
structure RSlot where
  space : Nat
  items : List Nat
  loc : Nat
  rows : Nat
  need : Need
  deriving DecidableEq, Repr

def spSlot (row n : Nat) (need : Need) : RSlot :=
  ⟨0, (List.range n).map fun t => (row + t) % Config.spRows, row % Config.spRows, n, need⟩
/-- A tile slot covers the first `rows` rows of a tile (DEDUCED, log 77). -/
def tileSlot (t rows : Nat) (need : Need) : RSlot := ⟨2, [t], t, rows, need⟩
/-- A register slot: LOC holds the first logical register and RRB (R373). -/
def regSlot (rrb : W64) (v n : Nat) (need : Need) : RSlot :=
  ⟨3, (List.range n).map fun k => physV rrb (v + k), v + 2 ^ 11 * fld rrb 0 10, n, need⟩

/-- Field accessors of a tile descriptor (R347) (DEDUCED, log 78). -/
def tdAddr (d : Row) (b : Bool) : Nat := trF d (if b then 0x10 else 0) 8
def tdSpace (d : Row) (b : Bool) : Nat := trF d (if b then 0x18 else 8) 1
def tdExt (d : Row) (b : Bool) : Nat := trF d (if b then 0x19 else 9) 1
/-- Operand rows of A and B (R342, R346). -/
def aRows (a : XArgs) : Nat := mxRows a.fmta.toNat
def bRows (op : Nat) (a : XArgs) : Nat := mxRows a.fmtb.toNat * (if op = 2 then 2 else 1)
/-- Metadata rows of TMULS. -/
def mRows (a : XArgs) : Nat := mxK a.fmta.toNat / 16
/-- The first metadata row: of the descriptor, or s[S][14:0] (R346, R347). -/
def metaRow (c : MxCmd) : Nat := if c.a.ga || c.a.gb then trF c.desc 0x20 2 else c.sval.toNat % 2 ^ 15
/-- The packed rows that TLDA reads or TSTA writes (R349). -/
def packRows (fmt : Nat) : Nat := fmtWidth fmt
/-- The slots of a matrix command (R374). -/
def mxSlots (rrb : W64) (c : MxCmd) : List (Option RSlot) :=
  let a := c.a
  let t := a.tile.toNat
  let row := a.arow.toNat
  let T := some (tileSlot t 32 .dest)
  let U := some (tileSlot (row % 8) 32 .link)
  match c.op with
  | 1 | 2 =>
    [some (if a.ga then ⟨4, [], tdAddr c.desc false % 2 ^ 38, aRows a, .saved⟩ else spSlot row (aRows a) .value),
     some (if a.gb then ⟨4, [], tdAddr c.desc true % 2 ^ 38, bRows c.op a, .saved⟩ else spSlot a.brow.toNat (bRows c.op a) .value),
     if c.op = 2 then some (spSlot (metaRow c) (mRows a) .value) else none,
     some (tileSlot t (rowLimit c) .dest)]
  | 4 => [some (spSlot row (packRows a.fmta.toNat) .link), none, none, T]
  | 5 => [some (tileSlot t 32 .link), none, none, some (spSlot row (packRows a.fmta.toNat) .dest)]
  | 6 => [some (tileSlot t 32 .link), none, none, some (regSlot rrb (row % 2 ^ 11) 32 .dest)]
  | 7 => [some (regSlot rrb (row % 2 ^ 11) 32 .link), none, none, T]
  | 8 | 13 | 15 => [U, none, none, T]
  | 9 => [some ⟨5, [], a.s.toNat % 32, 1, .saved⟩, none, none, T]
  | 10 => [some (spSlot row 1 .link), none, none, T]
  | 11 | 14 => [some (tileSlot t 32 .value), none, none, T]
  | 12 => [some (tileSlot t 32 (if 2 ≤ a.fn.toNat then .value else .link)), none, none, some (spSlot row 1 .dest)]
  | _ => [none, none, none, T]
/-- The slots of a QLD (R374). -/
def qldSlots (rrb : W64) (a : MArgs) (d : BitVec 2048) (row : Nat) : List (Option RSlot) :=
  [some (regSlot rrb a.v.toNat (quD d) .saved), some (spSlot row 2 .saved), some ⟨6, [], 0, 0, .kept⟩,
    some (regSlot rrb (a.v.toNat + 8) (quF d) .dest)]

/-- Whether a map entry's key contains a slot (R371, R372). -/
def GEnt.holds (e : GEnt) (r : RSlot) : Bool :=
  let k0 := fld e.key 0 48
  fld e.key 60 4 == r.space && (r.space == 0 || r.space == 2 || r.space == 3) && !r.items.isEmpty &&
    r.items.all fun x => decide (k0 ≤ x) && decide (x < k0 + fld e.key 48 12)
/-- GREF of a slot: the lowest entry that holds it, or 511. -/
def grefFrom (r : RSlot) : Nat → List GEnt → Nat
  | _, [] => 511
  | i, e :: es => if e.holds r then i else grefFrom r (i + 1) es
def gref (t : List GEnt) (r : RSlot) : Nat := grefFrom r 0 t

/-- A slot descriptor of an entry header (R373). -/
def descOf (mode g : Nat) (r : RSlot) : Nat := mode * 2 ^ 62 + g * 2 ^ 53 + r.space * 2 ^ 50 + r.rows % 2 ^ 12 * 2 ^ 38 + r.loc % 2 ^ 38
/-- What a descriptor covers. -/
def descItems (w : Nat) : List Nat :=
  let n := bitsOf w 38 12
  let loc := bitsOf w 0 38
  match bitsOf w 50 3 with
  | 0 => (List.range n).map fun t => (loc + t) % Config.spRows
  | 2 => if n = 0 then [] else [loc]
  | 3 => (List.range n).map fun k => physV (BitVec.ofNat 64 (bitsOf loc 11 10)) (loc % 2 ^ 11 + k)
  | _ => []

/-! Reading entries. -/

def enSeq (h : Row) : Nat := trF h 0 8
def enParcel (h : Row) : Nat := trF h 8 8
def enQld (h : Row) : Bool := trF h 0x10 2 / 2 ^ 15 == 1
def enLen (h : Row) : Nat := trF h 0x12 2
def enScal (h : Row) : Nat := trF h 0x14 4
/-- PREV as a row offset: `noEntry` for the first entry. -/
def enPrev (h : Row) : Nat := trF h 0x18 8 % 2 ^ 48
def enSlot (h : Row) (i : Nat) : Nat := trF h (0x20 + 8 * i) 8
def enMode (h : Row) (i : Nat) : Nat := enSlot h i / 2 ^ 62
def enGref (h : Row) (i : Nat) : Nat := bitsOf (enSlot h i) 53 9
def enSpace (h : Row) (i : Nat) : Nat := bitsOf (enSlot h i) 50 3
def enRows (h : Row) (i : Nat) : Nat := bitsOf (enSlot h i) 38 12
def enOp (h : Row) : Nat := enParcel h % 64

/-- Whether an entry whose slot 3 meets a slot is its producer (R372): it covers the slot, is a TMUL or TMULS with ACC = 0, and its
other slots are S or K. -/
def producerOk (h : Row) (r : RSlot) : Bool :=
  !enQld h && (enOp h == 1 || enOp h == 2) && enParcel h / 2 ^ 17 % 2 == 0 && r.items.all (descItems (enSlot h 3)).contains &&
    (r.space != 2 || enRows h 3 == 32) && (List.range 3).all fun i => enMode h i != 3
/-- The producer of a slot, looking back from the entry at h: the newest entry that overlaps, or none (R372). -/
def State.producer (s : State) (n : Nat) (r : RSlot) : Nat → Nat → Option Nat
  | 0, _ => none
  | fuel + 1, h =>
    if h = noEntry then none
    else
      let hd := s.logRow n h
      if enSpace hd 3 = r.space ∧ (descItems (enSlot hd 3)).any r.items.contains then (if producerOk hd r then some h else none)
      else s.producer n r fuel (enPrev hd)

/-- MODE and producer of a slot (R372). -/
def State.slotMode (s : State) (n : Nat) (r : RSlot) : Nat × Option Nat :=
  let c := s.ctx n
  match r.need with
  | .link | .dest => (0, none)
  | .saved => (1, none)
  | .kept => (2, none)
  | .value =>
    let g := gref c.gmapT r
    match c.gmapT[g]? with
    | none => (1, none)
    | some e =>
      match e.mode.toNat with
      | 1 => (2, none)
      | 2 => match s.producer n r (logHead c + 1) (logLast c) with | some p => (3, some p) | none => (1, none)
      | _ => (1, none)

/-- Rows of a slot's copy (R375): S copies only; operands A and B of a product twice. -/
def copyLen (op : Nat) (K : Nat) (i mode : Nat) (r : RSlot) : Nat :=
  if mode ≠ 1 ∨ r.space = 5 then 0
  else if r.space = 2 then 32
  else if i < 2 ∧ (op = 1 ∨ op = 2) then r.rows + K * (if op = 2 then 2 else 1)
  else r.rows

/-- An entry as fixed at issue (R376): its slots with their modes and producers, and its length. -/
structure LogPlan where
  slots : List (Option (RSlot × Nat × Option Nat))
  len : Nat
  deriving DecidableEq, Repr

/-- The plan of a recorded operation; op 0 stands for QLD. -/
def State.planOf (s : State) (n op K : Nat) (slots : List (Option RSlot)) : LogPlan :=
  let ms := slots.map fun o => o.map fun r => let m := s.slotMode n r; (r, m.1, m.2)
  ⟨ms, (List.range 4).foldl (fun a i =>
    match ms.getD i none with | some (r, m, _) => a + copyLen op K i m r | none => a) 1⟩
def State.planMx (s : State) (c : MxCmd) : LogPlan := s.planOf c.ctx c.op (mxK c.a.fmta.toNat) (mxSlots (s.ctx c.ctx).csr.rrb c)
def State.planQld (s : State) (a : MArgs) : LogPlan :=
  s.planOf s.cur 0 0 (qldSlots s.tgt.csr.rrb a (s.quDesc a) ((s.rowAddr a).toNat % Config.spRows))

/-- The header row of an entry (R373). -/
def headerRow (seq parcel ctx : Nat) (qld : Bool) (scal prev : Nat) (t : List GEnt) (p : LogPlan) (kreg : Nat) : Row :=
  let d (i : Nat) : Nat := match p.slots.getD i none with | some (r, m, _) => descOf m (gref t r) r | none => 0
  let pr (i : Nat) : Nat := match p.slots.getD i none with | some (_, _, some h) => h | _ => 0
  BitVec.ofNat 1024 (seq % 2 ^ 64 + 2 ^ 64 * parcel + 2 ^ 128 * (ctx % 2 ^ 11 + if qld then 2 ^ 15 else 0) + 2 ^ 144 * (p.len % 2 ^ 16) +
    2 ^ 160 * (scal % 2 ^ 32) + 2 ^ 192 * prev + 2 ^ 256 * packRegs 64 d 4 + 2 ^ 512 * packRegs 64 pr 4 + 2 ^ 768 * kreg)

/-- Rows of the log stored through the context's queue, from row o on (R376) (DEDUCED, log 18). -/
def State.logStore (s : State) (n o : Nat) (rows : List Row) (poison : Bool) : State :=
  let as := (List.range rows.length).map fun k =>
    QAcc.mk false true (s.logAddr n (o + k)) ((s.ctx n).ops + 1) k (.log (rows.getD k 0) poison) .waiting (s.cyc n) 0 false
  s.modCtx n fun c => { c with ops := c.ops + 1, q := c.q ++ as }

/-- An entry appended at HEAD, its header stored (R373, R376). -/
def State.logAppend (s : State) (n parcel : Nat) (qld : Bool) (scal kreg : Nat) (p : LogPlan) : State :=
  let c := s.ctx n
  let last := logLast c
  let head := logHead c
  let seq := if last = noEntry then 0 else enSeq (s.logRow n last) + 1
  let prev := if last = noEntry then 2 ^ 64 - 1 else last
  let s := s.logStore n head [headerRow seq parcel n qld scal prev c.gmapT p kreg] false
  s.modCtx n fun c => { c with
      csr := { c.csr with logh := setFld c.csr.logh 0 48 (head + p.len), recst := setFld c.csr.recst 16 48 head } }

/-! Copies (R375). -/

/-- The transposed copy of an operand: row p holds the values at depth p, one per tile row. -/
def transposed (depth : Nat) (el : Nat → Nat → Nat) : List Row := (List.range depth).map fun p => rowOf fun t => el t p
/-- The copies that a matrix command's entry takes when the command starts, in slot order. -/
def mxCopies (w : WinEnt) : List Row :=
  let a := w.c.a
  let K := mxK a.fmta.toNat
  let m (i : Nat) : Bool := w.c.modes.getD i 0 == 1
  match w.c.op with
  | 1 | 2 =>
    let A := joinRows w.arows
    let B := joinRows w.brows
    let M := joinRows w.mrows
    let two := w.c.op = 2
    let D := if two then 2 * K else K
    let ea (t p : Nat) : Nat :=
      if two then (match sparseAt K M t p with | some k => fp32Of (mxElem a.fmta.toNat K A t k) | none => 0) else fp32Of (mxElem a.fmta.toNat K A t p)
    (if m 0 then w.arows ++ transposed D ea else []) ++
      (if m 1 then w.brows ++ transposed D (fun t p => fp32Of (mxElem a.fmtb.toNat D B t p)) else []) ++
      (if m 2 then w.mrows else [])
  | 11 | 12 | 14 => if m 0 then w.accIn else []
  | _ => []
/-- The command's copies into its entry, after the header row. -/
def State.logCopies (s : State) (w : WinEnt) : State :=
  match w.c.logRow with
  | none => s
  | some h => if (mxCopies w).isEmpty then s else s.logStore w.c.ctx (h + 1) (mxCopies w) w.poison.isSome

/-- SCAL of a matrix command (R373). -/
def mxScal (c : MxCmd) : Nat :=
  match c.op with
  | 1 => rowLimit c
  | 2 => metaRow c
  | 14 => c.sval.toNat % 2 ^ 32
  | _ => 0

/-! QLD and QSCAT as instructions. -/

/-- A QLD that is recorded: header, coordinate registers and descriptor rows (R374, R375). -/
def State.logQld (s : State) (a : MArgs) : State :=
  if !s.recording then s
  else
    let p := s.planQld a
    let d := s.quDesc a
    let parcel := match encSlot (.qld a) with | some (_, v) => v | none => 0
    let head := logHead s.me
    let rows := s.quCoords a d ++ [d.truncate 1024, BitVec.ofNat 1024 (d.toNat / 2 ^ 1024)]
    (s.logAppend s.cur parcel true (s.lanes a.gd) 0 p).logStore s.cur (head + 1) rows false

/-- The length of what a slot operation would append (R376). -/
def State.logLen (s : State) (c : Option MxCmd) (q : Option MArgs) : Nat :=
  (match c with | some c => (s.planMx c).len | none => 0) + (match q with | some a => (s.planQld a).len | none => 0)
/-- LOGOVF, and the log's range, for a bundle that appends n rows (R376). -/
def State.logCheck (s : State) (n : Nat) : GsChk :=
  if !s.recording ∨ n = 0 then .ok []
  else
    let c := s.me
    if fld c.csr.logl 0 48 < logHead c + n then .trap 0x09 c.csr.logh.toNat
    else logRange c (logBase c + logHead c) n

/-- QLD: recorded when recording is open, then issued (R335, R376). -/
def execQld (a : MArgs) (s : State) : Host.Outcome State Fault Refusal :=
  match s.qldCheck a with
  | .ok addrs => gsOut s (s.logCheck (s.logLen none (some a))) fun _ => (s.logQld a).qldGo a addrs
  | r => gsOut s r fun _ => s
/-- QSCAT (R336). -/
def execQscat (a : MArgs) (s : State) : Host.Outcome State Fault Refusal := gsOut s (s.qscatCheck a) (s.qscatGo a)

/-! BASTE's table copy and checks (R370, R371, R384). -/

/-- One entry of the gradient map from its 32 bytes. -/
def gentOf (x row off : Nat) : GEnt :=
  ⟨BitVec.ofNat 64 x, BitVec.ofNat 64 (x / 2 ^ 64), BitVec.ofNat 32 (x / 2 ^ 128), BitVec.ofNat 8 (x / 2 ^ 160),
    BitVec.ofNat 8 (x / 2 ^ 168), row, off⟩
/-- The table as the scratchpad of context n's core holds it: four entries a row. -/
def State.gmapRead (s : State) (n : Nat) : List GEnt :=
  let g := (s.ctx n).csr.gmap
  (List.range (fld g 16 9)).map fun i =>
    let row := (fld g 0 15 + i / 4) % Config.spRows
    gentOf ((s.rawRow (spAddr (n / 4) row)).toNat / 2 ^ (256 * (i % 4))) row (32 * (i % 4))

/-- Whether rows of the log's entries are still to perform: in the store queue, or copies of a command that has not started. -/
def State.logOut (s : State) (n : Nat) : Bool :=
  let pending (c : MxCmd) : Bool := c.ctx == n && c.logRow.isSome
  (s.ctx n).q.any (fun q => match q.what with | .log _ _ => true | _ => false) ||
    (s.core (n / 4)).q0.any pending || (s.core (n / 4)).q1.any pending

/-- What BASTE finds (R370, R384): the log's range out of bounds traps, a revoked piece of its extent does not; recording already open does nothing and
checks nothing. -/
def State.basteCheck (s : State) : Option (Nat × Nat) :=
  match s.noTask .baste with
  | some t => some t
  | none =>
    if bit s.me.csr.recst 3 then some (0x01, slotTval .baste)
    else if bit s.me.csr.recst 0 then none
    else match logRange s.me (logBase s.me) (fld s.me.csr.logl 0 48) with
      | .trap c t => if c = 0x04 then some (c, t) else none
      | _ => none
/-- BASTE opens recording with a copy of the gradient map; while it is open it does nothing (R294, R371). -/
def execBaste (s : State) : Host.Outcome State Fault Refusal :=
  issue s s.basteCheck
    (if bit s.me.csr.recst 0 then s
    else s.modMe fun c => { c with gmapT := s.gmapRead s.act, csr := { c.csr with recst := setFld c.csr.recst 0 1 1 } })
/-- KNOT closes it, once every row of the entries recorded has performed (R294) (DEDUCED, log 83). -/
def execKnot (s : State) : Host.Outcome State Fault Refusal :=
  match s.noTask .knot with
  | some t => issue s (some t) s
  | none =>
    if s.logOut s.act then .next s
    else .next (s.modMe fun c => { c with csr := { c.csr with recst := setFld c.csr.recst 0 1 0 } })

end Sys2Proof.Machine
end

