-- ==== Sys2Proof/Machine/Fabric.lean ====
section
/-! DEFINITION. Links: paths, slots, flits and their protection, arbitration, link errors, allowances and drain markers
(R24, R25, R28, R29, R34 to R44, R79, R80, R393, R394, R410). -/

namespace Sys2Proof.Machine

/-! Bridges and die paths (R7, R25). -/

def flipBit (d k : Nat) : Nat := if d / 2 ^ k % 2 = 1 then d - 2 ^ k else d + 2 ^ k
/-- The bridge that joins die d with the die that differs in bit k. -/
def bridgeAt (d k : Nat) : Nat := let lo := if d / 2 ^ k % 2 = 1 then d - 2 ^ k else d; 4 * k + lo / 2 ^ (k + 1) * 2 ^ k + lo % 2 ^ k
def State.dieLive (s : State) (d : Nat) : Bool := s.map.dies.getLsbD d
/-- Whether the hop from die d over bit k is live. -/
def State.hopLive (s : State) (d k : Nat) : Bool :=
  s.map.bridges.getLsbD (bridgeAt d k) && s.dieLive d && s.dieLive (flipBit d k)
/-- The dies within n hops of a set. -/
def State.within (s : State) : Nat → List Nat → List Nat
  | 0, ds => ds
  | n + 1, ds =>
    let r := s.within n ds
    (List.range 8).filter fun d => r.contains d || (List.range 3).any fun k => s.hopLive d k && r.contains (flipBit d k)
/-- The first hop of the least shortest path from die a to die b: a bit number (R25). -/
def State.hopFrom (s : State) (a b : Nat) : Option Nat :=
  if a = b then none
  else
    match (List.range 8).find? fun n => (s.within n [b]).contains a with
    | none => none
    | some n => (List.range 3).find? fun k => s.hopLive a k && (s.within (n - 1) [b]).contains (flipBit a k)

/-! Transmit slots (R28, R29, R32, R36). -/

def slotLit (b : Byte) : Bool := b.getLsbD 7
def slotChan (b : Byte) : Nat := b.toNat % 64
def State.tx (s : State) (i : Nat) : TxSlot := s.txs.get TxSlot.reset i
def State.rx (s : State) (i : Nat) : RxSlot := s.rxs.get RxSlot.reset i
def State.setTx (s : State) (i : Nat) (t : TxSlot) : State := { s with txs := s.txs.put i t }
def State.setRx (s : State) (i : Nat) (r : RxSlot) : State := { s with rxs := s.rxs.put i r }
def State.txByte (s : State) (i : Nat) : Byte := s.planTx.get 0 i
/-- The receive slot's byte: the new plan's from the dark step of a WPLAN on (R33). -/
def State.rxByte (s : State) (i : Nat) : Byte :=
  match s.wp with
  | some w => if w.dark then w.rx.get 0 i else s.planRx.get 0 i
  | none => s.planRx.get 0 i
/-- Whether flits may be queued at a transmit slot: it is locked, or, from the dark step of a WPLAN until it publishes, it was under the
old plan (R33, R80). -/
def State.txUp (s : State) (i : Nat) : Bool :=
  match s.wp with
  | some w => if w.dark then s.map.optch.getLsbD i else (s.tx i).locked
  | none => (s.tx i).locked
/-- The die whose fibre a slot belongs to. -/
def slotDie (i : Nat) : Nat := i / 32
/-- The device a transmit slot reaches, and the one a receive slot hears (R28). -/
def State.txPeer (s : State) (i : Nat) : Nat := (s.dev.devid.toNat + slotChan (s.txByte i)) % 64
def State.rxPeer (s : State) (i : Nat) : Nat := (s.dev.devid.toNat + 64 - slotChan (s.rxByte i)) % 64
/-- L(j), ascending. -/
def State.txList (s : State) (j : Nat) : List Nat :=
  (List.range 256).filter fun i => s.txUp i && slotLit (s.txByte i) && s.txPeer i == j
/-- Whether device j is reachable, from the slots as they stand (R36). -/
def State.peerUp (s : State) (j : Nat) : Bool :=
  j == s.dev.devid.toNat ||
    (!(s.txList j).isEmpty && (List.range 256).any fun i => (s.rx i).locked && slotLit (s.rxByte i) && s.rxPeer i == j)
def State.peersMask (s : State) : W64 := BitVec.ofNat 64 (packRegs 1 (fun j => if s.peerUp j then 1 else 0) 64)
/-- OPTCH: the locked transmit slots. -/
def State.optchMask (s : State) : BitVec 256 := BitVec.ofNat 256 (packRegs 1 (fun i => if (s.tx i).locked then 1 else 0) 256)

/-! Flits (R34, R38, R39). -/

def flitHdr (f : Flit) : BitVec 128 :=
  BitVec.ofNat 128 (f.part.toNat + 2 ^ 3 * (if f.kg then 1 else 0) + 2 ^ 4 * f.srcDev.toNat + 2 ^ 10 * f.vc.toNat + 2 ^ 13 * (if f.c then 1 else 0) +
    2 ^ 14 * (if f.i then 1 else 0) + 2 ^ 15 * f.rows.toNat + 2 ^ 17 * f.kind.toNat + 2 ^ 21 * f.srcCtx.toNat + 2 ^ 23 * f.srcCore.toNat +
    2 ^ 32 * f.word.toNat + 2 ^ 64 * f.addr.toNat)
def flitPay (f : Flit) : BitVec 2048 := BitVec.ofNat 2048 (f.pay0.toNat + 2 ^ 1024 * f.pay1.toNat)

/-- One bit of the CRC-64 of polynomial 0x42F0_E1EB_A9EA_3693, high bit first. -/
def crc64Bit (c : Nat) : Nat := if 2 ^ 63 ≤ c then ((c * 2) % 2 ^ 64) ^^^ 0x42F0E1EBA9EA3693 else c * 2
def crc64Byte (c b : Nat) : Nat :=
  let c := c ^^^ (b * 2 ^ 56)
  crc64Bit (crc64Bit (crc64Bit (crc64Bit (crc64Bit (crc64Bit (crc64Bit (crc64Bit c)))))))
def crc64From (c x : Nat) : Nat → Nat
  | 0 => c
  | n + 1 => crc64From (crc64Byte c (x % 256)) (x / 256) n
/-- The CRC-64 over header and payload, lowest byte first, from zero (PRESUMED, log 21). -/
def flitCrc (f : Flit) : Nat := crc64From 0 ((flitHdr f).toNat + 2 ^ 128 * (flitPay f).toNat) 272

/-- Keys are held for a direction (0 transmit, 1 receive), a peer, a partition and a generation (R39). -/
def keyId (dir peer part gen : Nat) : Nat := ((dir * 64 + peer) * 8 + part) * 2 + gen
/-- The 96-bit nonce (R39). -/
def nonce (src dst part gen ctr : Nat) : BitVec 96 :=
  BitVec.ofNat 96 (ctr % 2 ^ 64 + 2 ^ 80 * gen + 2 ^ 81 * part + 2 ^ 84 * dst + 2 ^ 90 * src)
/-- The active generation toward a peer and partition (R40). -/
def State.gen (s : State) (peer part : Nat) : Nat := if s.dev.curGen.get false (peer * 8 + part) then 1 else 0
/-- VCSEC.INTEG of a virtual channel (R38). -/
def State.integ (s : State) (vc : Nat) : Bool := bit (s.reg 0x305) vc
/-- What R39 lets happen to a flit: it may be sent, it waits for the other generation's new key, or its key is missing. -/
inductive KeySt where
  | send | wait | missing
  deriving DecidableEq, Repr
/-- A flit that needs a tag waits while the counter of the active generation stands at 2^48, and is not sent without a key (R39). -/
def State.keyAt (s : State) (peer : Nat) (f : Flit) : KeySt :=
  if f.c || s.integ f.vc.toNat then
    match s.dev.keys.find (keyId 0 peer f.part.toNat (s.gen peer f.part.toNat)) with
    | some k => if k.ctr < 2 ^ 48 then .send else .wait
    | none => .missing
  else .send
/-- The payload rows that a flit carries, and their bytes (R34): the rest of the payload is zero. -/
def payRows (f : Flit) : Nat := min 2 f.rows.toNat
def payPart (f : Flit) (p : BitVec 2048) : BitVec 2048 := BitVec.ofNat 2048 (p.toNat % 2 ^ (1024 * payRows f))
def withPay (f : Flit) (p : BitVec 2048) : Flit :=
  { f with pay0 := BitVec.ofNat 1024 p.toNat, pay1 := BitVec.ofNat 1024 (p.toNat / 2 ^ 1024) }
/-- A flit protected as it is sent: enciphered, integrity-only, or with a CRC (R38, R39). Only the rows it carries are enciphered and covered by
the tag: a READ's tag covers the header alone. -/
def State.protect (s : State) (peer : Nat) (f : Flit) : State × Flit :=
  let g := s.gen peer f.part.toNat
  if f.c || s.integ f.vc.toNat then
    let id := keyId 0 peer f.part.toNat g
    match s.dev.keys.find id with
    | none => (s, f)
    | some k =>
      let f := { f with i := !f.c, kg := g == 1 }
      let n := nonce s.dev.devid.toNat peer f.part.toNat g k.ctr
      let pay := payPart f (flitPay f)
      let tag := Config.gcmTag k.key n (flitHdr f) (128 * payRows f) pay
      let p := if f.c then payPart f (Config.gcmCipher k.key n pay) else pay
      ({ s with dev := { s.dev with keys := s.dev.keys.put id { k with ctr := k.ctr + 1 } } }, { withPay f p with trailer := tag })
  else
    let f := { f with i := false, c := false }
    (s, { f with trailer := BitVec.ofNat 128 (flitCrc f) })

/-- A flit of this device, unprotected. -/
def State.flit (s : State) (kind vc core ctx part : Nat) (addr : W64) (word rows : Nat) (conf : Bool) (p0 p1 : Row) : Flit :=
  ⟨addr, BitVec.ofNat 32 word, BitVec.ofNat 9 core, BitVec.ofNat 2 ctx, BitVec.ofNat 4 kind, BitVec.ofNat 2 rows, false, conf,
    BitVec.ofNat 3 vc, s.dev.devid, false, BitVec.ofNat 3 part, p0, p1, 0⟩
/-- The request tag of an access of context n: operation and row; bit 31 marks a hidden trap context (DESIGN CHOICE, log 22). -/
def tagOf (n op idx : Nat) : Nat := (if 2048 ≤ n then 2 ^ 31 else 0) + op % 2 ^ 23 * 256 + idx % 256
/-- The context a request flit of this device stands for (log 22). -/
def ownerOf (f : Flit) : Nat := if f.word.toNat < 2 ^ 31 then 4 * f.srcCore.toNat + f.srcCtx.toNat else 2048 + f.srcCore.toNat

/-! Hops (R24, R25): a flit goes by the mesh to its panel's inner corner, over bridges to the die that owns the fibre, and waits
in the slot's queue. -/

/-- A flit put into a transmit slot's queue; while a WPLAN runs, all but control flits wait in the order in which they are queued (R33, R80). -/
def State.queueAt (s : State) (slot : Nat) (f : Flit) : State :=
  match s.wp with
  | some w =>
    if f.vc = 4 then let t := s.tx slot; s.setTx slot { t with q := t.q ++ [f] }
    else { s with wp := some { w with held := w.held ++ [(s.txPeer slot, f)] } }
  | none => let t := s.tx slot; s.setTx slot { t with q := t.q ++ [f] }
/-- Whether such a flit waits anywhere in this device on its way out: in a slot's queue, not yet acknowledged, on a link, or held by a WPLAN. -/
def State.flitOut (s : State) (p : Flit → Bool) : Bool :=
  s.txs.any (fun t => t.2.q.any p || t.2.replay.any p) || s.links.any (fun l => l.2.q.any fun f => p f.1) ||
    match s.wp with | some w => w.held.any fun f => p f.2 | none => false
def linkKey : Link → Nat
  | .tx n => n
  | .bridge b up => 256 + 2 * b + if up then 1 else 0
  | .mesh c d => 512 + 4 * c + d % 4
def State.toLink (s : State) (l : Link) (slot : Nat) (f : Flit) : State :=
  let q := s.links.get LinkQ.reset (linkKey l)
  { s with links := s.links.put (linkKey l) { q with q := q.q ++ [(f, slot)] } }
/-- Over the first bridge from die d toward another, or `here` when it is reached or no path is left. -/
def State.overBridge (s : State) (d goal dest : Nat) (f : Flit) (here : State) : State :=
  match s.hopFrom d goal with
  | none => here
  | some k => s.toLink (.bridge (bridgeAt d k) (d / 2 ^ k % 2 == 0)) dest f
/-! Who holds queued accesses: a context, a hidden trap context, or (keys from 4096 on) a save slot (R181). -/

def coreOfHolder (s : State) (n : Nat) : Nat :=
  if n < 2048 then n / 4 else if n < 4096 then n - 2048
  else match s.saves.find (n - 4096) with | some v => v.ctx / 4 | none => 0
/-- A save as a context with nothing but its queue, landing entries and reports. -/
def Saved.asCtx (v : Saved) : Ctx := { Ctx.reset with land := v.land, q := v.q, reports := v.reports, task := some v.task, ext := v.ext }
def State.holder (s : State) (n : Nat) : Ctx :=
  if n < 4096 then s.ctx n else match s.saves.find (n - 4096) with | some v => v.asCtx | none => Ctx.reset
def State.modHolder (s : State) (n : Nat) (f : Ctx → Ctx) : State :=
  if n < 4096 then s.modCtx n f
  else match s.saves.find (n - 4096) with
    | some v => let c := f v.asCtx; { s with saves := s.saves.put (n - 4096) { v with land := c.land, q := c.q, reports := c.reports } }
    | none => s
/-- The context that a holder's accesses were issued from. -/
def State.holderKey (s : State) (n : Nat) : Nat := if n < 4096 then n else match s.saves.find (n - 4096) with | some v => v.ctx | none => 0
/-- The context whose extents, task and partition a holder's accesses use (R173). -/
def State.extCtx (s : State) (n : Nat) : Ctx :=
  if 2048 ≤ n ∧ n < 4096 then s.ctx (4 * (n - 2048) + (s.core (n - 2048)).run.getD 0) else s.holder n
def State.holderPart (s : State) (n : Nat) : Nat := match (s.extCtx n).task with | some t => t.part | none => 0
/-- The row of an access that has been sent, which a flit of this device or its answer names by the tag. -/
def accRow (f : Flit) (q : QAcc) : Option Nat :=
  if q.st != .sent then none
  else match q.what with
    | .qld _ _ _ _ rows => (List.range rows.length).find? fun k => tagOf (ownerOf f) q.op k == f.word.toNat
    | _ => if tagOf (ownerOf f) q.op q.idx = f.word.toNat then some 0 else none
/-- The holder of the queue that has such an access: the context that sent it, or a save of its task. -/
def State.tagHolder (s : State) (f : Flit) : Option Nat :=
  let n := ownerOf f
  let has (q : List QAcc) : Bool := q.any fun q => (accRow f q).isSome
  if has (s.ctx n).q then some n else (s.saves.find? fun v => v.2.ctx == n && has v.2.q).map fun v => 4096 + v.1

/-! Discards (R37, R180, R394). -/

/-- The bit at which an access's old value lies in the entry of an ATOMR (R331). -/
def atomBit (q : QAcc) : Nat := match q.what with | .atom _ e _ _ wide _ => (if wide then 64 else 32) * e | _ => 0
/-- A landing entry some of whose rows or elements are gone: whole, or (an ATOMR) split at its first element that is (R37, R120, R180). -/
def LandEntry.goneFrom (e : LandEntry) (q : QAcc) (pending cause : Nat) (tval : W64) : List LandEntry :=
  let dead (e : LandEntry) : LandEntry := { e with got := true, arr := none, gone := some (cause, tval) }
  if e.op ≠ q.op ∨ e.gone.isSome then [e]
  else if e.need = 0 then (if q.idx ≤ e.sub then [dead e] else [e])
  else
    let low : Row := BitVec.ofNat 1024 (2 ^ atomBit q - 1)
    let hi := dead { e with mask := e.mask &&& ~~~low, sub := e.sub + 1, need := e.need - pending }
    if e.mask &&& low = 0 then [{ hi with sub := e.sub }] else [{ e with mask := e.mask &&& low, need := pending, got := decide (pending = 0) }, hi]
/-- Loads of an operation from the one in `q` on are discarded or refused: their entries trap at their tick (R37, R120, R180). -/
def Ctx.goneLoads (c : Ctx) (q : QAcc) (cause : Nat) (tval : W64) : Ctx :=
  let pending := (c.q.filter fun p => p.op == q.op && decide (p.idx < q.idx)).length
  { c with
      land := c.land.flatMap fun e => e.goneFrom q pending cause tval
      q := c.q.map fun p => if p.op = q.op ∧ q.idx ≤ p.idx ∧ p.isLoad then { p with st := .dead } else p }
/-- The slot-mask bit of a queued store (R180): GS. -/
def gsBit : Nat := 6
/-- What a store or atomic stopped part-way leaves (R180): what was captured at issue, and the rows or lanes performed before it. -/
def QAcc.stop (q : QAcc) : Option Capture :=
  if q.src = 0 then none
  else some ⟨BitVec.ofNat 64 q.src, BitVec.ofNat 64 (q.src / 2 ^ 64), BitVec.ofNat 33 (q.src / 2 ^ 128), gsBit, q.idx, q.src / 2 ^ 192, [], [], []⟩
/-- The rest of a stopped store's operation leaves the queue. -/
def Ctx.dropRest (c : Ctx) (q : QAcc) : Ctx := { c with q := c.q.filter fun p => !(p.op == q.op && decide (q.idx ≤ p.idx) && !p.isLoad) }
/-- A discarded store or atomic: the rest of its operation is dropped and PEERGONE is reported. A further discard of the same peer is counted in
the report that waits, or, when that peer has trapped under the same map version, in TFRAME (R37, R394). -/
def State.goneStore (s : State) (n : Nat) (q : QAcc) : State :=
  let s := s.modHolder n fun c => c.dropRest q
  let c := s.holder n
  let peer := devOf q.addr
  let same (r : Report) : Bool := r.cause == 0x0A && !r.ofLoad && devOf r.tval == peer
  if c.goneAt.find peer = some s.map.version then
    s.modHolder n fun c => { c with csr := { c.csr with tframe := bumpSat c.csr.tframe 56 8 } }
  else if c.reports.any same then
    s.modHolder n fun c => { c with reports := c.reports.map fun r => if same r then { r with disc := min 255 (r.disc + 1) } else r }
  else if c.task.isSome then s.modHolder n fun c => { c with reports := c.reports ++ [⟨0x0A, q.addr, 0, q.stop⟩] }
  else s
/-- One queued access discarded: of a context or of a saved task (R37, R180). -/
def State.dropAcc (s : State) (n : Nat) (q : QAcc) : State :=
  if q.isLoad then s.modHolder n fun c => c.goneLoads q 0x0A q.addr else s.goneStore n q
/-- The capture of a matrix command whose operand fetch faulted (R180): its parcel, its s value and the rows fetched. -/
def MxCmd.capture (c : MxCmd) : Capture :=
  ⟨BitVec.ofNat 64 (encX c.op c.a), c.sval, 0, 7, c.rows.length, c.tick, [], [], []⟩
/-- The report of such a fault (R348). -/
def State.mxFault (s : State) (c : MxCmd) (cause : Nat) (tval : W64) : State := s.reportCap c.ctx cause tval (some c.capture)
/-- Whether a fabric address lies in an extent piece with the C attribute (R38, R118). -/
def Ctx.confAt (c : Ctx) (x : W64) : Bool :=
  c.ext.any fun e => e.valid && e.conf && decide (e.base.toNat ≤ x.toNat) && decide (x.toNat < e.base.toNat + 128 * e.len)

/-! Engines of a core (R146). -/

def Core.engine (k : Core) (e : Eng) : Option RunCmd :=
  match e with | .copy => k.copyE | .offload => k.offE | .main => k.mainE | .shadow => k.shadowE | .record => k.recE
def Core.setEngine (k : Core) (e : Eng) (r : Option RunCmd) : Core :=
  match e with
  | .copy => { k with copyE := r }
  | .offload => { k with offE := r }
  | .main => { k with mainE := r }
  | .shadow => { k with shadowE := r }
  | .record => { k with recE := r }
def engNo (e : Eng) : Nat := match e with | .copy => 0 | .offload => 1 | .main => 2 | .record => 3 | .shadow => 4
def engByNo (n : Nat) : Eng := match n with | 0 => .copy | 1 => .offload | 2 => .main | 3 => .record | _ => .shadow
/-- The tag of an engine's requests: below every access's tag (log 22). -/
def engTag (e : Eng) : Nat := 1 + engNo e
/-- A command whose request has been discarded ends PEERGONE (R37, R358). -/
def Core.peerGone (k : Core) (e : Eng) : Core :=
  k.setEngine e ((k.engine e).map fun r => if r.status = none ∨ r.status = some 0 then { r with status := some 0x05 } else r)
/-- Whether a command is the ESEND that a record's flit belongs to (R74): by its sequence number. -/
def RunCmd.sends (r : RunCmd) (f : Flit) : Bool := r.c.op == 7 && r.side % 2 ^ 32 == fld f.addr 32 32
/-- A waiting request discarded (R37): its access, an engine's command, or the operand row of a matrix command, which then faults (R348). A discarded
flit of a token record ends its ESEND PEERGONE (R75). -/
def State.discard (s : State) (f : Flit) : State :=
  if f.kind = 0 ∨ f.kind = 1 ∨ f.kind = 3 then
    let n := ownerOf f
    if 1 ≤ f.word.toNat ∧ f.word.toNat ≤ 5 then s.modCore f.srcCore.toNat fun k => k.peerGone (engByNo (f.word.toNat - 1))
    else match (s.tagHolder f).bind fun h => ((s.holder h).q.find? fun q => (accRow f q).isSome).map fun q => (h, q) with
    | some (h, q) => s.dropAcc h { q with addr := if (accRow f q).getD 0 = 0 then q.addr else f.addr }
    | none =>
      let hit (c : MxCmd) : Bool := match c.asked with | some o => tagOf n o 0 == f.word.toNat | none => false
      let core := f.srcCore.toNat
      match ((s.core core).q0 ++ (s.core core).q1).find? hit with
      | none => s
      | some c =>
        let upd (m : MxCmd) : MxCmd := if hit m then { m with asked := none, stopped := true } else m
        (s.modCore core fun k => { k with q0 := k.q0.map upd, q1 := k.q1.map upd }).mxFault c 0x0A f.addr
  else if f.kind = 6 then s.modCore f.srcCore.toNat fun k => if (k.engine .main).any fun r => r.sends f then k.peerGone .main else k
  else s

/-! Slots and paths (R24, R25, R29, R41). -/

/-- A drain marker, and no answer to one (R79). -/
def isMarker (f : Flit) : Bool := f.kind == 7 && !(bit f.addr 32)
/-- The slot that a lost one's flits move to: the next of its peer's list (R41). -/
def State.nextSlot (s : State) (slot : Nat) : Option Nat :=
  let l := s.txList (s.txPeer slot)
  (l.find? (fun i => decide (slot < i))).orElse fun _ => l.head?
/-- A flit at the die of a slot that is out of service moves on to the next slot of the list, or is discarded when none is left; a drain marker is
dropped, since it counts the flits of its own slot (R41, R79). -/
def State.moveOn (s : State) (slot : Nat) (f : Flit) : State :=
  if isMarker f then s
  else match s.nextSlot slot with
    | some i => s.overBridge (slotDie slot) (slotDie i) i f (s.queueAt i f)
    | none => s.discard f
/-- A flit at the die of its slot. -/
def State.toSlot (s : State) (slot : Nat) (f : Flit) : State := if s.txUp slot then s.queueAt slot f else s.moveOn slot f
/-- From a die router on: the slot's queue, or the next bridge; with no path left, the slot's queue. -/
def State.fromDie (s : State) (d slot : Nat) (f : Flit) : State := s.overBridge d (slotDie slot) slot f (s.toSlot slot f)
def toward (x c : Nat) : Bool := decide (x < c)
/-- From a core router on: along x, then y, to the inner corner (R24). -/
def State.fromCore (s : State) (n slot : Nat) (f : Flit) : State :=
  let cx := if coreX n < 4 then 3 else 4
  let cy := if coreY n < 4 then 3 else 4
  if coreX n ≠ cx then s.toLink (.mesh n (if toward (coreX n) cx then 0 else 1)) slot f
  else if coreY n ≠ cy then s.toLink (.mesh n (if toward (coreY n) cy then 2 else 3)) slot f
  else s.fromDie (dieOfCore n) slot f
/-- The core a mesh link leads to. -/
def meshNext (n dir : Nat) : Nat :=
  match dir % 4 with
  | 0 => n + 1
  | 1 => n - 1
  | 2 => n + 8
  | _ => n - 8

/-- The slot of R29, if the peer has one; none for a flit that needs a tag and has no key (R39). -/
def State.slotFor (s : State) (die peer : Nat) (f : Flit) : Option Nat :=
  let l := s.txList peer
  if s.keyAt peer f = .missing then none else l[(die + f.vc.toNat) % l.length]?
/-- A flit injected by a core toward another device; none when the peer is unreachable for it (R29, R39). -/
def State.inject (s : State) (core peer : Nat) (f : Flit) : Option State :=
  (s.slotFor (dieOfCore core) peer f).map fun i => s.fromCore core i f
/-- A flit injected at a die's routers. -/
def State.injectDie (s : State) (die peer : Nat) (f : Flit) : Option State :=
  (s.slotFor die peer f).map fun i => s.fromDie die i f
/-- A control flit sent, if it can be. -/
def State.sendCtl (s : State) (die peer : Nat) (f : Flit) : State := (s.injectDie die peer f).getD s
/-- How a flit that concerns one receive slot names it to the far end (DESIGN CHOICE, log 23): fibre and channel, which are those of the far end's
transmit slot. -/
def State.rxWord (s : State) (rx : Nat) : Nat := rx / 8 * 64 + slotChan (s.rxByte rx)
/-- The transmit slot that such a flit names. -/
def State.txOf (s : State) (f : Flit) : Option Nat :=
  ((List.range 8).map fun w => 8 * (f.word.toNat / 64) + w).find? fun i =>
    decide (i < 256) && slotLit (s.txByte i) && slotChan (s.txByte i) == f.word.toNat % 64

/-! Receiving (R35, R38, R41, R44). -/

/-- Whether a KIND may travel on a virtual channel (R35). -/
def kindOk (kind vc : Nat) : Bool :=
  match vc with
  | 0 | 1 => kind == 0 || kind == 4 || kind == 5
  | 2 => kind == 0 || kind == 1 || kind == 3
  | 3 => kind == 2
  | 4 => decide (7 ≤ kind) && decide (kind ≤ 11)
  | 5 => kind == 6
  | _ => false
/-- A link error of a receive slot: counted, recorded and answered with a NAK (R35, R41, R212). -/
def State.linkError (s : State) (rx : Nat) : State :=
  let s := { s with dev := { s.dev with linkErr := s.dev.linkErr.put rx (s.dev.linkErr.get 0 rx + 1) } }
  let s := s.errRecord (BitVec.ofNat 64 (rx + 2 ^ 8 * slotDie rx)) 13 6 false 0 noCtx
  let r := s.rx rx
  let s := s.setRx rx { r with naks := r.naks + 1 }
  s.sendCtl (slotDie rx) (s.rxPeer rx) (s.flit 11 4 0 0 0 0 (s.rxWord rx) 0 false 0 0)
/-- A slot taken out of service: a receive slot stops hearing, with PEERS published if they change (R41). -/
def State.rxOut (s : State) (rx : Nat) : State :=
  let s := s.setRx rx { s.rx rx with locked := false }
  if s.peersMask = s.map.peers then s else s.post 0 0 (.mapEvent (.peers s.peersMask))
/-- A tag failure: four within 1 ms take the slot out of service (R41). -/
def State.tagFail (s : State) (rx : Nat) : State :=
  let s := s.linkError rx
  let r := s.rx rx
  let now := s.now.toNat
  let ts := now :: r.tagFails.filter fun t => decide (now < t + 1000000)
  let s := s.setRx rx { r with tagFails := ts }
  if 4 ≤ ts.length then s.rxOut rx else s
/-- The check of a tag with the receive key, whose counter advances with each tagged flit (log 7). -/
def State.tagOk (s : State) (rx : Nat) (f : Flit) : State × Option Flit :=
  let peer := s.rxPeer rx
  let g := if f.kg then 1 else 0
  let id := keyId 1 peer f.part.toNat g
  match s.dev.keys.find id with
  | none => (s, none)
  | some k =>
    let n := nonce peer s.dev.devid.toNat f.part.toNat g k.ctr
    let pay := payPart f (flitPay f)
    let p := if f.c then payPart f (Config.gcmCipher k.key n pay) else pay
    let s := { s with dev := { s.dev with keys := s.dev.keys.put id { k with ctr := k.ctr + 1 } } }
    (s, if Config.gcmTag k.key n (flitHdr f) (128 * payRows f) p = f.trailer then some (withPay f p) else none)
/-- The oldest drain marker of a receive slot answered, once exactly its counts have been accepted (R79). -/
def State.answerMarker (s : State) (rx : Nat) : State :=
  let r := s.rx rx
  match r.marker with
  | [] => s
  | (num, counts) :: rest =>
    if counts = r.accepted then
      (s.setRx rx { r with marker := rest, accepted := [0, 0, 0, 0, 0, 0] }).sendCtl (slotDie rx) (s.rxPeer rx)
        (s.flit 7 4 0 0 0 (BitVec.ofNat 64 (num + 2 ^ 32)) (s.rxWord rx) 0 false 0 0)
    else s
def incAt (l : List Nat) (i n : Nat) : List Nat := l.set i (l.getD i 0 + n)
/-- A CREDIT flit for the buffers freed since the last one (R44); its payload layout is the model's (log 23). -/
def State.sendCredit (s : State) (rx : Nat) : State :=
  let r := s.rx rx
  if r.freed.all (· == 0) then s
  else (s.setRx rx { r with freed := [0, 0, 0, 0, 0, 0] }).sendCtl (slotDie rx) (s.rxPeer rx)
    (s.flit 10 4 0 0 0 0 (s.rxWord rx) 1 false (BitVec.ofNat 1024 (packRegs 32 (fun v => r.freed.getD v 0) 6)) 0)
/-- A buffer of a receive slot freed: the sixteenth on a virtual channel since the last CREDIT sends one (R44). -/
def State.freeBuf (s : State) (rx vc : Nat) : State :=
  let r := s.rx rx
  let freed := incAt r.freed vc 1
  let s := s.setRx rx { r with freed := freed }
  if 16 ≤ freed.getD vc 0 then s.sendCredit rx else s
/-- A flit accepted into its buffer and counted for markers. The buffer is free once the flit has been handled, which the model does at once; that
of an EXPERT flit is held until its record has space (R74). -/
def State.accept (s : State) (rx : Nat) (f : Flit) : State :=
  let r := s.rx rx
  let s := s.setRx rx { r with accepted := if isMarker f then r.accepted else incAt r.accepted f.vc.toNat 1 }
  (if f.kind = 6 then s else s.freeBuf rx f.vc.toNat).answerMarker rx
/-- A flit received: what the device takes, or nothing after a discard (R35, R38, R41). A slot that is not locked receives
nothing. A flit that has crossed bridges to its home die d comes as from slot 256 + d: it has been taken already (DESIGN CHOICE, log 82). -/
def State.receive (s : State) (rx : Nat) (f : Flit) : State × Option Flit :=
  if 256 ≤ rx then (s, some f)
  else if !(s.rx rx).locked then (s, none)
  else if !kindOk f.kind.toNat f.vc.toNat || f.rows == 3 || (f.c && f.i) then (s.linkError rx, none)
  else if f.c || f.i then
    match s.tagOk rx f with
    | (s, some f) => (s.accept rx f, some f)
    | (s, none) => (s.tagFail rx, none)
  else if s.integ f.vc.toNat then (s.tagFail rx, none)
  else if f.trailer.toNat = flitCrc f then (s.accept rx f, some f)
  else (s.linkError rx, none)

/-- The die at which a received flit stands. -/
def rxDie (rx : Nat) : Nat := if rx < 256 then slotDie rx else rx - 256
/-- The home die of a request or of an answer to this device's (R29): that of the memory, or of the core that asked. -/
def flitHome (f : Flit) : Nat := if f.kind = 2 then dieOfCore f.srcCore.toNat else (homeOf (localOf f.addr)).die
/-- A request or answer received: it is taken at its home die, and crosses bridges to it from its fibre's (R25, R29). -/
def State.inward (s : State) (rx : Nat) (f : Flit) : State × Option Flit :=
  match s.receive rx f with
  | (s, none) => (s, none)
  | (s, some f) =>
    if 256 ≤ rx then (s, some f)
    else match s.hopFrom (slotDie rx) (flitHome f) with
      | none => (s, some f)
      | some k => (s.toLink (.bridge (bridgeAt (slotDie rx) k) (slotDie rx / 2 ^ k % 2 == 0)) (256 + flitHome f) f, none)
/-- The step that takes a flit at its home die. -/
def homeStep (die : Nat) (f : Flit) : Instr :=
  if f.kind = 0 then .write (256 + die) f else if f.kind = 1 then .read (256 + die) f
  else if f.kind = 3 then .atomic (256 + die) f else .resp (256 + die) f
/-- A flit that has crossed a bridge to die d: on to its slot, or to its home (R25). -/
def State.atDie (s : State) (d dest : Nat) (f : Flit) : State :=
  if dest < 256 then s.fromDie d dest f else s.overBridge d (dest - 256) dest f (s.post 0 0 (homeStep d f))

/-! Sending (R42, R44). -/

/-- The owner of a position of the arbitration pattern (R42). -/
def arbOwner (p : Nat) : Nat := [4, 1, 3, 2, 1, 0, 5, 3, 4, 1, 2, 3, 1, 0, 5, 2].getD (p % 16) 0
/-- The VC that sends at a position: its owner if ready, else the first ready one in the fixed order (R42). -/
def arbPick (pos : Nat) (ready : Nat → Bool) : Option Nat := (arbOwner pos :: [4, 1, 3, 2, 5, 0]).find? ready
/-- The first flit of a virtual channel, and the queue without it. -/
def takeVc {α : Type} (f : α → Nat) (vc : Nat) : List α → Option (α × List α)
  | [] => none
  | x :: xs => if f x = vc then some (x, xs) else match takeVc f vc xs with | some (y, ys) => some (y, x :: ys) | none => none

/-- What a running WPLAN lets a slot send: control flits, on a slot that is locked (R33, R80). -/
def State.wpSends (s : State) (vc : Nat) : Bool := s.wp.isNone || vc == 4
/-- Whether a VC of a transmit slot may send: a flit at its head whose key is not spent, an allowance, room in the replay buffer (R39, R41, R42,
R44). -/
def State.txReady (s : State) (slot vc : Nat) : Bool :=
  let t := s.tx slot
  let head := match t.q.find? fun f => f.vc.toNat == vc with
    | some f => s.keyAt (s.txPeer slot) f != .wait
    | none => false
  t.locked && head && t.allow.getD vc 0 != 0 && decide (t.replay.length < 512) && s.wpSends vc
/-- A flit goes out on the fibre, protected (R38). -/
def State.emit (s : State) (slot : Nat) (f : Flit) : State :=
  let p := s.protect (s.txPeer slot) f
  let t := p.1.tx slot
  p.1.setTx slot { t with wire := t.wire ++ [p.2] }
/-- A flit at the head of a queue whose key is missing is not sent: a request is discarded (R37, R39), and a drain marker ends the wait for its
answer, with nothing sent to drain (DESIGN CHOICE, log 123). -/
def State.unsendable (s : State) (slot : Nat) (f : Flit) : State :=
  if isMarker f then s.setTx slot { s.tx slot with await := none } else s.discard f
/-- A flit for the first time on the fibre: it spends an allowance and enters the replay buffer; a marker carries the counts of what was sent since
the last one (R41, R44, R79). -/
def State.firstSend (s : State) (slot vc : Nat) (f : Flit) : State :=
  let t := s.tx slot
  let mark := isMarker f
  let f := if mark then { f with pay0 := BitVec.ofNat 1024 (packRegs 32 (fun v => t.since.getD v 0) 6) } else f
  (s.setTx slot { t with
      allow := t.allow.set vc (t.allow.getD vc 0 - 1)
      replay := t.replay ++ [f]
      since := if mark then [0, 0, 0, 0, 0, 0] else incAt t.since vc 1 }).emit slot f
/-- The next flit of the replay buffer that is to be sent again, tagged afresh (R39, R41). -/
def State.sendAgain (s : State) (slot : Nat) : State :=
  let t := s.tx slot
  let k := t.replay.length - t.owed
  match t.replay[k]? with
  | none => s
  | some f =>
    match s.keyAt (s.txPeer slot) f with
    | .send => (s.setTx slot { t with owed := t.owed - 1 }).emit slot f
    | .wait => s
    | .missing => (s.setTx slot { t with replay := t.replay.eraseIdx k, owed := t.owed - 1 }).unsendable slot f
/-- One flit boundary of a transmit slot (R42). While a replay is pending nothing new is sent (R41). -/
def State.arbTx (s : State) (slot : Nat) : State :=
  let t := s.tx slot
  let s := s.setTx slot { t with pos := (t.pos + 1) % 16 }
  if t.locked && t.owed != 0 then s.sendAgain slot
  else match arbPick t.pos (s.txReady slot) with
  | none => s
  | some vc =>
    match takeVc (fun f => f.vc.toNat) vc t.q with
    | none => s
    | some (f, rest) =>
      let s := s.setTx slot { s.tx slot with q := rest }
      if s.keyAt (s.txPeer slot) f = .missing then s.unsendable slot f else s.firstSend slot vc f
/-- One flit boundary of a bridge direction or a mesh link: the flit goes on to its next hop. -/
def State.arbLink (s : State) (l : Link) (next : State → Nat → Flit → State) : State :=
  let k := s.links.get LinkQ.reset (linkKey l)
  let s := { s with links := s.links.put (linkKey l) { k with pos := (k.pos + 1) % 16 } }
  match arbPick k.pos (fun vc => k.q.any fun f => f.1.vc.toNat == vc) with
  | none => s
  | some vc =>
    match takeVc (fun f => f.1.vc.toNat) vc k.q with
    | none => s
    | some (f, rest) => next { s with links := s.links.put (linkKey l) { q := rest, pos := (k.pos + 1) % 16 } } f.2 f.1
/-- The die at the far end of a bridge. -/
def bridgeEnd (b : Nat) (up : Bool) : Nat :=
  let k := b / 4
  let i := b % 4
  let lo := i / 2 ^ k * 2 ^ (k + 1) + i % 2 ^ k
  if up then lo + 2 ^ k else lo

/-- FLIT_ARBITRATION (R42). -/
def execFlitArbitration (l : Link) (s : State) : Host.Outcome State Fault Refusal :=
  .next (match l with
    | .tx slot => s.arbTx slot
    | .bridge b up => s.arbLink l fun s slot f => s.atDie (bridgeEnd b up) slot f
    | .mesh c d => s.arbLink l fun s slot f => s.fromCore (meshNext c d) slot f)

/-- A control flit about one transmit slot, taken from a receive slot with the checks of R35: what it does to that slot. -/
def State.ctlFlit (s : State) (rx : Nat) (f : Flit) (act : State → Nat → Flit → State) : Host.Outcome State Fault Refusal :=
  match s.receive rx f with
  | (s, none) => .next s
  | (s, some f) => .next (match s.txOf f with | some i => act s i f | none => s)
/-- Word v of a control flit's payload: a count for virtual channel v (R79; CREDIT: log 23). -/
def vcWord (f : Flit) (v : Nat) : Nat := f.pay0.toNat / 2 ^ (32 * v) % 2 ^ 32
/-- Allowances regained (R44): at most 64 a virtual channel. -/
def State.regain (s : State) (i : Nat) (f : Flit) : State :=
  let t := s.tx i
  s.setTx i { t with allow := (List.range 6).map fun v => min 64 (t.allow.getD v 0 + vcWord f v) }
/-- CREDIT (R44). -/
def execCredit (rx : Nat) (f : Flit) (s : State) : Host.Outcome State Fault Refusal := s.ctlFlit rx f State.regain
/-- The timer of 256 cycles after the first unreported free buffer (R44). `unit`: the receive slot. -/
def execCreditBatchTimer (s : State) : Host.Outcome State Fault Refusal := .next (s.sendCredit s.unit)

/-- A transmit slot out of service: its flits move on in their order (R41). -/
def State.vacate (s : State) (slot : Nat) : State :=
  let t := s.tx slot
  (t.replay ++ t.q).foldl (fun s f => s.moveOn slot f) (s.setTx slot { t with locked := false, q := [], replay := [], owed := 0, await := none })
/-- Its loss is published, and PEERS if they change (R41). -/
def State.txOut (s : State) (slot : Nat) : State :=
  let s := (s.vacate slot).post 0 0 (.mapEvent (.slotLost slot))
  if s.peersMask = s.map.peers then s else s.post 0 0 (.mapEvent (.peers s.peersMask))
/-- A NAK for a transmit slot: its replay buffer is to be sent again; after 16 failed replays the slot goes out of service (R41). -/
def State.nakked (s : State) (i : Nat) (_f : Flit) : State :=
  let t := s.tx i
  if !t.locked then s
  else if 16 ≤ t.fails then s.txOut i
  else s.setTx i { t with fails := t.fails + 1, owed := t.replay.length }
/-- NAK (R41). -/
def execNak (s : State) (rx : Nat := 0) (f : Flit := default) : Host.Outcome State Fault Refusal := s.ctlFlit rx f State.nakked

/-- A store, or an atomic that returns nothing, counts as performed when its flit is acknowledged (DEDUCED, log 24). -/
def State.ackFlit (s : State) (f : Flit) : State :=
  let n := ownerOf f
  let done (q : QAcc) : Bool := q.st == .sent && !q.isLoad && tagOf n q.op q.idx == f.word.toNat
  if f.kind = 0 ∨ f.kind = 3 then
    let s := s.modCtx n fun c => { c with q := c.q.filter fun q => !done q }
    { s with saves := mapVals (fun v => if v.ctx = n then { v with q := v.q.filter fun q => !done q } else v) s.saves }
  else s
/-- FLIT_ACKNOWLEDGEMENT (R41). `unit`: the transmit slot, `arg`: how many flits of its replay buffer it covers. -/
def execFlitAcknowledgement (s : State) : Host.Outcome State Fault Refusal :=
  let t := s.tx s.unit
  let left := t.replay.drop s.arg
  let s' := s.setTx s.unit { t with replay := left, fails := if s.arg = 0 then t.fails else 0, owed := min t.owed left.length }
  .next ((t.replay.take s.arg).foldl State.ackFlit s')

/-! Drain markers (R79, R393). -/

/-- A marker sent on a transmit slot: ADDR[33] marks a retune marker. -/
def State.sendMarker (s : State) (slot : Nat) (retune : Bool) : State :=
  let t := s.tx slot
  let num := (t.marker + 1) % 2 ^ 32
  let f := s.flit 7 4 0 0 0 (BitVec.ofNat 64 (num + if retune then 2 ^ 33 else 0)) 0 1 false 0 0
  s.setTx slot { t with marker := num, await := some num, q := t.q ++ [f] }
/-- Whether a transmit slot is drained: its marker answered, and every flit before it acknowledged (R79). -/
def TxSlot.drained (t : TxSlot) : Bool :=
  t.await.isNone && match t.replay.findIdx? fun f => isMarker f && fld f.addr 0 32 == t.marker with
    | none => true
    | some k => k == 0

/-- DRAIN_MARKER (R79, R393): a marker received is kept until its counts are met; a retune marker sets the latch. -/
def execDrainMarker (rx : Nat) (f : Flit) (s : State) : Host.Outcome State Fault Refusal :=
  match s.receive rx f with
  | (s, none) => .next s
  | (s, some f) =>
    if bit f.addr 32 then .next s
    else
      let counts := (List.range 6).map (vcWord f)
      let r := s.rx rx
      .next ((s.setRx rx { r with marker := r.marker ++ [(fld f.addr 0 32, counts)], latch := r.latch || bit f.addr 33 }).answerMarker rx)
/-- An answered marker: only an answer (ADDR[32] set) that carries the number awaited ends the wait. -/
def State.answered (s : State) (i : Nat) (f : Flit) : State :=
  let t := s.tx i
  if bit f.addr 32 ∧ t.await = some (fld f.addr 0 32) then s.setTx i { t with await := none } else s
/-- DRAIN_ANSWER (R79). -/
def execDrainAnswer (s : State) (rx : Nat := 0) (f : Flit := default) : Host.Outcome State Fault Refusal := s.ctlFlit rx f State.answered

end Sys2Proof.Machine
end

