-- ==== Sys2Proof/Machine/Describe.lean ====
section
/-! DEFINITION. The description area: the capability list and the map image (R14, R19, R21 to R23), and reads and writes of any
local row by its home (R105, R153, R209, R211). -/

namespace Sys2Proof.Machine

/-! The capability list (R22, R23). -/

/-- Feature words, in ascending ID order (R23). -/
def capFeat : List Nat :=
  [512 + 4 * 2 ^ 10 + 7 * 2 ^ 13 + 2100 * 2 ^ 16 + 16384 * 2 ^ 32, 7, 1, 8 + 15 * 2 ^ 4 + 24 * 2 ^ 8 + 10 * 2 ^ 13, 256,
    4096 + 256 * 2 ^ 13 + 256 * 2 ^ 22, 8192 + 4 * 2 ^ 14, 7, 6144 + 48 * 2 ^ 16, 3, 1, 4 + 15 * 2 ^ 4]
/-- Entry i of the chain: ID, VER 1, NEXT and FEAT. The entries lie one after another (DESIGN CHOICE, log 25). -/
def capEntry (i : Nat) : Nat :=
  (i + 1) + 2 ^ 16 + (if i + 1 < 12 then 16 * (i + 1) else 0) * 2 ^ 32 + capFeat.getD i 0 * 2 ^ 64
/-- The whole list as a little-endian number. -/
def capList : Nat := packRegs 128 capEntry 12

/-! The map image (R14). -/

def ResMap.coreLive (m : ResMap) (n : Nat) : Bool := m.cores.getLsbD n
/-- Usable MiB of a stack (64 GiB built) and of a channel (128 GiB built): 0 when dead (R7, R8, R15). -/
def ResMap.stackMib (m : ResMap) (k : Nat) : Nat := if m.hbms.getLsbD k then m.stackCap.get 65536 k else 0
def ResMap.chanMib (m : ResMap) (k : Nat) : Nat := if m.tierch.getLsbD k then m.tierCap.get 131072 k else 0

/-- The image with a given CRC field. -/
def mapImageWith (m : ResMap) (devid crc : Nat) : Nat :=
  m.version.toNat + 2 ^ 64 * m.cause.toNat + 2 ^ 80 * devid + 2 ^ 96 * crc + 2 ^ 128 * m.time.toNat + 2 ^ 192 * m.peers.toNat +
    2 ^ 256 * m.cores.toNat + 2 ^ 768 * m.panels.toNat + 2 ^ 800 * m.dies.toNat + 2 ^ 816 * m.hbms.toNat + 2 ^ 832 * m.bridges.toNat +
    2 ^ 848 * m.tierch.toNat + 2 ^ 896 * packRegs 32 m.stackMib 16 + 2 ^ 1408 * packRegs 32 m.chanMib 48 + 2 ^ 2944 * m.optch.toNat +
    2 ^ 3200 * packRegs 16 m.clock 8
/-- The 512 B map image: CRC-32C over its bytes with the CRC field zero. -/
def State.mapImage (s : State) : Nat :=
  let d := s.dev.devid.toNat
  mapImageWith s.map d (crc32c (mapImageWith s.map d 0) 512).toNat

/-- A row of the description area as a queued load reads it (R21). -/
def State.descRow (s : State) (off : Nat) : Row :=
  if off < 0x4000 then BitVec.ofNat 1024 (capList / 2 ^ (8 * (off / 128 * 128)))
  else if 0x8000 ≤ off ∧ off < 0x8200 then BitVec.ofNat 1024 (s.mapImage / 2 ^ (8 * ((off - 0x8000) / 128 * 128)))
  else 0

/-! Any row of this device by its local address. -/

/-- The error record of a write to the description area (R21, R212). -/
def State.descRec (s : State) (a : Nat) : State := s.errRecord (s.here a) 14 7 false 0 noCtx

/-- A row read at its home: its data and its poison. -/
def State.loadLocal (s : State) (a : Nat) : State × Row × Option (Nat × W64) :=
  match homeOf a with
  | .sync _ => let p := s.syRead (rowBase a); let r := p.1.syRow a; (r.1, r.2, p.2)
  | .desc => (s, s.descRow (a - Config.capBase), none)
  | _ =>
    if s.lost a then (s.lostRec a, 0, s.poisonOf a)
    else
      let s := s.injRow a
      (s, s.rawRow a, s.poisonOf a)
/-- A row stored at its home under a bit mask. -/
def State.storeLocal (s : State) (a : Nat) (data mask : Row) (poison : Bool) : State :=
  match homeOf a with
  | .sync _ => s.syRowStore (rowBase a) data.toNat mask.toNat 16
  | .desc => s.descRec a
  | .hole => s
  | _ => if s.lost a then s.lostRec a else s.storeMem a data mask poison
/-- Whether an access to a local address stops the machine: it holds no memory (log 3). -/
def isHole (a : Nat) : Bool := homeOf a == .hole

/-- An atomic operation on element e of a row: the old value, and poison found there (R331, R332, R106). -/
def State.atomLocal (s : State) (a op e : Nat) (x cv : W64) (wide : Bool) : State × W64 × Option (Nat × W64) :=
  let w := if wide then 64 else 32
  let base := rowBase a
  match homeOf a with
  | .sync _ =>
    let r := s.syAtom (base + (if wide then 8 else 4) * e) op x cv wide
    (r.1, if wide then r.2.1 else 0, r.2.2)
  | .desc => let r := s.descRec a; let f := r.freshWord; (f.1, f.2, none)
  | .hole => (s, 0, none)
  | _ =>
    if s.lost a then (s.lostRec a, 0, s.poisonOf a)
    else
      let s := s.injRow a
      let old := elem w (s.rawRow a) e
      let new := atomNew op w old x.toNat cv.toNat
      let sh := w * e
      (s.storeMem a (BitVec.ofNat 1024 (new * 2 ^ sh)) (BitVec.ofNat 1024 ((2 ^ w - 1) * 2 ^ sh)) false, BitVec.ofNat 64 old, s.poisonOf a)
/-- A QSCAT add of several binary32 words from word i of a row on: one operation (R163, R336). -/
def State.addLocal (s : State) (a i : Nat) (vals : List W32) : State :=
  match homeOf a with
  | .sync _ => s.syRefuse a
  | .desc => s.descRec a
  | .hole => s
  | _ =>
    if s.lost a then s.lostRec a
    else
      let s := s.injRow a
      let row := s.rawRow a
      let n := vals.length
      let sum := packRegs 32 (fun k => add32 (elem 32 row (i + k)) (vals.getD k 0).toNat) n
      s.storeMem a (BitVec.ofNat 1024 (sum * 2 ^ (32 * i))) (BitVec.ofNat 1024 ((2 ^ (32 * n) - 1) * 2 ^ (32 * i))) false

end Sys2Proof.Machine
end

