-- ==== Sys2Proof/Machine/Trans.lean ====
section
/-! DEFINITION. Address translation: page tables, the translation cache, and the extents of a task (R117, R118). -/

namespace Sys2Proof.Machine

/-- Faults of a walk, by the codes of a fault record (R119). -/
inductive WalkFault where
  | notPresent | badPte | prot | extentOvf
  deriving DecidableEq, Repr
def WalkFault.code : WalkFault → Nat
  | .notPresent => 1
  | .badPte => 2
  | .prot => 3
  | .extentOvf => 4

/-- What a walk or a cache hit finds: a leaf and whether it maps 1 GiB, or a fault. -/
inductive Walk where
  | leaf (pte : W64) (big : Bool)
  | fault (f : WalkFault)
  deriving DecidableEq, Repr

/-- A page-table entry of the device's memory: 8 B. -/
def State.pteAt (s : State) (table : Nat) (idx : Nat) : W64 := BitVec.ofNat 64 (s.bytes (table + 8 * idx) 8)
/-- The local address an entry holds. -/
def pteAddr (p : W64) : Nat := fld p 12 46 * 4096
def pteLeaf (p : W64) : Bool := bit p 1
/-- The checks of one level: V, reserved bits, a leaf's place and frame, a table's device (R117). `level` is 1 to 3. -/
def State.pteCheck (s : State) (p : W64) (level : Nat) : Option WalkFault :=
  if !(bit p 0) then some .notPresent
  else if fld p 4 8 ≠ 0 then some .badPte
  else if pteLeaf p then
    if level = 1 ∨ pteAddr p % (if level = 2 then 2 ^ 30 else 2 ^ 21) ≠ 0 then some .badPte else none
  else if level = 3 ∨ fld p 58 6 ≠ s.dev.devid.toNat then some .badPte
  else none
/-- The levels from `level` on of a walk. -/
def State.walkFrom (s : State) (va table : Nat) : Nat → Nat → Walk
  | 0, _ => .fault .badPte
  | fuel + 1, level =>
    let p := s.pteAt table (bitsOf va (48 - 9 * level) 9)
    match s.pteCheck p level with
    | some f => .fault f
    | none => if pteLeaf p then .leaf p (level == 2) else s.walkFrom va (pteAddr p) fuel (level + 1)
/-- A walk of a partition's page table. -/
def State.walk (s : State) (part va : Nat) : Walk :=
  if bit (s.reg (0x328 + part)) 0 then s.walkFrom va (s.baseAt (0x328 + part) 12) 3 1 else .fault .notPresent

/-- Whether a cache entry maps a virtual address of a partition. -/
def TcEnt.hits (t : TcEnt) (part va : Nat) : Bool :=
  t.part == part && t.page == (if t.big then va / 2 ^ 30 else va / 2 ^ 21)
/-- Translation through the die's cache of 8,192 entries, where the partition's table is enabled (R123); a full cache drops its oldest entry (DESIGN
CHOICE, log 19). -/
def State.leafOf (s : State) (die part va : Nat) : State × Walk :=
  let d := s.die die
  match (if bit (s.reg (0x328 + part)) 0 then d.tc.find? (·.hits part va) else none) with
  | some t => (s, .leaf t.pte t.big)
  | none =>
    match s.walk part va with
    | .leaf p big =>
      let e : TcEnt := ⟨part, if big then va / 2 ^ 30 else va / 2 ^ 21, big, p⟩
      (s.setDie die { d with tc := (e :: d.tc).take 8192 }, .leaf p big)
    | w => (s, w)
/-- The fabric address a leaf gives a virtual address. -/
def leafAddr (p : W64) (big : Bool) (va : Nat) : W64 :=
  BitVec.ofNat 64 (fld p 58 6 * 2 ^ 58 + pteAddr p + va % (if big then 2 ^ 30 else 2 ^ 21))

/-- A run of pages that are physically contiguous and share W and C. -/
structure Piece where
  base : W64
  rows : Nat
  w : Bool
  c : Bool
  deriving DecidableEq, Repr

/-- A page added to the pieces found so far, which stand newest first. -/
def addPiece (p : Piece) : List Piece → List Piece
  | [] => [p]
  | q :: qs => if q.base + BitVec.ofNat 64 (128 * q.rows) = p.base ∧ q.w = p.w ∧ q.c = p.c then { q with rows := q.rows + p.rows } :: qs
    else p :: q :: qs

/-- The pieces of [va, va + n), newest first, or the first fault with its address (R117, R118). -/
def State.pieces (s : State) (die part va n : Nat) (write : Bool) (acc : List Piece) : Nat → State × Except (WalkFault × Nat) (List Piece)
  | 0 => (s, .ok acc)
  | fuel + 1 =>
    if n = 0 then (s, .ok acc)
    else
      match s.leafOf die part va with
      | (s, .fault f) => (s, .error (f, va))
      | (s, .leaf p big) =>
        if write ∧ bit p 2 = false then (s, .error (.prot, va))
        else
          let k := min n (2 ^ 21 - va % 2 ^ 21)
          s.pieces die part (va + k) (n - k) write (addPiece ⟨leafAddr p big va, k / 128, bit p 2, bit p 3⟩ acc) fuel
/-- The pieces of one declared range, in address order. -/
def State.rangePieces (s : State) (die part : Nat) (r : Nat × Nat × Nat) : State × Except (WalkFault × Nat) (List Piece) :=
  let n := r.2.1 * 4096
  match s.pieces die part r.1 n (decide (2 ≤ r.2.2)) [] (n / 2 ^ 21 + 2) with
  | (s, .ok ps) => (s, .ok ps.reverse)
  | x => x

/-- The extent of one piece, which begins at a virtual address. -/
def pieceExt (p : Piece) (va access : Nat) (next : Option Nat) : Extent :=
  ⟨p.base, p.rows, BitVec.ofNat 2 access, p.c, true, false, false, next.isSome, BitVec.ofNat 4 (next.getD 0), false, va, p.w⟩
/-- The pieces of range i chained: the head in ei, the others in the free extents from `free` on (R118). -/
def chain (es : List Extent) (slot free access va : Nat) : List Piece → Option (List Extent × Nat)
  | [] => some (es, free)
  | [p] => some (es.set slot (pieceExt p va access none), free)
  | p :: q :: ps =>
    if 16 ≤ free then none
    else chain (es.set slot (pieceExt p va access (some free))) free (free + 1) access (va + 128 * p.rows) (q :: ps)

/-- The extents of a record's ranges from range i on: the state with what the walks cached, and the table or the fault with its
range and address (R117 to R119). -/
def State.extentsFrom (s : State) (die part : Nat) (r : Row) (es : List Extent) (free i : Nat) :
    Nat → State × Except (WalkFault × Nat × Nat) (List Extent)
  | 0 => (s, .ok es)
  | fuel + 1 =>
    let g := trRange r i
    if g.2.1 = 0 then s.extentsFrom die part r es free (i + 1) fuel
    else
      match s.rangePieces die part g with
      | (s, .error (f, va)) => (s, .error (f, i, va))
      | (s, .ok ps) =>
        match chain es i free g.2.2 g.1 ps with
        | none => (s, .error (.extentOvf, i, g.1))
        | some (es, free) => s.extentsFrom die part r es free (i + 1) fuel
def State.extentsOf (s : State) (die part : Nat) (r : Row) : State × Except (WalkFault × Nat × Nat) (List Extent) :=
  s.extentsFrom die part r (List.replicate 16 Extent.none) 8 0 8

/-- An extent as its 16 B entry (R118). -/
def Extent.word (e : Extent) : Nat :=
  e.base.toNat + 2 ^ 64 * (e.len % 2 ^ 32) + 2 ^ 100 * (if e.conf then 1 else 0) + 2 ^ 102 * e.access.toNat +
    2 ^ 104 * (if e.valid then 1 else 0) + 2 ^ 105 * (if e.revoked then 1 else 0) + 2 ^ 106 * (if e.res then 1 else 0) +
    2 ^ 107 * (if e.chain then 1 else 0) + 2 ^ 108 * e.next.toNat
/-- A context's extents set, and its table written to the row pair that EXTBASE names (R118, log 47). -/
def extTable (n : Nat) : Nat := Config.extTab + 256 * n
def State.setExt (s : State) (n : Nat) (es : List Extent) : State :=
  (s.modCtx n fun c => { c with ext := es }).putMem (extTable n) 256 ((List.range 16).foldl (fun v i => v + 2 ^ (128 * i) * ((es[i]?).getD Extent.none).word) 0)

end Sys2Proof.Machine
end

