-- ==== Sys2Proof/Machine/Matrix.lean ====
section
/-! DEFINITION. The MX and KT slots and the matrix engine: issue, queues, operand fetch, results, known-answer tiles, migration
(R141 to R145, R184, R214 to R216, R340 to R354). -/

namespace Sys2Proof.Machine

/-! What a command reads and writes (R144). -/

/-- Accumulator tiles a command reads, and writes. -/
def mxReadTiles (c : MxCmd) : List Nat :=
  let t := c.a.tile.toNat
  let u := c.a.arow.toNat % 8
  match c.op with
  | 1 | 2 | 4 | 7 => if c.a.acc then [t] else []
  | 5 | 6 | 9 | 10 | 11 | 12 | 14 => [t]
  | 8 => [t, u]
  | 13 | 15 => [u]
  | _ => []
def mxWriteTiles (c : MxCmd) : List Nat :=
  match c.op with
  | 0 | 5 | 6 | 12 | 16 => []
  | _ => [c.a.tile.toNat]
def rowRange (r n : Nat) : List Nat := (List.range n).map fun t => (r + t) % Config.spRows
/-- Scratchpad rows a command reads, and writes. -/
def mxReadRows (c : MxCmd) : List Nat :=
  match c.op with
  | 1 | 2 =>
    (if c.a.ga then [] else rowRange c.a.arow.toNat (aRows c.a)) ++ (if c.a.gb then [] else rowRange c.a.brow.toNat (bRows c.op c.a)) ++
      (if c.op = 2 then rowRange (metaRow c) (mRows c.a) else [])
  | 4 => rowRange c.a.arow.toNat (packRows c.a.fmta.toNat)
  | 10 => rowRange c.a.arow.toNat 1
  | _ => []
def mxWriteRows (c : MxCmd) : List Nat :=
  match c.op with
  | 5 => rowRange c.a.arow.toNat (packRows c.a.fmta.toNat)
  | 12 => rowRange c.a.arow.toNat 1
  | _ => []
def meets (a b : List Nat) : Bool := a.any b.contains
/-- Whether two commands conflict (R143, R144). -/
def mxConflict (c o : MxCmd) : Bool :=
  meets (mxWriteTiles c) (mxReadTiles o ++ mxWriteTiles o) || meets (mxReadTiles c) (mxWriteTiles o) ||
    meets (mxWriteRows c) (mxReadRows o ++ mxWriteRows o) || meets (mxReadRows c) (mxWriteRows o)
/-- The commands whose busy records core n keeps (R144, R145, R216). -/
def Core.busy (k : Core) (n : Nat) : List MxCmd :=
  ((k.q0 ++ k.q1).filter (·.home == n)) ++ (match k.eng with | some w => if w.c.home = n then [w.c] else [] | none => []) ++
    k.out.map (·.c) ++ k.back.map (·.c) ++ k.guarded.map (·.1)
/-- Whether matrix commands of a context are not complete; what R216 still holds has completed, and adjoint commands are their walk's. -/
def State.mxBusy (s : State) (ctx n : Nat) : Bool :=
  let k := s.core n
  ((k.q0 ++ k.q1) ++ (match k.eng with | some w => [w.c] | none => []) ++ k.out.map (·.c) ++ k.back.map (·.c)).any fun c =>
    c.ctx == ctx && c.home == n && c.op != 16

/-! Issue (R340, R343, R344, R347). -/

/-- A matrix command of the issuing context with its captured values. -/
def State.mxCmd (s : State) (op : Nat) (a : XArgs) (kat : Option (Nat × Nat × Nat)) : MxCmd :=
  let sval := s.rdS a.s
  { op := op, a := a, ctx := s.act
    q1 := !s.hidden && (match s.me.task with | some t => decide (4 ≤ t.prio) | none => false)
    sval := sval
    regs := if op = 6 ∨ op = 7 then (List.range 32).map fun i => s.phys (a.arow.toNat % 2 ^ 11 + i) else []
    kreg := s.rdK (BitVec.ofNat 5 a.s.toNat)
    desc := if a.ga || a.gb then (s.pairAt (sval.toNat % Config.spRows)).truncate 1024 else 0
    kat := kat, home := s.coreNo, logRow := none, modes := []
    id := s.dev.mxIds, entered := s.dev.mxIds, tgt := s.cur
    serial := match s.tgt.task with | some t => t.serial | none => 0
    ready := ((s.timed.filter fun t => t.store && t.ctx == s.act && (t.core == s.coreNo || a.ga || a.gb)).map (·.due + 1)).foldl max
      (s.clk + 3)
    ops := s.me.ops, rows := [], bad := none, asked := none, stopped := false, tick := s.me.schc }

/-- The descriptor check of R347 for one operand. -/
def tdOk (d : Row) (b g : Bool) : Bool :=
  let sp := tdSpace d b
  let e := tdExt d b
  (if g then decide (1 ≤ sp) && decide (sp ≤ 3) else sp == 0) && (if sp = 2 then decide (e ≤ 15) else e == 0) &&
    trF d (if b then 0x1A else 0x0A) 6 == 0
/-- What a fetched operand's rows find at issue: EXTBOUND or PEERGONE with their TVAL (R347). -/
def State.tdRange (s : State) (d : Row) (b : Bool) (n : Nat) : Option (Nat × Nat) :=
  match tdSpace d b with
  | 1 => psTrap (fun k => tdAddr d b + k) n
  | 2 =>
    let offs := (List.range n).map (tdAddr d b + ·)
    match offs.find? fun o => extRow s.tgt false (tdExt d b) o == .bound with
    | some o => some (0x04, extTval (tdExt d b) o)
    | none => offs.findSome? fun o =>
      match extRow s.tgt false (tdExt d b) o with
      | .at x => if s.reach x then none else some (0x0A, x.toNat)
      | _ => none
  | _ => none
/-- The bank groups an operand covers (R343). -/
def bankGroups (r n : Nat) : List Nat := (rowRange r n).map fun x => x / 8192
/-- The ILLEGAL checks that need captured values (R346, R347). -/
def mxIllegal (c : MxCmd) : Bool :=
  if c.a.ga || c.a.gb then
    !(tdOk c.desc false c.a.ga && tdOk c.desc true c.a.gb && c.desc.toNat / 2 ^ (8 * 0x23) == 0 &&
      (if c.op = 2 then trF c.desc 0x20 2 % 2 == 0 && decide (trF c.desc 0x20 2 < 2 ^ 15) else trF c.desc 0x20 2 == 0))
  else c.op == 2 && metaRow c % 2 == 1
/-- The ownership check (R184, R186): none when the command may issue. -/
def State.accuse (s : State) (ctx : Nat) : Bool :=
  let c := s.ctx ctx
  let own := (s.core (ctx / 4)).accown
  match c.task with
  | none => false
  | some t => c.tileMark || (if bit own 63 then fld own 0 48 != t.serial % 2 ^ 48 else bit own 61)
/-- ACCUSE's TVAL: the lowest tile named, and the tile mark. -/
def State.accuseTval (s : State) (c : MxCmd) : Nat :=
  ((mxReadTiles c ++ mxWriteTiles c).foldl min 7) + (if (s.ctx c.ctx).tileMark then 2 ^ 8 else 0)
/-- The checks of an MX command in order: ILLEGAL, the descriptor's rows, BANKCONF, ACCUSE. -/
def State.mxTrap (s : State) (i : Instr) (c : MxCmd) : Option (Nat × Nat) :=
  let a := c.a
  if mxIllegal c then some (0x01, slotTval i)
  else
    match both (if a.ga then s.tdRange c.desc false (aRows a) else none) (if a.gb then s.tdRange c.desc true (bRows c.op a) else none) with
    | some t => some t
    | none =>
      if (c.op = 1 ∨ c.op = 2) ∧ a.ga = false ∧ a.gb = false ∧
          meets (bankGroups a.arow.toNat (aRows a)) (bankGroups a.brow.toNat (bRows c.op a)) then
        some (0x07, a.arow.toNat + 2 ^ 16 * a.brow.toNat)
      else if !s.hidden && s.accuse s.act then some (0x08, s.accuseTval c)
      else none
/-- Whether the queue of a command is full (R142). -/
def State.mxFull (s : State) (c : MxCmd) : Bool := decide (8 ≤ (if c.q1 then (s.core c.home).q1 else (s.core c.home).q0).length)
/-- Whether a TA2V or TV2A waits for a landing-buffer entry of one of its registers (R349). -/
def State.mxLanding (s : State) (c : MxCmd) : Bool :=
  s.me.land.any fun e => (e.kind == .vec || e.kind == .row) && c.regs.contains e.dest
def State.mxHold (s : State) (c : MxCmd) : Bool := s.mxFull c || s.mxLanding c

/-- All eight tiles cleared and DIRTY with them. -/
def Core.clearTiles (k : Core) : Core := { k with acc := [], accPoison := 0, accdirty := 0 }
/-- The store claimed for the issuing context, or its owner named anew after a save (R184). -/
def State.claimFor (s : State) (n : Nat) : State :=
  match (s.ctx n).task with
  | none => s
  | some t =>
    let k := s.core (n / 4)
    let named := setFld (setFld (setFld k.accown 62 1 0) 48 2 (n % 4)) 0 48 t.serial
    if bit k.accown 63 then (if bit k.accown 62 then s.setCore (n / 4) { k with accown := named } else s)
    else s.setCore (n / 4) { k.clearTiles with accown := setFld named 63 1 1 }
/-- The issuing context's claim; the handler's own commands claim nothing. -/
def State.claim (s : State) : State := if s.hidden then s else s.claimFor s.cur
/-- Whether the command of a number waits or runs on a core. -/
def Core.mxHas (k : Core) (id : Nat) : Bool := (k.q0 ++ k.q1).any (·.id == id) || (match k.eng with | some w => w.c.id == id | none => false)
/-- A command put into its queue. -/
def State.mxPush (s : State) (c : MxCmd) : State :=
  let s := { s with dev := { s.dev with mxIds := s.dev.mxIds + 1 } }
  s.modCore c.home fun k => if c.q1 then { k with q1 := k.q1 ++ [c] } else { k with q0 := k.q0 ++ [c] }
/-- The 64 bits of a slot's parcel. -/
def parcelBits (i : Instr) : Nat := match encSlot i with | some (_, v) => v | none => 0
/-- The command recorded: its entry's header appended, its slots' modes kept for the copies (R340, R376). -/
def State.logMx (s : State) (i : Instr) (c : MxCmd) : State × MxCmd :=
  if !s.recording then (s, c)
  else
    let p := s.planMx c
    let h := logHead s.me
    let modes := p.slots.map fun o => match o with | some (_, m, _) => m | none => 0
    (s.logAppend c.ctx (parcelBits i) false (mxScal c) (if c.op = 9 then c.kreg.toNat else 0) p, { c with logRow := some h, modes := modes })
/-- The effect of an MX command at issue (R340). -/
def State.mxIssue (s : State) (i : Instr) (c : MxCmd) : State :=
  let s := if s.hidden then s else s.claim
  let r := s.logMx i c
  (r.1.mxPush r.2).pairUsed
/-- An MX command alone: its trap, a hold, or its issue. -/
def State.mxGo (s : State) (i : Instr) (op : Nat) (a : XArgs) : Host.Outcome State Fault Refusal :=
  let c := s.mxCmd op a none
  match s.mxTrap i c with
  | some t => issue s (some t) s
  | none =>
    if s.mxHold c then .next s
    else gsOut s (s.logCheck (s.logLen (some c) none)) fun _ => s.mxIssue i c

/-- TMUL (R345). -/
def execTmul (a : XArgs) (s : State) : Host.Outcome State Fault Refusal := s.mxGo (.tmul a) 1 a
/-- TMULS (R346). -/
def execTmuls (a : XArgs) (s : State) : Host.Outcome State Fault Refusal := s.mxGo (.tmuls a) 2 a
/-- TZERO (R349). -/
def execTzero (a : XArgs) (s : State) : Host.Outcome State Fault Refusal := s.mxGo (.tzero a) 3 a
/-- TLDA (R349). -/
def execTlda (a : XArgs) (s : State) : Host.Outcome State Fault Refusal := s.mxGo (.tlda a) 4 a
/-- TSTA (R349). -/
def execTsta (a : XArgs) (s : State) : Host.Outcome State Fault Refusal := s.mxGo (.tsta a) 5 a
/-- TA2V (R349). -/
def execTa2v (a : XArgs) (s : State) : Host.Outcome State Fault Refusal := s.mxGo (.ta2v a) 6 a
/-- TV2A (R349). -/
def execTv2a (a : XArgs) (s : State) : Host.Outcome State Fault Refusal := s.mxGo (.tv2a a) 7 a
/-- TADD (R350). -/
def execTadd (a : XArgs) (s : State) : Host.Outcome State Fault Refusal := s.mxGo (.tadd a) 8 a
/-- TSCALE (R350). -/
def execTscale (a : XArgs) (s : State) : Host.Outcome State Fault Refusal := s.mxGo (.tscale a) 9 a
/-- TBIAS (R350). -/
def execTbias (a : XArgs) (s : State) : Host.Outcome State Fault Refusal := s.mxGo (.tbias a) 10 a
/-- TACT (R350). -/
def execTact (a : XArgs) (s : State) : Host.Outcome State Fault Refusal := s.mxGo (.tact a) 11 a
/-- TRED (R351). -/
def execTred (a : XArgs) (s : State) : Host.Outcome State Fault Refusal := s.mxGo (.tred a) 12 a
/-- TTRANS (R349). -/
def execTtrans (a : XArgs) (s : State) : Host.Outcome State Fault Refusal := s.mxGo (.ttrans a) 13 a
/-- TNORM (R352). -/
def execTnorm (a : XArgs) (s : State) : Host.Outcome State Fault Refusal := s.mxGo (.tnorm a) 14 a
/-- TCOPY (R349). -/
def execTcopy (a : XArgs) (s : State) : Host.Outcome State Fault Refusal := s.mxGo (.tcopy a) 15 a

def noXArgs : XArgs := ⟨0, 0, false, false, false, 0, 0, 0, false, 0, 0, 0⟩
/-- KAT: into the matrix queue of its context's class; it takes no busy record and is not checked against ACCOWN (R353). -/
def execKat (pattern : BitVec 4) (seed : BitVec 16) (crc : W32) (s : State) : Host.Outcome State Fault Refusal :=
  let c := s.mxCmd 0 noXArgs (some (pattern.toNat, seed.toNat, crc.toNat))
  .next (if s.mxFull c then s else s.mxPush c)

/-! Operand fetch (R347, R348). -/

/-- Rows that a command fetches through its descriptor. -/
def fetchTotal (c : MxCmd) : Nat := (if c.a.ga then aRows c.a else 0) + (if c.a.gb then bRows c.op c.a else 0)
/-- What the address of a fetched row is, and whether its page has the C attribute (R38). -/
inductive FetchAt where
  | at (x : W64) (conf : Bool)
  | wait
  | fault (cause : Nat) (tval : W64)
  deriving DecidableEq, Repr
/-- The address of fetched row k: A's rows, then B's. -/
def State.fetchAddr (s : State) (c : MxCmd) (k : Nat) : State × FetchAt :=
  let na := if c.a.ga then aRows c.a else 0
  let b := decide (na ≤ k)
  let i := if b then k - na else k
  match tdSpace c.desc b with
  | 1 => (s, .at (s.here (psAddr (panelOfCore c.home) (tdAddr c.desc b + i))) false)
  | 2 =>
    match extRow (s.ctx c.tgt) false (tdExt c.desc b) (tdAddr c.desc b + i) with
    | .at x => (s, if s.reach x then .at x ((s.ctx c.tgt).confAt x) else .fault 0x0A x)
    | .revoked => (s, .wait)
    | _ => (s, .fault 0x05 (BitVec.ofNat 64 (extTval (tdExt c.desc b) (tdAddr c.desc b + i))))
  | _ =>
    let va := tdAddr c.desc b / 128 * 128 + 128 * i
    let part := match (s.ctx c.tgt).task with | some t => t.part | none => 0
    match s.leafOf (dieOfCore c.home) part va with
    | (s, .leaf p big) => let x := leafAddr p big va; (s, if s.reach x then .at x (bit p 3) else .fault 0x0A x)
    | (s, .fault _) => (s, .fault 0x06 (BitVec.ofNat 64 va))
/-- The store queue entries before a command that its operand reads wait for (R341): those whose home is this scratchpad, or all
of them for fetched operands. -/
def State.storesBefore (s : State) (c : MxCmd) : Bool :=
  (s.ctx c.ctx).q.any fun q => q.isStore && q.st != .dead && decide (q.op ≤ c.ops) &&
    (c.a.ga || c.a.gb || (devOf q.addr == s.dev.devid.toNat && homeOf (localOf q.addr) == .sp c.home))
/-- The operand fetcher at work on one command: rows of this device at once, one READ at a time for another device's. -/
def State.mxFetch (s : State) (c : MxCmd) : Nat → State × MxCmd
  | 0 => (s, c)
  | fuel + 1 =>
    if fetchTotal c ≤ c.rows.length ∨ c.stopped = true ∨ c.asked.isSome = true then (s, c)
    else
      match s.fetchAddr c c.rows.length with
      | (s, .wait) => (s, c)
      | (s, .fault cause tval) => (s.mxFault c cause tval, { c with stopped := true })
      | (s, .at x conf) =>
        if devOf x = s.dev.devid.toNat then
          let r := s.loadLocal (localOf x)
          r.1.mxFetch { c with rows := c.rows ++ [r.2.1], bad := c.bad.orElse fun _ => r.2.2 } fuel
        else
          let part := match (s.ctx c.tgt).task with | some t => t.part | none => 0
          let op := (s.ctx c.ctx).ops + 1
          let f := s.flit 1 2 c.home (c.ctx % 4) part x (tagOf c.ctx op 0) 0 conf 0 0
          match (s.modCtx c.ctx fun k => { k with ops := op }).inject c.home (devOf x) f with
          | some s => (s, { c with asked := some op })
          | none => (s.mxFault c 0x0A x, { c with stopped := true })
/-- The fetch of both queue heads of a core goes on. -/
def State.mxFetchHeads (s : State) (n : Nat) : State :=
  let one (s : State) (q1 : Bool) : State :=
    match (if q1 then (s.core n).q1 else (s.core n).q0) with
    | [] => s
    | c :: rest =>
      if fetchTotal c = 0 ∨ c.home ≠ n ∨ s.cyc (4 * n) < c.ready ∨ s.storesBefore c = true then s
      else
        let r := s.mxFetch c 64
        r.1.modCore n fun k => if q1 then { k with q1 := r.2 :: rest } else { k with q0 := r.2 :: rest }
  one (one s false) true

/-- Whether the record engine's buffer of 64 KiB is full: rows of entries that have not performed, of the core's contexts (R376)
(DEDUCED, log 115). -/
def State.logFull (s : State) (n : Nat) : Bool :=
  let rows (m : Nat) : Nat := ((s.ctx m).q.filter fun q => match q.what with | .log _ _ => true | _ => false).length
  decide (512 ≤ rows (4 * n) + rows (4 * n + 1) + rows (4 * n + 2) + rows (4 * n + 3))
/-- Whether a command may start: its operands are present, no earlier conflicting command stands in its way, running ones and what a
migrated one still holds included, and the record engine can take its entry (R143 to R145, R376, R377) (DEDUCED, log 72). -/
def State.mxPresent (s : State) (n : Nat) (c : MxCmd) : Bool :=
  if c.home ≠ n ∨ c.op = 0 ∨ c.op = 16 then true
  else
    let k := s.core n
    decide (c.ready ≤ s.cyc (4 * n)) && !s.storesBefore c && fetchTotal c == c.rows.length &&
      !((if c.q1 then k.q0 else k.q1).any fun o => decide (o.id < c.id) && o.home == n && mxConflict c o) &&
      !(match k.eng with | some w => w.c.home == n && mxConflict c w.c | none => false) &&
      !(k.out.any fun w => mxConflict c w.c) && !(k.back.any fun w => mxConflict c w.c) && !(k.guarded.any fun g => g.2 != n && mxConflict c g.1) &&
      !(c.logRow.isSome && (s.logFull n || k.guarded.any fun g => meets (mxReadTiles c) (mxWriteTiles g.1) || meets (mxReadRows c) (mxWriteRows g.1)))

/-! Inputs (R341). -/

/-- A scratchpad row read by the matrix engine, with poison found on the way. -/
def State.mxRow (s : State) (n r : Nat) (bad : Option (Nat × W64)) : State × Row × Option (Nat × W64) :=
  let s := s.injRow (spAddr n r)
  (s, s.rawRow (spAddr n r), bad.orElse fun _ => s.poisonOf (spAddr n r))
def State.mxRowList (s : State) (n : Nat) (bad : Option (Nat × W64)) : List Nat → State × List Row × Option (Nat × W64)
  | [] => (s, [], bad)
  | r :: rs =>
    let x := s.mxRow n r bad
    let y := x.1.mxRowList n x.2.2 rs
    (y.1, x.2.1 :: y.2.1, y.2.2)
/-- A tile's rows; array 4 is where an armed error may name them (R209, R213). -/
def State.mxTile (s : State) (n ctx t : Nat) (bad : Option (Nat × W64)) : State × List Row × Option (Nat × W64) :=
  let r := (List.range 32).foldl (fun (a : State × Bool) i =>
    let x := a.1.injReg 4 (4 * n + ctx % 4) (32 * t + i); (x.1, a.2 || x.2)) (s, false)
  let k := r.1.core n
  (r.1, (List.range 32).map fun i => k.acc.get 0 (32 * t + i),
    bad.orElse fun _ => if r.2 || k.accPoison.getLsbD t then some (4, BitVec.ofNat 64 (n * 2 ^ 13 + ctx % 4 * 2 ^ 11 + 32 * t)) else none)
/-- The inputs a command reads when it starts. -/
def State.mxInputs (s : State) (c : MxCmd) : State × WinEnt :=
  let n := c.home
  let t := c.a.tile.toNat
  let acc (s : State) (bad : Option (Nat × W64)) : State × List Row × Option (Nat × W64) :=
    if (mxReadTiles c).contains t then s.mxTile n c.ctx t bad else (s, (List.range 32).map fun i => (s.core n).acc.get 0 (32 * t + i), bad)
  match c.op with
  | 1 | 2 =>
    let A := if c.a.ga then (s, c.rows.take (aRows c.a), c.bad) else s.mxRowList n c.bad (rowRange c.a.arow.toNat (aRows c.a))
    let B := if c.a.gb then (A.1, c.rows.drop (if c.a.ga then aRows c.a else 0), A.2.2)
      else A.1.mxRowList n A.2.2 (rowRange c.a.brow.toNat (bRows c.op c.a))
    let M := if c.op = 2 then B.1.mxRowList n B.2.2 (rowRange (metaRow c) (mRows c.a)) else (B.1, [], B.2.2)
    let T := acc M.1 M.2.2
    (T.1, ⟨c, A.2.1, B.2.1, M.2.1, T.2.1, T.2.2, 0⟩)
  | 4 | 10 =>
    let A := s.mxRowList n none (mxReadRows c)
    let T := acc A.1 A.2.2
    (T.1, ⟨c, A.2.1, [], [], T.2.1, T.2.2, 0⟩)
  | 7 =>
    let T := acc s none
    (T.1, ⟨c, c.regs.map fun p => (s.ctx c.tgt).v.get 0 p, [], [], T.2.1, T.2.2, 0⟩)
  | 8 | 13 | 15 =>
    let U := s.mxTile n c.ctx (c.a.arow.toNat % 8) none
    let T := acc U.1 U.2.2
    (T.1, ⟨c, U.2.1, [], [], T.2.1, T.2.2, 0⟩)
  | _ =>
    let T := acc s none
    (T.1, ⟨c, [], [], [], T.2.1, T.2.2, 0⟩)

/-- The start of a command with its inputs: its copies go to the log, poison it reads is consumed by its context (R210). -/
def State.mxBegin (s : State) (n : Nat) (w : WinEnt) : State :=
  let s := s.logCopies w
  let s := s.modCore n fun k => { k with eng := some w }
  match w.poison with
  | none => s
  | some p =>
    if (s.ctx w.c.ctx).task.isSome ∨ 2048 ≤ w.c.ctx then
      s.modCtx w.c.ctx fun c => { c with poisoned := some (c.poisoned.getD p) }
    else s
/-- The head of a queue leaves it and starts. A migrated-in command finds its inputs in its home's list (R145). -/
def State.mxStart (s : State) (n : Nat) (q1 : Bool) : State :=
  match (if q1 then (s.core n).q1 else (s.core n).q0) with
  | [] => s
  | c :: rest =>
    let s := s.modCore n fun k => { k with q0 := if q1 then k.q0 else rest, q1 := if q1 then rest else k.q1, started := s.cyc (4 * n) }
    if c.op = 0 ∨ c.op = 16 then s.modCore n fun k => { k with eng := some ⟨c, [], [], [], [], none, 0⟩ }
    else if c.home ≠ n then
      match (s.core c.home).out.find? (·.c.id == c.id) with
      | some w => s.modCore n fun k => { k with eng := some w }
      | none => s
    else
      let r := s.mxInputs c
      r.1.mxBegin n r.2

/-- MATRIX_COMMAND_START (R142, R143, R348). `unit`: the core. A free engine starts the head of Q0 if its operands are present, else
the head of Q1; a suspect engine starts nothing (R215). -/
def execMatrixCommandStart (s : State) : Host.Outcome State Fault Refusal :=
  let n := s.unit
  if (s.core n).suspect ∨ (s.core n).eng.isSome ∨ s.stepHeld n = true then .next s
  else
    let s := s.mxFetchHeads n
    let ok (q : List MxCmd) : Bool := match q with | c :: _ => s.mxPresent n c | [] => false
    .next (if ok (s.core n).q0 then s.mxStart n false else if ok (s.core n).q1 then s.mxStart n true else s)

/-! Results (R341, R202, R209). -/

/-- The results of a command written at its home core (DEDUCED, log 79). -/
def State.mxWrite (s : State) (w : WinEnt) : State :=
  let o := mxOut w
  let n := w.c.home
  let t := w.c.a.tile.toNat
  let bad := w.poison.isSome
  let s := if o.tile.isEmpty then s
    else s.modCore n fun k => { k with
      acc := o.tile.foldl (fun m r => m.put (32 * t + r.1) r.2) k.acc
      accdirty := k.accdirty ||| BitVec.ofNat 64 (2 ^ t)
      accPoison := if bad then k.accPoison ||| BitVec.ofNat 8 (2 ^ t)
        else if o.tile.length = 32 then k.accPoison &&& ~~~(BitVec.ofNat 8 (2 ^ t)) else k.accPoison }
  let s := o.sp.foldl (fun s r => s.storeMem (spAddr n r.1) r.2 fullMask bad) s
  let live : Bool := match (s.ctx w.c.tgt).task with | some t => t.serial == w.c.serial | none => false
  let s := if live ∧ bad = false then o.regs.foldl (fun s r => s.modCtx w.c.tgt fun c => { c with v := c.v.put r.1 r.2 }) s else s
  if o.sat ∧ live then
    let s := s.raise w.c.tgt 32
    if fld (s.ctx w.c.tgt).csr.fpmode 13 1 = 1 then s.report w.c.ctx 0x10 (BitVec.ofNat 64 (32 + 7 * 2 ^ 8)) else s
  else s
/-- Busy records held under R216 that an event at core n releases, wherever their home is. -/
def State.mxRelease (s : State) (n : Nat) (p : MxCmd → Bool) : State :=
  { s with cores := mapVals (fun k => { k with guarded := k.guarded.filter fun g => !(g.2 == n && p g.1) }) s.cores }
/-- A command enters the window of the engine that ran it; the fifth falls out, and its records clear (R215, R216). -/
def State.mxWindow (s : State) (n : Nat) (w : WinEnt) : State :=
  let s := s.modCore n fun k => { k with window := w :: k.window }
  let gone := (s.core n).window.drop 4
  (s.modCore n fun k => { k with window := k.window.take 4 }).mxRelease n fun c => gone.any fun g => g.c.id == c.id
/-- The home records of a command whose result has landed: kept under R216 while the running core's GUARD is set. -/
def State.mxHoldRec (s : State) (runner : Nat) (c : MxCmd) : State :=
  if bit (s.core runner).katcfg 4 ∧ (s.core runner).window.any (fun w => w.c.id == c.id) then
    s.modCore c.home fun k => { k with guarded := k.guarded ++ [(c, runner)] }
  else s

/-- CRC-32C of a KAT's result tile (R214, R353, R354). -/
def katCrc (pattern seed : Nat) : W32 :=
  let ops := katOps pattern seed
  let f := katFmt pattern
  let n := mxRows f
  let a : XArgs := { noXArgs with fmta := BitVec.ofNat 4 f, fmtb := BitVec.ofNat 4 f }
  let c : MxCmd := ⟨1, a, 0, false, 0, [], 0, 0, none, 0, none, [], 0, 0, 0, 0, 0, 0, [], none, none, false, 0⟩
  let w : WinEnt := ⟨c, rowsOf ops.1 n, rowsOf ops.2 n, [], [], none, 0⟩
  outCrc w (outMul w)
/-- A mismatch: a record of kind 5 and MISS (R215). -/
def State.katMiss (s : State) (n : Nat) (c : MxCmd) (crc : W32) : State :=
  let s := s.errRecord (BitVec.ofNat 64 (n * 2 ^ 13 + c.ctx % 4 * 2 ^ 11)) 12 5 false (crc.toNat % 2 ^ 16) (if 2048 ≤ c.ctx then noCtx else c.ctx)
  s.modCore n fun k => { k with katcfg := bumpSat k.katcfg 8 16 }
def State.katMisses (s : State) (n : Nat) (c : MxCmd) (crc : W32) : Nat → State
  | 0 => s
  | m + 1 => (s.katMiss n c crc).katMisses n c crc m
/-- A KAT ends: a match releases the records of the commands that entered its queue before it; a mismatch is replayed RETRY times,
each with the same result, and the engine is suspect (R214 to R216) (DESIGN CHOICE, log 80). -/
def State.katEnd (s : State) (n : Nat) (c : MxCmd) : State :=
  let p := c.kat.getD (0, 0, 0)
  let crc := katCrc p.1 p.2.1
  if crc.toNat = p.2.2 then s.mxRelease n fun g => g.q1 == c.q1 && decide (g.entered < c.entered)
  else
    let retry := fld (s.core n).katcfg 0 4
    let s := s.katMisses n c crc (retry + 1)
    (s.modCore n fun k => { k with suspect := true }).reportTask c.ctx c.serial 0x0C (BitVec.ofNat 64 (crc.toNat + 2 ^ 32 * retry))

/-- MATRIX_COMMAND_COMPLETE (R341). `unit`: the core. -/
def execMatrixCommandComplete (s : State) : Host.Outcome State Fault Refusal :=
  let n := s.unit
  match (if s.stepHeld n then none else (s.core n).eng) with
  | none => .next s
  | some w =>
    let s := s.modCore n fun k => { k with eng := none }
    if w.c.op = 0 then .next (s.katEnd n w.c)
    else if w.c.op = 16 then .next (s.mxWindow n w)
    else
      let w := { w with crc := outCrc w (mxOut w) }
      if w.c.home = n then .next (((s.mxWrite w).mxWindow n w).mxHoldRec n w.c)
      else .next ((s.modCore w.c.home fun k => { k with
        out := k.out.filter (·.c.id != w.c.id)
        back := k.back ++ [{ w with c := { w.c with asked := some n } }] }).mxWindow n w)

/-- GUARD_RELEASE: after 64 cycles in which the engine has started nothing (R216). `unit`: the core. -/
def execGuardRelease (s : State) : Host.Outcome State Fault Refusal :=
  let k := s.core s.unit
  .next (if k.eng = none ∧ k.started + 64 ≤ s.cyc (4 * s.unit) then s.mxRelease s.unit fun _ => true else s)

/-! Migration (R145). -/

/-- The mesh neighbours of a core within its panel, ascending. -/
def neighbours (n : Nat) : List Nat :=
  [n - 8, n - 1, n + 1, n + 8].filter fun m =>
    m / 64 == n / 64 && panelOfCore m == panelOfCore n &&
      ((coreX m == coreX n && (m + 8 == n || n + 8 == m)) || (coreY m == coreY n && (m + 1 == n || n + 1 == m)))
/-- Whether a core takes migrated commands now. -/
def State.takesMigrants (s : State) (m : Nat) : Bool :=
  let k := s.core m
  s.map.cores.getLsbD m && bit k.migcfg 1 && k.eng.isNone && k.q0.isEmpty && k.q1.isEmpty
/-- MIGRATE: the head of a queue goes to a neighbour, with its operand rows (R145, R377). -/
def execMigrate (core : Nat) (q1 : Bool) (s : State) : Host.Outcome State Fault Refusal :=
  let k := s.core core
  match (if q1 then k.q1 else k.q0) with
  | [] => .next s
  | c :: rest =>
    if (c.op = 1 ∨ c.op = 2) ∧ c.a.m = true ∧ c.a.acc = false ∧ c.home = core ∧ bit k.migcfg 0 = true ∧
        k.out.length + k.back.length < fld k.migcfg 8 4 ∧ k.eng.isSome = true ∧ s.stepHeld core = false ∧ s.mxPresent core c = true then
      match (neighbours core).find? s.takesMigrants with
      | none => .next s
      | some m =>
        let r := s.mxInputs c
        let s := r.1.logCopies r.2
        let s := match r.2.poison with
          | some p => if (s.ctx c.ctx).task.isSome then s.modCtx c.ctx fun x => { x with poisoned := some (x.poisoned.getD p) } else s
          | none => s
        let s := s.modCore core fun k => { k with
            q0 := if q1 then k.q0 else rest
            q1 := if q1 then rest else k.q1
            out := k.out ++ [r.2] }
        let s := { s with dev := { s.dev with mxIds := s.dev.mxIds + 1 } }
        let c := { c with entered := s.dev.mxIds, logRow := none }
        .next (s.modCore m fun k => if q1 then { k with q1 := k.q1 ++ [c] } else { k with q0 := k.q0 ++ [c] })
    else .next s
/-- MIGRATED_RESULT_RETURN: the result rows land in the home tile (R145). `unit`: the home core. -/
def execMigratedResultReturn (s : State) : Host.Outcome State Fault Refusal :=
  match (if s.stepHeld s.unit then [] else (s.core s.unit).back) with
  | [] => .next s
  | w :: rest =>
    let s := (s.modCore s.unit fun k => { k with back := rest }).mxWrite w
    .next (s.mxHoldRec (w.c.asked.getD s.unit) { w.c with asked := none })

end Sys2Proof.Machine
end

