-- ==== Sys2Proof/Machine/Access.lean ====
section
/-! DEFINITION. Accesses as they perform: the queues of a context, requests and answers of other devices, sync engines, the host
and rendezvous (R135, R152 to R163, R209, R211, R284, R285, R410). -/

namespace Sys2Proof.Machine

/-! Order of the queues (R156, R157, R159, R163). -/

/-- A row's identity: sync addresses that differ in VIEW name the same words. -/
def rowKey (x : W64) : Nat := if fld x 52 4 = 15 then (setFld x 56 2 0).toNat / 128 else x.toNat / 128
/-- The rows an entry accesses. -/
def accRows (q : QAcc) : List Nat :=
  match q.what with
  | .mark => []
  | .qld _ _ _ _ rows => rows.map fun r => rowKey r.1
  | _ => [rowKey q.addr]
def isMark (q : QAcc) : Bool := match q.what with | .mark => true | _ => false
/-- Whether an earlier entry p keeps a later entry q of the same context from performing. An entry over a revoked piece has no address yet. A MARK
orders the stores of earlier bundles, not those of its own (R159, log 73). -/
def blocks (p q : QAcc) : Bool :=
  p.st != .dead &&
    (if p.ext || q.ext then true else if isMark p then q.isLoad else if isMark q then p.isStore && decide (p.iss < q.iss)
    else (p.isLoad && q.isLoad) || (p.isStore && q.isStore) || meets (accRows p) (accRows q))
/-- Whether the stores a decrement of a trigger waits for have performed (R163): those of a context's ended tasks stand in its queue, or, where a later
task of the context has been saved, in that save's. -/
def State.decFree (s : State) (q : QAcc) : Bool :=
  match q.what with
  | .dec after => after.all fun m =>
    let out (q : List QAcc) : Bool := q.any fun p => p.isStore && p.st != .dead && decide (p.op ≤ m.2)
    !(out (s.ctx m.1).q) && !(s.saves.any fun v => v.2.ctx == m.1 && out v.2.q)
  | _ => true
/-- Whether entry `pos` of a holder's queue may perform now: not before cycle c + 10, nor before the timed accesses issued up to
its cycle. -/
def State.mayPerform (s : State) (n pos : Nat) : Bool :=
  let c := s.holder n
  match c.q[pos]? with
  | none => false
  | some q =>
    q.st == .waiting && (isMark q || decide (q.iss + 10 ≤ s.cyc (s.holderKey n))) && !(s.timed.any fun t => t.ctx == s.holderKey n && decide (t.iss ≤ q.iss)) &&
      !((c.q.take pos).any fun p => blocks p q) && s.decFree q

/-! Arrival times (R135). -/

/-- Bridge hops of the path between two dies (R25). -/
def State.hops (s : State) (a b : Nat) : Nat := ((List.range 8).find? fun n => (s.within n [b]).contains a).getD 0
/-- A load's published arrival time in cycles, with an idle network, for a home of this device. -/
def State.arrivalTime (s : State) (core a : Nat) : Nat :=
  let h := homeOf a
  let far := 44 * s.hops (dieOfCore core) h.die
  match h with
  | .sync _ => 48 + far
  | .sp _ | .ps _ => 40 + far
  | .hbm _ => 280 + far
  | _ => 600
/-- The bound that a context's loop waits for is read as its run starts (R69, R147); it arrives as a load of the word would (DESIGN CHOICE, log 129). -/
def State.liveAsk (s : State) (n : Nat) : State :=
  match (s.ctx n).lp with
  | none => s
  | some l =>
    match l.nest.await, l.live with
    | some k, none =>
      let a := l.nest.liveAddr.getD k 0
      let r := s.liveRead a
      let late := if devOf a = s.dev.devid.toNat then s.arrivalTime (n / 4) (localOf a) else 1400
      r.1.modCtx n fun c => { c with lp := some { l with live := some (s.cyc n + late, r.2) } }
    | _, _ => s
/-- A LIVE bound that has arrived. -/
def Ctx.liveGot (c : Ctx) (now : Nat) : Ctx :=
  match c.lp with
  | none => c
  | some l =>
    match l.live with
    | some (t, v) => if t ≤ now then { c with lp := some { l with nest := nestGot l.nest v, live := none } } else c
    | none => c
/-- The first bundle of a run waits for its bound (R147). -/
def Ctx.liveWaits (c : Ctx) : Bool := match c.lp with | some l => l.nest.await.isSome | none => false
/-- Data that has been read but has not arrived yet: LOAD_DATA_ARRIVAL ends that, in a cycle not before the published one. -/
def notYet : Nat := 2 ^ 63

/-! The landing buffer of a context image (R182). -/

def lkindCode : LKind → Nat
  | .vec => 0
  | .scalar => 1
  | .guard => 2
  | .scale => 3
  | .row => 4
/-- A landing-buffer metadata word, as LBMETA shows it (R174, R182). -/
def imgLand (schc : Nat) (e : LandEntry) : Nat :=
  2 ^ 63 + 2 ^ 60 * lkindCode e.kind + 2 ^ 59 * (if e.got then 0 else 1) + 2 ^ 48 * min 384 (e.tick - schc) + e.dest % 2 ^ 11
/-- A row stored in an image. -/
def State.putRow (s : State) (a : Nat) (v : Nat) (poison : Bool) : State := s.storeLocal a (BitVec.ofNat 1024 v) fullMask poison
def State.putRows (s : State) (a : Nat) (f : Nat → Nat) : Nat → State
  | 0 => s
  | n + 1 => (s.putRows a f n).putRow (a + 128 * n) (f n) false
/-- The landing buffer of an image: metadata and data rows. -/
def State.putLand (s : State) (a schc : Nat) (land : List LandEntry) : State :=
  let es := land
  let s := s.putRows (a + 0x40D00) (fun i => packRegs 64 (fun j => match es[16 * i + j]? with | some e => imgLand schc e | none => 0) 16) 6
  (List.range 96).foldl (fun s i => match es[i]? with
    | some e => s.putRow (a + 0x41000 + 128 * i) e.data.toNat e.poison.isSome
    | none => s.putRow (a + 0x41000 + 128 * i) 0 false) s
/-- What still lands for a saved task is written into its image (R169). -/
def State.showLand (s : State) (n : Nat) : State :=
  match (if 4096 ≤ n then s.saves.find (n - 4096) else none) with
  | some v => s.putLand v.addr (s.bytes (v.addr + 0x40020) 8) v.land
  | none => s

/-! Performing. -/

/-- One entry leaves the queue. -/
def Ctx.doneAcc (c : Ctx) (q : QAcc) : Ctx := { c with q := c.q.filter fun p => !(p.op == q.op && p.idx == q.idx) }
/-- One entry has been sent to another device. -/
def Ctx.sentAcc (c : Ctx) (q : QAcc) : Ctx :=
  { c with q := c.q.map fun p => if p.op = q.op ∧ p.idx = q.idx then { p with st := .sent, addr := q.addr, ext := q.ext } else p }

/-- An ATOMIC flit's payload row (R410). -/
def atomRow (op e : Nat) (x cv : Nat) (wide ret : Bool) (words : Nat) : Row :=
  BitVec.ofNat 1024 (x + (if op = 10 then 2 ^ 64 * cv else 0) +
    2 ^ 512 * (e + 2 ^ 5 * op + 2 ^ 10 * (if wide then 1 else 0) + 2 ^ 11 * (if ret then 1 else 0) + 2 ^ 12 * words))
/-- A request flit's kind, address, number of rows and payload rows. -/
structure Req where
  kind : Nat
  addr : W64
  rows : Nat
  p0 : Row
  p1 : Row
  deriving DecidableEq, Repr
/-- A WRITE of one row under a mask. R34 gives WRITE no place for inactive lanes: ADDR[0] set marks a store of part of a row, whose mask is the second
payload row (DESIGN CHOICE, log 26). -/
def maskedWrite (row : W64) (d m : Row) : Req := if m = fullMask then ⟨0, row, 1, d, 0⟩ else ⟨0, row ||| 1, 2, d &&& m, m⟩
/-- The request flit of an access to another device. -/
def reqOf (q : QAcc) : Req :=
  let row := q.addr &&& ~~~127
  match q.what with
  | .st d m _ => maskedWrite row d m
  | .log d _ => ⟨0, row, 1, d, 0⟩
  | .atom op e x cv wide ret => ⟨3, row, 1, atomRow op e x.toNat cv.toNat wide ret 1, 0⟩
  | .dec _ => ⟨3, row, 1, atomRow 12 (fld q.addr 3 4) 0 0 true false 1, 0⟩
  | .addf b vs => ⟨3, row, 1, atomRow 1 (b / 4) (packRegs 32 (fun k => (vs.getD k 0).toNat) vs.length) 0 false false vs.length, 0⟩
  | _ => ⟨1, row, 0, 0, 0⟩
/-- A request sent toward another device; a peer that has become unreachable discards it (R37). -/
def State.sendAcc (s : State) (n : Nat) (q : QAcc) (idx : Nat) (r : Req) : Option State :=
  let core := coreOfHolder s n
  let key := s.holderKey n
  let f := s.flit r.kind 2 core (key % 4) (s.holderPart n) r.addr (tagOf key q.op idx) r.rows ((s.extCtx n).confAt r.addr) r.p0 r.p1
  s.inject core (devOf r.addr) f

/-- The features a QLD lands, from the data of its rows (R335). -/
def qldRow (a : MArgs) (d : BitVec 2048) (coords : List Row) (lanes : Nat) (rows : List Row) (f : Nat) : Row :=
  let l := a.ext.toNat
  let n := (quNl d l).getD 1
  let offs := quRows d l n coords lanes
  quGather d l n f coords lanes fun o => match offs.idxOf? o with | some k => rows.getD k 0 | none => 0
/-- The rows of a QLD that are this device's, read one after another: data and the first poison (DEDUCED, log 109). -/
def State.qldRows (s : State) : List (W64 × Option Row) → State × List Row × Option (Nat × W64)
  | [] => (s, [], none)
  | (x, got) :: rest =>
    let r : State × Row × Option (Nat × W64) := match got with | some d => (s, d, none) | none => s.loadLocal (localOf x)
    let t := r.1.qldRows rest
    (t.1, r.2.1 :: t.2.1, r.2.2.orElse fun _ => t.2.2)
/-- A QLD whose rows are all at hand lands its features in cycle `arr`. -/
def State.qldDone (s : State) (n : Nat) (q : QAcc) (a : MArgs) (d : BitVec 2048) (coords : List Row) (lanes : Nat)
    (rows : List (W64 × Option Row)) (arr : Nat) : State :=
  let r := s.qldRows rows
  r.1.modHolder n fun c =>
    (List.range (quF d)).foldl (fun c f => c.deliver q.op f (qldRow a d coords lanes r.2.1 f) r.2.2 arr) (c.doneAcc q)
/-- The requests of a QLD's rows that lie on other devices; none when one of them cannot be sent. -/
def State.qldSend (s : State) (n : Nat) (q : QAcc) : Nat → List (W64 × Option Row) → Option State
  | _, [] => some s
  | k, (x, _) :: rest =>
    if devOf x = s.dev.devid.toNat then s.qldSend n q (k + 1) rest
    else match s.sendAcc n q k ⟨1, x &&& ~~~127, 0, 0, 0⟩ with
      | some s => s.qldSend n q (k + 1) rest
      | none => none

/-- The addresses an entry needs on this device. -/
def State.localRows (s : State) (q : QAcc) : List Nat :=
  let xs : List W64 := match q.what with | .mark => [] | .qld _ _ _ _ rows => rows.map Prod.fst | _ => [q.addr]
  (xs.filter fun x : W64 => devOf x == s.dev.devid.toNat).map localOf

/-- An entry whose home is this device performs. -/
def State.performHere (s : State) (n : Nat) (q : QAcc) : State :=
  let a := localOf q.addr
  let arr := notYet + q.iss + s.arrivalTime (coreOfHolder s n) a
  match q.what with
  | .ld =>
    let r := s.loadLocal a
    r.1.modHolder n fun c => (c.doneAcc q).deliver q.op q.idx r.2.1 r.2.2 (arr + q.idx)
  | .st d m p => (s.storeLocal a d m p).modHolder n fun c => c.doneAcc q
  | .log d p => (s.storeLocal a d fullMask p).modHolder n fun c => c.doneAcc q
  | .atom op e x cv wide ret =>
    let r := s.atomLocal a op e x cv wide
    let w := if wide then 64 else 32
    r.1.modHolder n fun c =>
      let c := c.doneAcc q
      if ret then c.deliverElem q.op (BitVec.ofNat 1024 (r.2.1.toNat * 2 ^ (w * e))) r.2.2 arr else c
  | .dec _ => (s.syCount a).modHolder n fun c => c.doneAcc q
  | .addf b vs => (s.addLocal a (b / 4) vs).modHolder n fun c => c.doneAcc q
  | .qld m d coords lanes rows =>
    let far := rows.foldl (fun m r => max m (s.arrivalTime (coreOfHolder s n) (localOf r.1))) 0
    s.qldDone n q m d coords lanes rows (notYet + q.iss + far + 4 * 2 ^ quD d)
  | .mark => s.modHolder n fun c => c.doneAcc q

/-- An entry performs, or leaves for its home on another device. -/
def State.performAcc (s : State) (n : Nat) (q : QAcc) : Host.Outcome State Fault Refusal :=
  match (s.localRows q).find? isHole with
  | some a => .fault (.absentAddress a)
  | none =>
    match q.what with
    | .qld _ _ _ _ rows =>
      if rows.all fun r => devOf r.1 == s.dev.devid.toNat then .next (s.performHere n q)
      else match s.qldSend n q 0 rows with
        | some s => .next (s.modHolder n fun c => c.sentAcc q)
        | none => .next (s.dropAcc n q)
    | .mark => .next (s.performHere n q)
    | _ =>
      if devOf q.addr = s.dev.devid.toNat then .next (s.performHere n q)
      else
        match s.sendAcc n q q.idx (reqOf q) with
        | some s => .next (s.modHolder n fun c => c.sentAcc q)
        | none => .next (s.dropAcc n q)

/-- An access that REMAP has refused (R120, R180): a load traps at its tick with the rows before it landed; of a store the rest is dropped
and EXTREVOKED reported. -/
def State.refuseAcc (s : State) (n : Nat) (q : QAcc) : State :=
  s.modHolder n fun c =>
    if q.isLoad then c.goneLoads q 0x05 q.addr
    else { c.dropRest q with reports := if c.task.isSome then c.reports ++ [⟨0x05, q.addr, 0, q.stop⟩] else c.reports }
/-- An entry over a piece that was revoked at issue: it waits, is refused, or has its address (R120). -/
def State.performExt (s : State) (n : Nat) (q : QAcc) : Host.Outcome State Fault Refusal :=
  match extRow (s.extCtx n) q.isStore (fld q.addr 0 4) (q.addr.toNat / 16) with
  | .at x => s.performAcc n { q with addr := x, ext := false }
  | .revoked => .next s
  | _ => .next (s.refuseAcc n q)
/-- An entry performs, over a revoked piece or not, and what it lands for a saved task stands in its image (R169). -/
def State.performAny (s : State) (n : Nat) (q : QAcc) : Host.Outcome State Fault Refusal :=
  match (if q.ext then s.performExt n q else s.performAcc n q) with
  | .next t => .next (t.showLand n)
  | r => r
/-- QUEUED_ACCESS_PERFORM (R156). `unit`: the holder of the queue; `arg`: the place in it. An entry that may not perform yet
stays. -/
def execQueuedAccessPerform (s : State) : Host.Outcome State Fault Refusal :=
  match (s.holder s.unit).q[s.arg]? with
  | none => .next s
  | some q => if s.mayPerform s.unit s.arg then s.performAny s.unit q else .next s

/-- LOAD_DATA_ARRIVAL (R134, R135). `unit`: the context, `arg`: the operation whose data arrives. -/
def execLoadDataArrival (s : State) : Host.Outcome State Fault Refusal :=
  .next (s.modCtx s.unit fun c => { c with
      land := c.land.map fun e =>
        match e.arr with
        | some x => if e.op = s.arg ∧ e.got = true ∧ notYet ≤ x then { e with arr := some (x - notYet) } else e
        | none => e })

/-- CORRECTED_WRITEBACK (R209). `unit`: the row's address. The home's own corrected row is stored again, unless poison stands
there. -/
def execCorrectedWriteback (s : State) : Host.Outcome State Fault Refusal :=
  .next (if s.isPoison s.unit || s.lost s.unit then s else s.storeMem s.unit (s.rawRow s.unit) fullMask false)

/-! Requests of other devices (R35, R36, R410). -/

/-- Whether a WRITE stores part of one row (log 26). -/
def isPart (f : Flit) : Bool := bit f.addr 0 && f.rows == 2
/-- Rows of a WRITE stored at consecutive row addresses; part of one row under its mask (R153, log 26). -/
def State.writeRows (s : State) (f : Flit) : State :=
  let a := localOf f.addr / 128 * 128
  if isPart f then s.storeLocal a f.pay0 f.pay1 false
  else
    let s := if f.rows = 0 then s else s.storeLocal a f.pay0 fullMask false
    if f.rows = 2 then s.storeLocal (a + 128) f.pay1 fullMask false else s
/-- WRITE. One for a halted launch performs as any other (DESIGN CHOICE, log 131). -/
def execWrite (rx : Nat) (f : Flit) (s : State) : Host.Outcome State Fault Refusal :=
  match s.inward rx f with
  | (s, none) => .next s
  | (s, some f) =>
    let a := localOf f.addr
    if f.rows ≠ 0 ∧ isHole a then .fault (.absentAddress a)
    else if f.rows = 2 ∧ isPart f = false ∧ isHole (a + 128) then .fault (.absentAddress (a + 128))
    else .next (s.writeRows f)

/-- The answer to a request: it repeats the request's tag, core and context (DESIGN CHOICE, log 22). R29 chooses a slot by the die of a core; an answer
chooses it by the die at which it is made, the home die of the memory (DESIGN CHOICE, log 122). -/
def State.answer (s : State) (rx : Nat) (f : Flit) (rows : Nat) (p0 : Row) : State :=
  let r : Flit := { s.flit 2 3 f.srcCore.toNat f.srcCtx.toNat f.part.toNat f.addr f.word.toNat rows f.c p0 0 with vc := 3 }
  s.sendCtl (rxDie rx) f.srcDev.toNat r
/-- READ: one row is read and answered; what a poisoned row answers is free (log 27). -/
def execRead (rx : Nat) (f : Flit) (s : State) : Host.Outcome State Fault Refusal :=
  match s.inward rx f with
  | (s, none) => .next s
  | (s, some f) =>
    let a := localOf f.addr
    if isHole a then .fault (.absentAddress a)
    else
      let r := s.loadLocal a
      let row := if r.2.2.isSome then Config.farRow f.addr.toNat r.1.dev.fresh else r.2.1
      .next ((r.1.freed r.2.2.isSome).answer rx f 1 row)

/-- ATOMIC: the operation named by the control word, at this device's sync engine; with RET the old value is answered (R410). -/
def execAtomic (rx : Nat) (f : Flit) (s : State) : Host.Outcome State Fault Refusal :=
  match s.inward rx f with
  | (s, none) => .next s
  | (s, some f) =>
    let a := localOf f.addr
    let w := f.pay0.toNat / 2 ^ 512 % 2 ^ 32
    let e := bitsOf w 0 5
    let op := bitsOf w 5 5
    let n := bitsOf w 12 4
    if isHole a then .fault (.absentAddress a)
    else if op = 1 ∧ w / 2 ^ 11 % 2 = 0 then
      .next (s.addLocal a e ((List.range n).map fun k => BitVec.ofNat 32 (elem 32 f.pay0 k)))
    else
      let r := s.atomLocal a op e (BitVec.ofNat 64 f.pay0.toNat) (BitVec.ofNat 64 (f.pay0.toNat / 2 ^ 64)) (w / 2 ^ 10 % 2 == 1)
      let old : Row := if r.2.2.isSome then Config.farRow f.addr.toNat r.1.dev.fresh else r.2.1.zeroExtend 1024
      .next (if w / 2 ^ 11 % 2 = 1 then (r.1.freed r.2.2.isSome).answer rx f 1 old else r.1)

/-! Answers from other devices. -/

/-- The data of a load from another device arrives with its answer, in no cycle before the published one: 1,400 after its issue, with no fibre, and
one more for each further row (R135). -/
def farArr (q : QAcc) (k : Nat) : Nat := q.iss + 1400 + k
/-- An answer delivered to the entry it is for. -/
def State.gotAnswer (s : State) (n : Nat) (f : Flit) (q : QAcc) (k : Nat) : State :=
  match q.what with
  | .atom _ e _ _ wide _ =>
    let w := if wide then 64 else 32
    s.modHolder n fun c => (c.doneAcc q).deliverElem q.op (BitVec.ofNat 1024 (f.pay0.toNat % 2 ^ w * 2 ^ (w * e))) none (farArr q 0)
  | .qld m d coords lanes rows =>
    let rows := rows.set k ((rows.getD k (0, none)).1, some f.pay0)
    if rows.all fun r => devOf r.1 == s.dev.devid.toNat || r.2.isSome then s.qldDone n q m d coords lanes rows (farArr q 0)
    else s.modHolder n fun c => { c with
        q := c.q.map fun p => if p.op = q.op ∧ p.idx = q.idx then { p with what := .qld m d coords lanes rows } else p }
  | _ => s.modHolder n fun c => (c.doneAcc q).deliver q.op q.idx f.pay0 none (farArr q q.idx)
/-- An answer for the operand fetch of a matrix command. -/
def State.gotOperand (s : State) (f : Flit) : State :=
  let n := ownerOf f
  let upd (m : MxCmd) : MxCmd := match m.asked with
    | some o => if m.ctx = n ∧ tagOf n o 0 = f.word.toNat then { m with rows := m.rows ++ [f.pay0], asked := none } else m
    | none => m
  s.modCore f.srcCore.toNat fun k => { k with q0 := k.q0.map upd, q1 := k.q1.map upd }
/-- RESP. -/
def execResp (rx : Nat) (f : Flit) (s : State) : Host.Outcome State Fault Refusal :=
  match s.inward rx f with
  | (s, none) => .next s
  | (s, some f) =>
    match s.tagHolder f with
    | none => .next (s.gotOperand f)
    | some n =>
      match (s.holder n).q.find? fun q => (accRow f q).isSome && q.isLoad with
      | some q => .next ((s.gotAnswer n f q ((accRow f q).getD 0)).showLand n)
      | none => .next s
/-- MAPNOTE: taken as a control flit; the spec gives it no content (R35). -/
def execMapnote (rx : Nat) (f : Flit) (s : State) : Host.Outcome State Fault Refusal := .next (s.receive rx f).1

/-! Sync engines (R105 to R107). -/

/-- A store of one word through a view, by SIGNAL or an engine. -/
def execSyncStore (addr val : W64) (s : State) : Host.Outcome State Fault Refusal := .next (s.syStore (localOf addr) val)
/-- DEC at its home engine, which is another device's for a decrement that travels there (R106, R410). -/
def execSyncDec (addr : W64) (s : State) : Host.Outcome State Fault Refusal :=
  if devOf addr = s.dev.devid.toNat then .next (s.syCount (localOf addr))
  else .next (s.sendCtl (syDie (localOf addr)) (devOf addr)
    (s.flit 3 2 0 0 0 (addr &&& ~~~127) 0 1 false (atomRow 12 (fld addr 3 4) 0 0 true false 1) 0))
/-- Any other atomic on a sync word (R106, R332). -/
def execSyncAtomic (addr : W64) (op : Nat) (x cv : W64) (wide : Bool) (s : State) : Host.Outcome State Fault Refusal :=
  .next (s.syAtom (localOf addr) op x cv wide).1

/-! Rendezvous (R284, R285). -/

/-- The arrivals of a word answered: its record is freed and one that waited for a record comes again. -/
def State.freeRdv (s : State) (die : Nat) (r : Rdv) : State :=
  let d := s.die die
  let s := s.setDie die { d with rdv := d.rdv.filter (·.addr != r.addr), rdvWait := d.rdvWait.drop 1 }
  let s := r.waiters.foldl (fun s c => s.post c r.addr.toNat .rendezvousAnswer) s
  match d.rdvWait with
  | [] => s
  | (a, e, rank, p, c) :: _ => s.post 0 0 (.rendezvousArrival a e rank p c)
/-- An arrival refused: logged, and ILLEGAL for its context (R284) (DEDUCED, log 104). -/
def State.refuseRdv (s : State) (addr : W64) (ctx : Nat) : State :=
  ((s.syRefuse (localOf addr)).modCtx ctx fun c => { c with hold := .none }).report ctx 0x01 addr
/-- RENDEZVOUS_ARRIVAL at the home engine (R284) (DEDUCED, log 86). -/
def execRendezvousArrival (addr : W64) (epoch : W32) (rank parties ctx : Nat) (s : State) : Host.Outcome State Fault Refusal :=
  let a := localOf addr
  let w := s.syWord a
  let e := epoch.toNat
  let die := syDie a
  let d := s.die die
  if devOf addr ≠ s.dev.devid.toNat ∨ s.syPresent a = false ∨ w.kind ≠ .plain ∨ w.val.toNat < e then .next (s.refuseRdv addr ctx)
  else if e < w.val.toNat then .next (s.post ctx addr.toNat .rendezvousAnswer)
  else
    match d.rdv.find? fun r => syKey (localOf r.addr) == syKey a with
    | none =>
      if 64 ≤ d.rdv.length then .next (s.setDie die { d with rdvWait := d.rdvWait ++ [(addr, epoch, rank, parties, ctx)] })
      else if parties ≤ 1 then .next ((s.setSy (syKey a) ⟨.plain, w.val + 1⟩).post ctx addr.toNat .rendezvousAnswer)
      else .next (s.setDie die { d with rdv := d.rdv ++ [⟨addr, [rank], parties, [ctx]⟩] })
    | some r =>
      let r := { r with
          bits := if r.bits.contains rank then r.bits else rank :: r.bits
          waiters := if r.waiters.contains ctx then r.waiters else r.waiters ++ [ctx] }
      if r.parties ≤ r.bits.length then .next ((s.setSy (syKey a) ⟨.plain, w.val + 1⟩).freeRdv die r)
      else .next (s.setDie die { d with rdv := d.rdv.map fun x => if x.addr = r.addr then r else x })
/-- RENDEZVOUS_ANSWER. `unit`: the context, `arg`: the word's address. -/
def execRendezvousAnswer (s : State) : Host.Outcome State Fault Refusal :=
  .next (s.modCtx s.unit fun c =>
    match c.hold with
    | .rdv a e false => if a.toNat = s.arg then { c with hold := .rdv a e true } else c
    | _ => c)
/-- RDVTIMEOUT: an RDV held for RDVTO cycles traps when its bundle is tried again; before that nothing happens (R172, R285). `unit`: the context. -/
def execRdvtimeout (s : State) : Host.Outcome State Fault Refusal :=
  let c := s.ctx s.unit
  match c.hold, c.rdvAt with
  | .rdv a _ false, some t =>
    .next (if fld c.csr.rdvto 0 32 ≠ 0 ∧ t + fld c.csr.rdvto 0 32 ≤ s.cyc s.unit then s.modCtx s.unit fun c => { c with hold := .late a } else s)
  | _, _ => .next s

end Sys2Proof.Machine
end

