-- ==== Sys2Proof/Machine/HostQ.lean ====
section
/-! DEFINITION. Host queues: registers, acceptance, dispatch decisions, completions and the replay after a warm reset (R82 to R97). -/

namespace Sys2Proof.Machine

/-! Registers and rings (R82, R83). -/

def State.hq (s : State) (q : Nat) : HQueue := s.queues.get HQueue.reset q
def State.setHq (s : State) (q : Nat) (h : HQueue) : State := { s with queues := s.queues.put q h }
def HQueue.en (h : HQueue) : Bool := bit h.qctl 0
def HQueue.loc (h : HQueue) : Bool := bit h.qctl 1
def HQueue.priv (h : HQueue) : Bool := bit h.qctl 2
def HQueue.tier (h : HQueue) : Nat := fld h.qctl 3 3
def HQueue.size (h : HQueue) : Nat := 2 ^ fld h.qctl 8 5
def HQueue.vec (h : HQueue) : Nat := fld h.qctl 16 11
def HQueue.stoppedQ (h : HQueue) : Bool := bit h.qstat 8

/-- The local part of an address in device memory (log 63). -/
def devPart (a : Nat) : Nat := a % 2 ^ 58
/-- Whether the command processor can access bytes of a ring: device memory where a home answers; the host's memory always, since nothing here says
when an access of CXL.cache fails (DESIGN CHOICE, log 126). -/
def State.ringOk (s : State) (dev : Bool) (a : Nat) : Bool :=
  !dev || (match homeOf (devPart a) with | .hbm _ | .tier _ | .sp _ | .ps _ => !(s.isPoison (devPart a)) && !(s.lost (devPart a)) | _ => false)
def State.ringGet (s : State) (dev : Bool) (a n : Nat) : Nat := if dev then s.bytes (devPart a) n else getBytes a n s.hostMem
def State.ringPut (s : State) (dev : Bool) (a n v : Nat) : State :=
  if dev then s.putMem (devPart a) n v else { s with hostMem := putBytes a n v s.hostMem }

/-- A queue stopped (R82, R83): cause 1 SEQGAP, 2 BADADDR. -/
def State.stopQ (s : State) (q cause : Nat) : State := s.setHq q { s.hq q with qstat := BitVec.ofNat 64 (256 + cause) }
/-- Whether the command processor serves queues (R11). -/
def State.serving (s : State) : Bool := s.dev.rst == .ready

/-- TAIL_WORD_READ (R83). `unit`: the queue. -/
def execTailWordRead (s : State) : Host.Outcome State Fault Refusal :=
  let q := s.unit
  let h := s.hq q
  let a := h.qtaila.toNat / 8 * 8
  if s.serving = false ∨ h.en = false ∨ h.stoppedQ = true then .next s
  else if s.ringOk h.loc a then .next (s.setHq q { h with tail := BitVec.ofNat 64 (s.ringGet h.loc a 8) })
  else .next (s.stopQ q 2)

/-! Entries (R85 to R87). -/

def entOp (e : Row) : Nat := enF e 0x11 1
def entFlags (e : Row) : Nat := enF e 0x12 2
def entDeadline (e : Row) : Nat := enF e 8 8
/-- The payload fields of each opcode: offset and bytes (R86). -/
def payFields (op : Nat) : List (Nat × Nat) :=
  match op with
  | 1 => [(0x20, 8), (0x28, 4), (0x2C, 1), (0x2D, 1), (0x2E, 2), (0x30, 4), (0x38, 8)]
  | 2 => [(0x20, 8), (0x28, 8), (0x30, 8), (0x38, 1)]
  | 3 => [(0x20, 8), (0x28, 8)]
  | 4 => [(0x20, 8)]
  | 5 => [(0x20, 8), (0x28, 2)]
  | 6 => [(0x20, 1), (0x22, 2), (0x24, 1)]
  | 7 | 8 => [(0x20, 8), (0x28, 1), (0x30, 8)]
  | 9 => [(0x20, 1)]
  | _ => []
/-- Units built of a MAPSET kind (R7, R409). -/
def unitsOf (kind : Nat) : Nat := [512, 32, 8, 16, 48, 12, 256].getD kind 0
/-- The listed values of the payload fields (R87). -/
def payOk (e : Row) : Bool :=
  match entOp e with
  | 1 => decide (enF e 0x2C 1 ≤ 4) && decide (enF e 0x2D 1 ≤ 7) && decide (1 ≤ enF e 0x30 4)
  | 2 => enF e 0x30 8 % 128 == 0 && decide (enF e 0x30 8 ≤ 2 ^ 40) && decide (enF e 0x38 1 ≤ 1)
  | 6 => decide (enF e 0x20 1 ≤ 6) && decide (enF e 0x24 1 ≤ 1) && decide (enF e 0x22 2 < unitsOf (enF e 0x20 1))
  | 7 => decide (enF e 0x28 1 ≤ 1)
  | 8 => decide (enF e 0x28 1 ≤ 2)
  | 9 => decide (enF e 0x20 1 ≤ 1)
  | op => decide (op ≤ 9)
/-- Whether every payload byte that the opcode does not name is zero. -/
def payZero (e : Row) : Bool :=
  (List.range 96).all fun i =>
    (payFields (entOp e)).any (fun f => decide (f.1 ≤ 0x20 + i) && decide (0x20 + i < f.1 + f.2)) || enF e (0x20 + i) 1 == 0
/-- The status with which an accepted entry is refused (R87): BADCMD 1, then PRIV 6 (DEDUCED, log 85). -/
def entRefused (h : HQueue) (e : Row) : Option Nat :=
  if enF e 0x10 1 ≠ h.tier ∨ entFlags e / 8 ≠ 0 ∨ enF e 0x14 12 ≠ 0 ∨ payZero e = false ∨ payOk e = false then some 1
  else if (entOp e = 3 ∨ entOp e = 4 ∨ entOp e = 6) ∧ h.priv = false then some 6
  else none

/-- The commands of a queue in the journal. -/
def State.cmdsOf (s : State) (q : Nat) : List (Nat × Cmd) := s.cmds.filter fun c => c.2.queue == q
/-- Whether the completion slot of a SEQ holds nothing that the host has not consumed (R87, R92). -/
def HQueue.slotFree (h : HQueue) (seq : Nat) : Bool := decide ((seq + 2 ^ 64 - h.qcdone.toNat) % 2 ^ 64 < h.size)

/-- Entry `e` accepted as SEQ of queue q. -/
def State.accept1 (s : State) (q : Nat) (e : Row) : State :=
  let h := s.hq q
  let seq := enSEQ e
  let c : Cmd := ⟨q, e, .accepted, 0, s.now.toNat, 0, 0, false, s.dev.jpos, none⟩
  let k := cmdKey q seq
  let s := { s with cmds := s.cmds.put k c, dev := { s.dev with jpos := s.dev.jpos + 1 } }
  let s := ((s.writeRec c).setHighWater q seq).setHq q { h with qseq := h.qseq + 1, qhead := h.qhead + 1 }
  match entRefused h e with
  | some st => s.finishCmd k st
  | none => s

/-- COMMAND_ACCEPT (R83, R87); nothing is accepted before the journal has been replayed (R95). `unit`: the queue. -/
def execCommandAccept (s : State) : Host.Outcome State Fault Refusal :=
  let q := s.unit
  let h := s.hq q
  let a := h.qbase.toNat / 128 * 128 + h.qhead.toNat % h.size * 128
  if s.serving = false ∨ h.en = false ∨ h.stoppedQ = true ∨ h.tail = h.qhead ∨ s.jCount = 0 ∨ s.dev.replayed = false then .next s
  else if s.ringOk h.loc a = false then .next (s.stopQ q 2)
  else
    let e : Row := BitVec.ofNat 1024 (s.ringGet h.loc a 128)
    if enSEQ e < h.qseq.toNat then .next (s.setHq q { h with qhead := h.qhead + 1 })
    else if h.qseq.toNat < enSEQ e then .next (s.stopQ q 1)
    else if (s.cmds.any fun c => c.2.recNo % s.jCount == s.dev.jpos % s.jCount) ∨ h.slotFree (enSEQ e) = false ∨
        ((s.cmdsOf q).head?.any fun c => c.2.st == .done && h.slotFree (enSEQ c.2.entry)) = true then .next s
    else .next (s.accept1 q e)

/-! Completions (R92, R96). -/

/-- The completion record of a command (R92). -/
def Cmd.record (c : Cmd) : Nat :=
  enSEQ c.entry + 2 ^ 64 * (c.status + 2 ^ 8 * (if 1 < c.runs then 1 else 0) + 2 ^ 9 * (if c.late then 1 else 0))
/-- COMPLETION_RECORD: the oldest command of a queue, once it is done, while the queue is enabled (R92, R96). `unit`: the queue. -/
def execCompletionRecord (s : State) : Host.Outcome State Fault Refusal :=
  let q := s.unit
  let h := s.hq q
  match (s.cmdsOf q).head? with
  | none => .next s
  | some (k, c) =>
    let seq := enSEQ c.entry
    let a := h.qdone.toNat / 16 * 16 + seq % h.size * 16
    if c.st ≠ .done ∨ h.en = false ∨ h.slotFree seq = false then .next s
    else if s.ringOk h.loc a = false then .next (s.stopQ q 2)
    else
      let s := (s.ringPut h.loc a 16 c.record).freeRec c
      let s := { s with cmds := s.cmds.del k, dev := { s.dev with shown := s.dev.shown.filter fun y => y.1 != k } }
      let s := if entFlags c.entry / 4 % 2 = 1 then { s with dev := { s.dev with msix := s.dev.msix ++ [h.vec] } } else s
      .next (s.post q 0 .completionRecord)

/-! Starting and stopping a queue (R82, R84). -/

/-- EN written from 0 to 1. The tail word is read anew before an entry is taken. -/
def State.queueOn (s : State) (q : Nat) : State :=
  let h := s.hq q
  let w := s.highWater q
  let seq := if s.jCount = 0 ∨ w = 2 ^ 64 - 1 then h.qseq else BitVec.ofNat 64 (max h.qseq.toNat (w + 1))
  (s.setHq q { h with qctl := h.qctl ||| 1, qstat := 0, qseq := seq, tail := h.qhead }).post q 0 .completionRecord
/-- EN written from 1 to 0: accepted commands run on. -/
def State.queueOff (s : State) (q : Nat) : State := let h := s.hq q; s.setHq q { h with qctl := setFld h.qctl 0 1 0 }
/-- QUEUE_ENABLE. `unit`: the queue. -/
def execQueueEnable (s : State) : Host.Outcome State Fault Refusal := .next (if (s.hq s.unit).en then s else s.queueOn s.unit)
/-- QUEUE_DISABLE. `unit`: the queue. -/
def execQueueDisable (s : State) : Host.Outcome State Fault Refusal := .next (s.queueOff s.unit)

/-! Choosing commands (R89 to R91). -/

/-- Whether one command was accepted before another: acceptances are counted, and the journal keeps their order (R88). -/
def accLt (a b : Nat × Cmd) : Bool := decide (a.2.recNo < b.2.recNo)
/-- The earliest ACCTIME, as a share decision goes by (R89); of equal ones the command accepted first. -/
def timeLt (a b : Nat × Cmd) : Bool := decide (a.2.acc < b.2.acc) || (a.2.acc == b.2.acc && accLt a b)
/-- A command that has not been chosen yet: one whose LAUNCH waits for its first task has been. -/
def Cmd.unchosen (c : Cmd) : Bool := c.st == .accepted && c.launch.isNone
/-- Whether a chosen command holds back the later ones of its queue (R86): WAITV and FENCE until they complete. -/
def holdsBack (c : Cmd) : Bool := (entOp c.entry == 8 || entOp c.entry == 9) && c.st != .done
/-- Whether a command has started: it runs or is done. -/
def Cmd.begun (c : Cmd) : Bool := c.st != .accepted
/-- Whether an accepted VARIANT of the same image keeps a LAUNCH from being ready (R99). -/
def State.variantHolds (s : State) (c : Nat × Cmd) : Bool :=
  entOp c.2.entry == 1 && s.cmds.any fun v => entOp v.2.entry == 5 && v.2.st != .done && enF v.2.entry 0x20 8 == enF c.2.entry 0x20 8 && accLt v c
/-- Whether a command is ready (R89). -/
def State.readyCmd (s : State) (c : Nat × Cmd) : Bool :=
  let earlier := (s.cmdsOf c.2.queue).filter fun d => decide (d.1 < c.1)
  c.2.unchosen && earlier.all (fun d => d.2.begun) && !(earlier.any fun d => holdsBack d.2) &&
    (entFlags c.2.entry % 2 == 0 || earlier.all fun d => d.2.st == .done) && !s.variantHolds c
/-- The least of a list under an order. -/
def leastBy {α : Type} (lt : α → α → Bool) : List α → Option α
  | [] => none
  | x :: xs => match leastBy lt xs with | some y => some (if lt y x then y else x) | none => some x
/-- Tier, then deadline, then queue (R89). -/
def urgLt (a b : Nat × Cmd) : Bool :=
  let x := (enF a.2.entry 0x10 1, entDeadline a.2.entry, a.2.queue)
  let y := (enF b.2.entry 0x10 1, entDeadline b.2.entry, b.2.queue)
  decide (x.1 < y.1) || (x.1 == y.1 && (decide (x.2.1 < y.2.1) || (x.2.1 == y.2.1 && decide (x.2.2 < y.2.2))))

/-- PREQ raised on a context (R115, R121): REMAIN starts at PDL. A context on which it stands already keeps its count. -/
def State.raiseReq (s : State) (n : Nat) (held : Option (Bool × Nat)) : State :=
  s.modCtx n fun c =>
    if c.task.isSome then
      { c with
        req := true, remain := if c.req then c.remain else fld c.csr.pdl 0 31
        held := if c.held.isSome then c.held else held }
    else c
/-- The urgency of the command a context works for: tier and deadline. -/
def State.ctxUrg (s : State) (c : Ctx) : Nat × Nat :=
  match c.task.bind fun t => s.cmds.find t.cmd with
  | some d => (enF d.entry 0x10 1, entDeadline d.entry)
  | none => (0, 0)
def pairLt (a b : Nat × Nat) : Bool := decide (a.1 < b.1) || (a.1 == b.1 && decide (a.2 < b.2))
/-- A list in order, equals as they stood. -/
def sortBy {α : Type} (lt : α → α → Bool) : List α → List α
  | [] => []
  | x :: xs => ins x (sortBy lt xs)
where
  ins (x : α) : List α → List α
    | [] => [x]
    | y :: ys => if lt y x then y :: ins x ys else x :: y :: ys

/-- The step that carries a command out. -/
def cmdStep (e : Row) : Instr :=
  match entOp e with
  | 1 => .launch
  | 2 => .copyh
  | 3 => .ctxsave
  | 4 => .ctxload
  | 5 => .variant
  | 6 => if enF e 0x24 1 = 0 then .mapsetRemove else .mapsetReturn
  | 7 => .signal
  | 8 => .waitv
  | 9 => .fenceCommand
  | _ => .nopCommand
/-- A command starts once more (R88). -/
def Cmd.startedNow (c : Cmd) : Cmd := { c with st := .started, runs := c.runs + 1 }
/-- The bookkeeping of a chosen LAUNCH (R86, R101): `spawn` 0 until its checks have been made. -/
def newLaunch (c : Cmd) (share : Bool) : Launch :=
  ⟨enF c.entry 0x2D 1, enF c.entry 0x2C 1, enF c.entry 0x30 4, 0, false, false, false, BitVec.ofNat 64 (enF c.entry 0x20 8), 0,
    c.queue, BitVec.ofNat 64 (enSEQ c.entry), share⟩
/-- A command set going (R90): a LAUNCH starts when its first task does. -/
def State.startCmd (s : State) (k : Nat) (c : Cmd) (share : Bool) : State :=
  let c := if entOp c.entry = 1 then { c with launch := some (newLaunch c share) } else c.startedNow
  ({ s with cmds := s.cmds.put k c }.writeRec c).post k 0 (cmdStep c.entry)
/-- The chosen command: dropped when late (R91), else started. -/
def State.choose (s : State) (x : Nat × Cmd) (share : Bool) : State :=
  let late := decide (entDeadline x.2.entry < s.now.toNat)
  if late ∧ entFlags x.2.entry / 2 % 2 = 1 then s.finishCmd x.1 2
  else s.startCmd x.1 { x.2 with late := late } share
/-- The ready commands of tier 7. -/
def State.lowReady (s : State) : List (Nat × Cmd) := (s.cmds.filter s.readyCmd).filter fun c => enF c.2.entry 0x10 1 == 7
/-- W held at 0 while tier 7 has no ready command (R89). -/
def State.holdShare (s : State) : State := if s.lowReady.isEmpty then { s with share := 0 } else s
/-- DISPATCH_DECISION (R89). -/
def execDispatchDecision (s : State) : Host.Outcome State Fault Refusal :=
  let s := s.holdShare
  let ready := s.cmds.filter s.readyCmd
  if s.serving = false ∨ ready.isEmpty = true then .next s
  else if s.share = 15 then
    match leastBy timeLt s.lowReady with
    | some x => .next ({ s with share := 0 }.choose x true)
    | none => .next s
  else
    match leastBy urgLt ready with
    | some x => .next (({ s with share := s.share + 1 }.choose x false).holdShare)
    | none => .next s

/-! Images (R98). -/

/-- The header's MAGIC, version and CRC-32C. -/
def State.imageOk (s : State) (a : Nat) : Bool :=
  let size := s.bytes (a + 0x10) 8
  let body := s.bytes a size
  s.bytes a 4 == 0x31424754 && s.bytes (a + 4) 2 == 0x0100 &&
    (crc32c (body - body / 2 ^ 64 % 2 ^ 32 * 2 ^ 64) size).toNat == s.bytes (a + 8) 4
/-- Section i of an image: TYPE, OFFSET, SIZE, VARIANT. -/
def State.section (s : State) (a i : Nat) : Nat × Nat × Nat × Nat :=
  let e := a + 64 + 32 * i
  (s.bytes e 2, s.bytes (e + 8) 8, s.bytes (e + 16) 8, s.bytes (e + 24) 2)
def State.sections (s : State) (a : Nat) : List (Nat × Nat × Nat × Nat) := (List.range (s.bytes (a + 6) 2)).map (s.section a)
/-- The first section of a TYPE that serves the active variant. -/
def State.sectionOf (s : State) (a type : Nat) : Option (Nat × Nat × Nat × Nat) :=
  (s.sections a).find? fun x => x.1 == type && (x.2.2.2 == 0xFFFF || x.2.2.2 == s.variants.get 0 a)
/-- The task template of an index under the active variant, if the image holds it (DEDUCED, log 61). -/
def State.template (s : State) (a idx : Nat) : Option Row :=
  match s.sectionOf a 2 with
  | some x => if 128 * idx + 128 ≤ x.2.2.1 then some (BitVec.ofNat 1024 (s.bytes (a + x.2.1 + 128 * idx) 128)) else none
  | none => none

/-! Re-runs (R95, R97). -/

/-- A command whose remaining tasks end and which will run again from its start (R97). -/
def State.rerun (s : State) (cmd : Nat) : State :=
  match s.cmds.find cmd with
  | none => s
  | some c =>
    if c.st = .done then s
    else
      let s := s.endTasks cmd
      { s with cmds := s.cmds.put cmd { c with st := .accepted, launch := none } }.holdShare

/-- A command restored from its journal record (R95). The count of acceptances has just gone once round the ring, so that a record's number
again says when it was accepted. -/
def State.replayRec (s : State) (j : Nat) : State :=
  let a := s.jRec j
  let e := s.jGet a
  let r := s.jGet (a + 128)
  let st := enF r 1 1
  if st = 0 ∨ 3 < st then s
  else
    let c : Cmd := ⟨enF r 0 1, e, if st = 3 then .done else .accepted, enF r 2 1, enF r 8 8, BitVec.ofNat 256 (r.toNat / 2 ^ 128), enF r 3 1,
      enF r 4 1 == 1, s.dev.jpos - s.jCount + (j + s.jCount - s.dev.jpos % s.jCount) % s.jCount, none⟩
    { s with cmds := s.cmds.put (cmdKey c.queue (enSEQ e)) c }
/-- A mapping row's SEQ and publish number (R166). -/
def shownIn (r : Row) (seq n : Nat) : Bool := enF r 0 8 == seq && enF r 0x0D 1 == n
/-- The bit of a publish that the mapping row it was recorded in still shows, of a command that will run again (R95). -/
def State.reshow (s : State) (y : Nat × Nat × W64) : State :=
  match s.cmds.find y.1 with
  | some c => if c.st == .accepted && devOf y.2.2 == s.dev.devid.toNat && shownIn (s.rawRow (localOf y.2.2)) (enSEQ c.entry) y.2.1 then s.setPub y.1 y.2.1 else s
  | none => s
/-- JOURNAL_REPLAY, once after a reset, when the device is READY and JCFG names the journal: its commands stand again, to run in SEQ order per queue
or to be completed, with the publishes that mapping rows show in their PUBMAPs (R95, R96, log 29). -/
def execJournalReplay (s : State) : Host.Outcome State Fault Refusal :=
  if s.jCount = 0 ∨ s.serving = false ∨ s.dev.replayed = true then .next s
  else
    let s := { s with dev := { s.dev with jpos := s.dev.jpos + s.jCount, replayed := true } }
    let s := (List.range s.jCount).foldl State.replayRec s
    .next (s.dev.shown.foldl State.reshow s)

end Sys2Proof.Machine
end

