-- ==== Sys2Proof/Machine/TrapSave.lean ====
section
/-! DEFINITION. Context images, saves and restores; landing, reports, segments and the drain of a task (R93, R110, R111, R170 to R172,
R180 to R184, R217 to R220). -/

namespace Sys2Proof.Machine

/-! Identity words (R103). -/

def taskidW (t : TaskRun) : W64 := BitVec.ofNat 64 (t.serial % 2 ^ 48 + 2 ^ 48 * (t.part % 8) + 2 ^ 51 * (if t.cont then 1 else 0))
def grpW (t : TaskRun) : W64 :=
  BitVec.ofNat 64 (t.gidx % 2 ^ 32 + 2 ^ 32 * (t.rank % 2 ^ 11) + 2 ^ 43 * (t.level % 8) + 2 ^ 46 * ((t.size - 1) % 2 ^ 12))
def launchSeq (s : State) (t : TaskRun) : Nat := match s.cmds.find t.cmd with | some c => enSEQ c.entry | none => 0

/-! The context image (R182). -/

/-- The header row. -/
def State.imgHeader (s : State) (n : Nat) (t : TaskRun) (c : Ctx) (why accp : Nat) : Nat :=
  1 + 2 ^ 32 * (why % 256) + 2 ^ 40 * accp + 2 ^ 64 * (s.reg 0x302).toNat + 2 ^ 128 * (taskidW t).toNat + 2 ^ 192 * (grpW t).toNat +
    2 ^ 256 * (c.schc % 2 ^ 64) + 2 ^ 320 * c.pc.toNat + 2 ^ 384 * launchSeq s t + 2 ^ 448 * (t.lcore % 2 ^ 16) + 2 ^ 464 * (t.lpanel % 256) +
    2 ^ 472 * (t.ldie % 256) + 2 ^ 480 * (n % 4) + 2 ^ 482 * (if c.tileMark then 1 else 0)
/-- The control row: flags, RRB, the loop and the swap window. A body position equal to the body's length says that a pass has
ended and the next is not decided yet (DESIGN CHOICE, log 30). -/
def imgControl (n : Nat) (c : Ctx) : Nat :=
  let base := c.f.toNat + 2 ^ 64 * c.csr.rrb.toNat + 2 ^ 128 * packRegs 32 (fun i => (c.ix.getD i 0).toNat) 6 +
    2 ^ 672 * (c.oldBase % 2 ^ 16) + 2 ^ 688 * (c.oldLen % 2 ^ 16) + 2 ^ 704 * c.owed
  match c.lp with
  | none => base
  | some l =>
    base + 2 ^ 320 * packRegs 32 (fun i => l.nest.run.getD i 0) 6 + 2 ^ 512 * l.body.toNat + 2 ^ 576 * l.buf.length +
      2 ^ 584 * (if l.passed then l.buf.length else l.pos) + 2 ^ 592 * l.nest.levels + 2 ^ 600 +
      2 ^ 608 * (spAddr (n / 4) l.lnr % 2 ^ 64)
/-- The CSR row. -/
def imgCsrs (c : Ctx) (t : TaskRun) : List W64 :=
  let r := c.csr
  [r.fpstat, r.fpmode, r.logb, r.logh, r.logl, r.recst, r.gmap, r.rngsel, r.tvec, r.pdl, r.dictb, r.dictl, BitVec.ofNat 64 t.prio, r.rdvto, r.ackver]
/-- TFRAME as it reads: PEND says whether a report cause waits now (R172, R176). -/
def Ctx.tframeW (c : Ctx) : W64 := setFld c.csr.tframe 49 1 (if c.reports.isEmpty then 0 else 1)
/-- The captures of memory-slot operations among some, and of matrix commands. -/
def memCap (ks : List Capture) : Option Capture := ks.find? (·.slot != 7)
def mxCap (ks : List Capture) : Option Capture := ks.find? (·.slot == 7)
/-- The capture header row (R174, R182). -/
def capHeader (c : Ctx) (ks : List Capture) : Nat :=
  let r := c.csr
  r.tcause.toNat + 2 ^ 64 * r.tval.toNat + 2 ^ 128 * r.tpc.toNat + 2 ^ 192 * c.tframeW.toNat +
    (match memCap ks with
    | some k => 2 ^ 256 * (k.parcel.toNat + 2 ^ 64 * k.base.toNat + 2 ^ 128 * k.guard.toNat + 2 ^ 192 * (k.tick % 2 ^ 64))
    | none => 0) +
    (match mxCap ks with
    | some k => 2 ^ 512 * (k.parcel.toNat + 2 ^ 64 * k.base.toNat + 2 ^ 128 * k.prog + 2 ^ 192 * (k.tick % 2 ^ 64))
    | none => 0)
/-- An engine-queue word. -/
def imgEng (e : EngCmd) : Nat := encE e.op e.a + 2 ^ 32 * (e.row % 2 ^ 15) + 2 ^ 63
/-- The image of context n at an address. -/
def State.putImage (s : State) (n : Nat) (t : TaskRun) (a why accp : Nat) (ks : List Capture) : State :=
  let c := s.ctx n
  let s := s.putRows a (fun p => (c.v.get 0 p).toNat) 2048
  let s := s.putRow (a + 0x40000) (s.imgHeader n t c why accp) false
  let s := s.putRows (a + 0x40080) (fun i => packRegs 64 (fun j => if 16 * i + j = 0 then 0 else (c.s.get 0 (16 * i + j)).toNat) 16) 4
  let s := s.putRow (a + 0x40280) (packRegs 64 (fun j => if j = 0 then 2 ^ 33 - 1 else (c.g.get 0 j).toNat) 16) false
  let s := s.putRow (a + 0x40300) (imgControl n c) false
  let s := s.putRows (a + 0x40380) (fun i => packRegs 256 (fun j => (c.k.get 0 (4 * i + j)).toNat) 4) 8
  let s := s.putRow (a + 0x40780) (packRegs 64 (fun j => ((imgCsrs c t).getD j 0).toNat) 15) false
  let s := s.putRow (a + 0x40800) (capHeader c ks) false
  let s := s.putRows (a + 0x40880) (fun i => match memCap ks with | some k => (k.vecs.getD i 0).toNat | none => 0) 8
  let s := s.putRow (a + 0x40C80) (packRegs 64 (fun j => match (c.eq.filter (·.serial == t.serial))[j]? with | some e => imgEng e | none => 0) 16) false
  s.putLand a c.schc c.land

/-! Saves (R93, R107, R181). -/

/-- A die's save slot j, and the slots in use. -/
def State.slotAddr (s : State) (die j : Nat) : Nat := s.sovf die + 2 ^ 23 + j * (272 * 1024)
def saveKey (die j : Nat) : Nat := die * 1024 + j
/-- The lowest free save slot of a die (R107, R116). -/
def State.freeSave (s : State) (die : Nat) : Option Nat :=
  if s.log2mb die = 0 then none else (List.range 1024).find? fun j => (s.saves.find (saveKey die j)).isNone
/-- The spill area of a die: start and end (R107). -/
def State.spillStart (s : State) (die : Nat) : Nat := s.sovf die + 280 * 2 ^ 20
def State.spillEnd (s : State) (die : Nat) : Nat := s.sovf die + (2 ^ s.log2mb die - 2 ^ (s.log2mb die - 2)) * 2 ^ 20
/-- The first address of the spill area beyond every spill in use. -/
def State.spillNext (s : State) (die : Nat) : Nat :=
  s.saves.foldl (fun m v => v.2.spill.foldl (fun m x =>
    if s.spillStart die ≤ x.2.2 ∧ x.2.2 < s.spillEnd die then max m (x.2.2 + 128 * x.2.1) else m) m) (s.spillStart die)
/-- Rows copied from one local address to another. -/
def State.copyRows (s : State) (src dst : Nat) : Nat → State
  | 0 => s
  | n + 1 => let s := s.copyRows src dst n; s.putRow (dst + 128 * n) (s.rawRow (src + 128 * n)).toNat (s.isPoison (src + 128 * n))
/-- Whether an extent is spilled at a switch: not resident, in scratchpad or panel store of this device (R93). -/
def State.spills (s : State) (e : Extent) : Bool :=
  e.valid && !e.res && devOf e.base == s.dev.devid.toNat && (match homeOf (localOf e.base) with | .sp _ | .ps _ => true | _ => false)
/-- A spill for which the area is short logged: the record has no form among those of R212, so the log is the model's own (DESIGN CHOICE, log 87). -/
def State.logShort (s : State) (base : W64) : State := { s with dev := { s.dev with shortSpills := s.dev.shortSpills ++ [base] } }
/-- The extents of a context spilled from number i on; one for which the area is short stays in place (R121). -/
def State.spillFrom (s : State) (die next : Nat) (i : Nat) : List Extent → State × List (Nat × Nat × Nat)
  | [] => (s, [])
  | e :: es =>
    if s.spills e then
      if next + 128 * e.len ≤ s.spillEnd die then
        let r := (s.copyRows (localOf e.base) next e.len).spillFrom die (next + 128 * e.len) (i + 1) es
        (r.1, (i, e.len, next) :: r.2)
      else (s.logShort e.base).spillFrom die next (i + 1) es
    else s.spillFrom die next (i + 1) es

/-- The commands of a context that have not started, when the first of them waits for an operand fetch: they are fetched again
after the restore (R181). -/
def State.mxLeft (s : State) (n : Nat) : List MxCmd := let k := s.core (n / 4); (k.q0 ++ k.q1).filter fun c => c.ctx == n && c.home == n / 4 && c.op != 16
/-- The captures of the commands of a context whose fetch a fault has stopped. -/
def State.mxStopped (s : State) (n : Nat) : List Capture := ((s.mxLeft n).filter (·.stopped)).map MxCmd.capture
def mxWaits (cs : List MxCmd) : Bool :=
  match cs with | [] => true | c :: _ => fetchTotal c != 0 && (c.stopped || decide (c.rows.length < fetchTotal c))
/-- Whether a context may be saved now (R181): not under a handler, its matrix commands complete but for a waiting fetch, its
timed accesses performed, and its queued ones too unless the save is forced. -/
def State.canSave (s : State) (n why : Nat) : Bool :=
  let c := s.ctx n
  let k := s.core (n / 4)
  k.run != some (n % 4) && mxWaits (s.mxLeft n) &&
    !((match k.eng with | some w => [w.c] | none => []) ++ k.out.map (·.c) ++ k.back.map (·.c)).any (fun m => m.ctx == n && m.home == n / 4 && m.op != 16) &&
    !(s.timed.any fun t => t.ctx == n) && (why == 0x0F || !(c.q.any fun q => q.st != .dead)) &&
    (match c.lp with | some l => l.nest.await.isNone | none => true)
/-- The store's owner marked saved (R184). -/
def Core.ownerSaved (k : Core) (t : TaskRun) : Core :=
  if bit k.accown 63 && fld k.accown 0 48 == t.serial % 2 ^ 48 then { k with accown := setFld k.accown 62 1 1 } else k
/-- A context saved to an address: its image written, its extents spilled, its stream unbound (after RNGSEL is in the image), the
context given up. What still performs stays with the save (DESIGN CHOICE, log 88). -/
def State.saveTo (s : State) (n : Nat) (t : TaskRun) (key a why accp : Nat) : State :=
  let left := s.mxLeft n
  let s := s.putImage n t a why accp ((left.take 1).map MxCmd.capture ++ (s.ctx n).cap.toList)
  let c := s.ctx n
  let die := dieOfCore (n / 4)
  let r := s.spillFrom die (s.spillNext die) 0 c.ext
  let s := r.1
  let keep : Hold := if c.hold.eng then .fence 5 3 else .none
  let v : Saved := ⟨a, t, n, c.q, c.land, c.reports, c.cap, left, keep, r.2, c.ext⟩
  let s := { s with saves := s.saves.put key v }
  let s := s.modCore (n / 4) fun k => { k.ownerSaved t with q0 := k.q0.filter (fun m => m.ctx != n || m.op == 16), q1 := k.q1.filter (fun m => m.ctx != n || m.op == 16) }
  let s := s.unbindRng n
  s.modCtx n fun c => { c with
      task := none, q := [], land := [], fq := [], past := c.engs.filter (·.serial != t.serial), eq := [], lp := none, ext := [],
      hold := .none, req := false, remain := 0, grace := false
      snap := none, irrev := false, poisoned := none, reports := [], cap := none, tileMark := false, owed := 0, rolled := false, halted := false
      poisonRegs := [], rngWait := false, rowsAt := none, rowsRead := [] }
/-- A number for a scheduler entry of a saved task: beyond the pools (R107). -/
def savedEntry (key : Nat) : Nat := 2 ^ 100 + key
/-- The saved task at the tail of its class, to be translated again (R117, R121). -/
def State.requeue (s : State) (n : Nat) (t : TaskRun) (key : Nat) : State :=
  let e : Entry := ⟨.resumed, .translating, t.group, t.rank, t.serial, t.trec, key, n / 4, t.ucore, maxOrder s.entries + 1, []⟩
  { s with entries := s.entries.put (savedEntry key) e }.post (savedEntry key) 0 .translationComplete

/-- Why a stopped context waits to be saved to a slot: CTXSAVE (0xC0) saves to its own area. -/
def Hold.slotWhy : Hold → Option Nat
  | .save why _ => if why = 0xC0 then Option.none else some why
  | _ => Option.none
/-- CONTEXT_SAVE (R121, R181). `unit`: the context. It takes place once the context has drained and a save slot is free. -/
def execContextSave (s : State) : Host.Outcome State Fault Refusal :=
  let n := s.unit
  match (s.ctx n).task, (s.ctx n).hold.slotWhy, s.freeSave (dieOfCore (n / 4)) with
  | some t, some why, some j =>
    let die := dieOfCore (n / 4)
    if s.canSave n why then
      let key := saveKey die j
      .next ((s.saveTo n t key (s.slotAddr die j) why 0).requeue n t key)
    else .next s
  | _, _, _ => .next s
/-- Whether a forced save has nothing to stop: the task ends, or the context is being saved, rolled back or has been killed. -/
def Hold.stays : Hold → Bool
  | .ending _ | .save _ _ | .rollback | .stuck => true
  | _ => false
/-- FORCED_SAVE: REMAIN has reached 0 (R121). `unit`: the context. While no save slot is free nothing is pre-empted (R116). -/
def execForcedSave (s : State) : Host.Outcome State Fault Refusal :=
  let n := s.unit
  let c := s.ctx n
  if c.req = true ∧ c.remain = 0 ∧ c.task.isSome ∧ c.hold.stays = false ∧ (s.freeSave (dieOfCore (n / 4))).isSome then
    .next (s.modCtx n fun c => { c with hold := .save 0x0F c.hold.eng })
  else .next s
/-- PENDING_LOAD_INTO_IMAGE: a queued load of a saved task performs and its data is written into the image (R169, R181). `unit`: the
save slot. -/
def execPendingLoadIntoImage (s : State) : Host.Outcome State Fault Refusal :=
  match s.saves.find s.unit with
  | none => .next s
  | some v =>
    match (List.range v.q.length).find? fun i => (match v.q[i]? with | some q => q.isLoad && !isMark q | none => false) && s.mayPerform (4096 + s.unit) i with
    | none => .next s
    | some i =>
      match v.q[i]? with
      | none => .next s
      | some q => s.performAny (4096 + s.unit) q

end Sys2Proof.Machine
end

