-- ==== Sys2Proof/Machine/Landing.lean ====
section
/-! DEFINITION. Landing as an event, report traps, the end of a task's drain, segments and rollbacks, the grace timer (R18, R110, R111,
R131, R170 to R172, R210, R217 to R220). -/

namespace Sys2Proof.Machine

/-- The context that owns a landing buffer's vector registers: in a handler the trapped one (R173). -/
def State.tgtOf (s : State) (own : Nat) : Nat := if own < 2048 then own else 4 * (own - 2048) + (s.core (own - 2048)).run.getD 0
/-- The landing buffer's due entries read: an armed error of array 3 names an entry by its place (R209, R213). -/
def State.injLandFrom (s : State) (own : Nat) : Nat → List LandEntry → State × List LandEntry
  | _, [] => (s, [])
  | i, e :: es =>
    if e.tick ≤ (s.ctx own).schc then
      let r := s.injReg 3 own i
      let x := r.1.injLandFrom own (i + 1) es
      (x.1, (if r.2 then { e with poison := some (3, BitVec.ofNat 64 (i + 2 ^ 11 * (own % 4) + 2 ^ 13 * (own / 4))) } else e) :: x.2)
    else
      let x := s.injLandFrom own (i + 1) es
      (x.1, e :: x.2)
def State.injLand (s : State) (own : Nat) : State :=
  if 2048 ≤ own ∨ s.frozenLand own = true ∨ bit (s.reg 0x301) 63 = false then s
  else
    let x := s.injLandFrom own 0 (s.ctx own).land
    x.1.modCtx own fun c => { c with land := x.2 }
/-- Landing with what it traps or consumes: a landing trap of the handler ends it (R170, R179, R210). Of several landing causes, consumed poison
among them, the first is taken; the others are taken one after another at the same boundary, before any report, unless a rollback takes them back
(R172, R219) (DEDUCED, log 53). -/
def State.landStep (s : State) (own : Nat) : State :=
  let tgt := s.tgtOf own
  let r := (s.injLand own).landDue own tgt
  match r.2 with
  | cause :: rest =>
    let old := (r.1.ctx own).reports
    let s := if own < 2048 then r.1.modCtx own fun c => { c with
        cap := if cause.cap.isSome then cause.cap else c.cap, reports := rest.filter (·.cause != 0x0D) ++ c.reports } else r.1
    if cause.cause = 0x0D then
      let t := s.consume own
      if (t.ctx own).hold = .rollback then t.modCtx own fun c => { c with reports := old } else t
    else { s with cur := tgt }.takeTrap cause.cause cause.tval (s.ctx tgt).pc
  | [] => r.1.consume own
/-- RESULT_LANDING (R131). `unit`: the context, or 2048 + core for a hidden trap context. -/
def execResultLanding (s : State) : Host.Outcome State Fault Refusal := .next (s.landStep s.unit)

/-! Reports (R170, R172). -/

/-- The first pending report of a context taken as a trap. PEERGONE restarts DISC with the discards reported with it (R394) (DEDUCED, log 75). -/
def State.takeReport (s : State) (n : Nat) : State :=
  match (s.ctx n).reports with
  | [] => s
  | r :: rest =>
    let s := s.modCtx n fun c => { c with
        reports := rest
        cap := if r.cap.isSome then r.cap else c.cap
        goneAt := if r.cause = 0x0A ∧ r.ofLoad = false then c.goneAt.put (devOf r.tval) s.map.version else c.goneAt }
    let s := { s with cur := n }.takeTrap r.cause r.tval (s.ctx n).pc
    if r.cause = 0x0A then s.modCtx n fun c => { c with csr := { c.csr with tframe := setFld c.csr.tframe 56 8 r.disc } } else s
/-- REPORT_TRAP: at a bundle boundary, while no handler runs on the core (R171). `unit`: the context. -/
def execReportTrap (s : State) : Host.Outcome State Fault Refusal :=
  let n := s.unit
  .next (if (s.core (n / 4)).run.isNone ∧ (s.ctx n).task.isSome ∧ n < 2048 then s.takeReport n else s)

/-- GRACE_TIMER_EXPIRY: RMSTALE (R18). `unit`: the context. The timer does not run in debug halt. -/
def execGraceTimerExpiry (s : State) : Host.Outcome State Fault Refusal :=
  let c := s.ctx s.unit
  if c.grace = true ∧ c.halted = false then
    .next ((s.modCtx s.unit fun c => { c with grace := false }).report s.unit 0x0E (s.reg 0x302))
  else .next s

/-! The end of a task (R110, R111). -/

/-- A row stored at a fabric address by context n's core: here, or as a WRITE to another device. -/
def State.storeFabric (s : State) (core part : Nat) (x : W64) (row mask : Row) (conf poison : Bool) : State :=
  if devOf x = s.dev.devid.toNat then s.storeLocal (localOf x) row mask poison
  else (s.inject core (devOf x) (s.flit 0 2 core 0 part x 0 1 conf row 0)).getD s
/-- The continuation frame written (R111), of which `row0` is row 0 as it stands. -/
def State.putFrame (s : State) (n : Nat) (t : TaskRun) (c : Ctx) (row0 : Row) : State :=
  (frameRows c (trSsmask t.trec) row0).foldl (fun s r =>
    match frameAddr c t.trec (trSsptr t.trec + 128 * r.1) with
    | some y => s.storeFabric (n / 4) t.part y r.2.1 fullMask (c.confAt y) r.2.2
    | none => s) s
/-- A continuation's record (R111): the task's with ENTRY, CONT and DEPCTR. -/
def contRec (r : Row) (dep : Nat) (pc : CodeAddr) : Row :=
  trSet (trSet (trSet r 0 6 pc.toNat) 8 8 dep) 0x18 1 (trF r 0x18 1 % 8 + 8)
/-- The continuation bound to its word (R108, R111). -/
def State.bindCont (s : State) (n : Nat) (t : TaskRun) (addr : W64) (pc : CodeAddr) : Made :=
  let dep := localOf addr % 2 ^ 56
  let r := contRec t.trec dep pc
  let e : Entry := ⟨.cont, .bound, t.group, t.rank, s.serial, r, 0, n / 4, t.ucore, 0, []⟩
  { s with serial := s.serial + 1 }.bindEntry dep e
/-- A launch that cannot go on: it creates no more groups and completes FAULT, and no group of it triggers any more (R108, R109). -/
def State.failLaunch (s : State) (cmd : Nat) : State :=
  match s.cmds.find cmd with
  | some c => match c.launch with
    | some l => { s with
        cmds := s.cmds.put cmd { c with launch := some { l with failed := true } }
        groups := mapVals (fun g => if g.cmd = cmd then { g with never := true } else g) s.groups }
    | none => s
  | none => s
/-- Whether a context has drained (R110). -/
def State.drained (s : State) (n : Nat) : Bool := (s.ctx n).land.isEmpty && !(s.mxBusy n (n / 4))
/-- TWAIT taken back at the end of its drain: the task goes on holding its context, with a trap at TWAIT's bundle. While a handler runs on the core
the trap waits. -/
def State.twaitBack (s : State) (n cause : Nat) (tval : W64) (pc : CodeAddr) : State :=
  if (s.core (n / 4)).run.isSome then s
  else { s.modCtx n fun c => { c with hold := .none, pc := pc, next := pc } with cur := n }.takeTrap cause tval pc
/-- What ends a drained task. A word that another has bound meanwhile, or that is no dependence counter any more, refuses the binding: TWAIT traps, with
nothing written; a frame whose extent has been revoked meanwhile is waited for (R108, R111, R120; log 31). -/
def State.endTask (s : State) (n : Nat) (t : TaskRun) (cont : Option (W64 × CodeAddr × CodeAddr)) : State :=
  match cont with
  | none => (s.leaveGroup n t.group).freeCtx n
  | some (addr, pc, own) =>
    match s.frameIs (s.ctx n) t.trec with
    | .waits => s
    | .trap c v => s.twaitBack n c (BitVec.ofNat 64 v) own
    | .at row0 =>
      match s.bindCont n t addr pc with
      | .ok s' => ((s'.putFrame n t (s.ctx n) row0).memberEnds n t.group).freeCtx n
      | .full => s
      | .refused => s.twaitBack n 0x01 addr own
/-- TASK_END_DRAIN_COMPLETE. `unit`: the context. -/
def execTaskEndDrainComplete (s : State) : Host.Outcome State Fault Refusal :=
  let n := s.unit
  let c := s.ctx n
  match c.hold, c.task with
  | .ending cont, some t => .next (if s.drained n then s.endTask n t cont else s)
  | _, _ => .next s

/-! Segments (R217 to R220). -/

/-- Whether a segment entry may issue: nothing to land and no matrix command of the context (R217). -/
def State.segReady (s : State) (n : Nat) : Bool := (s.ctx n).land.isEmpty && !(s.mxBusy n (n / 4))
/-- Commands issued before the entry are none of the new segment's. -/
def EngCmd.before (e : EngCmd) (n : Nat) : EngCmd := if e.ctx = n then { e with seg := false } else e
def RunCmd.before (r : RunCmd) (n : Nat) : RunCmd := { r with c := r.c.before n }
/-- The snapshot of a segment entry (R217). -/
def State.enterSegment (s : State) (n : Nat) : State :=
  let s := s.modCtx n fun c => { c.snapshot with eq := c.eq.map (·.before n) }
  s.modCore (n / 4) fun k => { k with
      copyE := k.copyE.map (·.before n)
      offE := k.offE.map (·.before n)
      mainE := k.mainE.map (·.before n)
      shadowE := k.shadowE.map (·.before n)
      recE := k.recE.map (·.before n)
      prio := k.prio.map (·.before n) }
/-- SEGMENT_ENTRY. `unit`: the context. -/
def execSegmentEntry (s : State) : Host.Outcome State Fault Refusal :=
  .next (if s.segReady s.unit then s.enterSegment s.unit else s)

/-- The empty bundle: it advances SCHC by one and does nothing else; with SEG it is a segment entry, which a handler, holding no task, has
none of (R217, R235). Its WF is awaited before it issues. -/
def execEmptyBundle (seg : Bool) (_wf : BitVec 16) (s : State) : Host.Outcome State Fault Refusal :=
  .next ((if seg && !s.hidden then s.enterSegment s.act else s).tick s.act)

/-- Whether a rollback's drain is over: queued accesses performed, matrix commands complete (R219). -/
def State.rollReady (s : State) (n : Nat) : Bool :=
  !((s.ctx n).q.any fun q => q.st != .dead) && !(s.timed.any fun t => t.ctx == n) && !(s.mxBusy n (n / 4))
/-- A running command of the segment cancelled. -/
def dropSeg (n : Nat) (r : Option RunCmd) : Option RunCmd :=
  match r with | some x => if x.c.ctx = n ∧ x.c.seg = true then none else some x | none => none
/-- The stream binding of the snapshot restored (R206): the same stream takes its counter back; another is unbound first. -/
def State.rollStream (s : State) (n : Nat) (p : Snapshot) : State :=
  let c := s.ctx n
  let same := bit c.csr.rngsel 63 && bit p.rngsel 63 && fld c.csr.rngsel 0 12 == fld p.rngsel 0 12
  let s := if same then s else s.unbindRng n
  let s := if same || !(bit p.rngsel 63) then s else s.bindRng n (fld p.rngsel 0 12)
  s.modCtx n fun c => { c with
      csr := { c.csr with rngsel := if bit p.rngsel 63 then c.csr.rngsel else p.rngsel }
      rngKey := p.rngKey
      rngCtr := p.rngCtr
      rngWait := p.rngWait && bit c.csr.rngsel 63 }
/-- RDVTO counts anew for the partners of a context that rolls back: the tasks of its group that wait at an RDV (R221). -/
def State.againRdv (s : State) (n : Nat) : State :=
  let waits (c : Ctx) : Bool := (match c.hold with | .rdv _ _ false => true | _ => false) && (s.ctx n).task.isSome &&
    c.task.map (·.group) == (s.ctx n).task.map (·.group)
  { s with ctxs := s.ctxs.map fun e => (e.1, if waits e.2 then { e.2 with rdvAt := e.2.rdvAt.map fun _ => s.cyc e.1 } else e.2) }
/-- The rollback itself (R219, steps 3 to 7). -/
def State.rollback (s : State) (n : Nat) (p : Snapshot) (array : Nat) (addr : W64) : State :=
  let c := s.ctx n
  if c.irrev then
    { s.modCtx n fun c => { c with hold := .none, poisoned := none } with cur := n }.takeTrap 0x0D
      (if array < 6 then BitVec.ofNat 64 (2 ^ 64 - 1) else addr) c.pc
  else
    let s := s.modCore (n / 4) fun k => { k with
        copyE := dropSeg n k.copyE
        offE := dropSeg n k.offE
        prio := k.prio.filter fun e => !(e.ctx == n && e.seg && (match c.task with | some t => t.serial == e.serial | none => false)) }
    let s := (s.againRdv n).rollStream n p
    let s := s.modCtx n fun c => { c with
        s := p.s, g := p.g, f := p.f ||| c.outside, ix := p.ix, lp := p.lp, pc := p.pc, next := p.pc, schc := p.schc, land := [], fq := [],
        hold := .none, poisoned := none, rolled := true, eq := c.eq.filter (fun e => !e.seg)
        csr := { c.csr with rrb := p.rrb, logh := p.logh, recst := p.recst } }
    (s.bumpErrlog (n / 4) 32 8).errRecord (BitVec.ofNat 64 (n / 4 * 2 ^ 13 + n % 4 * 2 ^ 11)) array 4 false 0 n
/-- SEGMENT_ROLLBACK. `unit`: the context. -/
def execSegmentRollback (s : State) : Host.Outcome State Fault Refusal :=
  let n := s.unit
  let c := s.ctx n
  match c.hold, c.snap, c.poisoned with
  | .rollback, some p, some (array, addr) => .next (if s.rollReady n then s.rollback n p array addr else s)
  | _, _, _ => .next s

end Sys2Proof.Machine
end

