-- ==== Sys2Proof/Machine/TreeOps.lean ====
section
/-! DEFINITION. Tree objects: handles and the tree table, member records, routes, combining arithmetic (R45 to R57). -/

namespace Sys2Proof.Machine

/-! The tree table (R45 to R48). -/

def hOwner (h : W32) : Nat := bitsOf h.toNat 26 6
def hIdx (h : W32) : Nat := bitsOf h.toNat 12 14
def hGen (h : W32) : Nat := bitsOf h.toNat 0 12
/-- Tree id: [31:12]. -/
def hId (h : W32) : Nat := h.toNat / 2 ^ 12
/-- The table's base: the table lies in this device's HBM4E, so the device number in a fabric address does not move it (log 63). -/
def State.ttBase (s : State) (part : Nat) : Nat := localOf (s.reg (0x308 + part)) / 2 ^ 16 * 2 ^ 16
/-- Entries of a partition's table: 0 when it has no trees. -/
def State.ttCount (s : State) (part : Nat) : Nat := let l := fld (s.reg (0x308 + part)) 0 5; if l = 0 then 0 else 2 ^ l
def State.ttAt (s : State) (part idx : Nat) : Nat := s.ttBase part + 256 * idx
def State.ttRow (s : State) (part idx : Nat) : BitVec 2048 := BitVec.ofNat 2048 (s.bytes (s.ttAt part idx) 256)
def State.putTt (s : State) (part idx off n v : Nat) : State := s.putMem (s.ttAt part idx + off) n v
def teState (e : BitVec 2048) : Nat := lnrF e 4 1
def teKind (e : BitVec 2048) : Nat := lnrF e 5 1
def teOp (e : BitVec 2048) : Nat := lnrF e 6 1
def teFmt (e : BitVec 2048) : Nat := lnrF e 7 1
def teSegRows (e : BitVec 2048) : Nat := lnrF e 8 2
def teSat (e : BitVec 2048) : Bool := lnrF e 0x0A 2 % 2 == 1
def tePrio (e : BitVec 2048) : Bool := lnrF e 0x0A 2 / 2 % 2 == 1
def teNmemb (e : BitVec 2048) : Nat := lnrF e 0x0C 2
def teRoot (e : BitVec 2048) : Nat := lnrF e 0x0E 2
def teTimeout (e : BitVec 2048) : Nat := lnrF e 0x10 4
def teNbuf (e : BitVec 2048) : Nat := lnrF e 0x14 2
def teMembase (e : BitVec 2048) : Nat := lnrF e 0x18 8 % 2 ^ 58
def teRoute (e : BitVec 2048) : Nat := lnrF e 0x20 8 % 2 ^ 58
def teNseam (e : BitVec 2048) : Nat := lnrF e 0x28 4
def teEditSeg (e : BitVec 2048) : Nat := lnrF e 0x2C 4
def teEdit (e : BitVec 2048) : Nat := lnrF e 0x30 8 % 2 ^ 58
def teSave (e : BitVec 2048) : Nat := lnrF e 0x38 8 % 2 ^ 58

/-- What a handle names in a partition (R45, R64). -/
inductive TreeRef where
  | tree (e : BitVec 2048)
  | stale
  deriving DecidableEq, Repr
def State.treeRef (s : State) (part : Nat) (h : W32) : TreeRef :=
  let e := s.ttRow part (hIdx h)
  if hOwner h = s.dev.devid.toNat ∧ hGen h ≠ 0 ∧ hIdx h < s.ttCount part ∧ lnrF e 0 4 = h.toNat ∧ teState e ≠ 0 then .tree e else .stale
/-- KIND, OP, FMT and SEGROWS of the table of legal parameters. -/
def treeLegal (kind op fmt rows : Nat) : Bool :=
  decide (1 ≤ rows) &&
    (match kind with
    | 1 => op == 6 && [0, 1, 8, 9, 12].contains fmt && decide (rows ≤ 256)
    | 0 | 2 =>
      if op ≤ 2 then (fmt == 0 && decide (rows ≤ 256)) || ([1, 8, 9].contains fmt && decide (rows ≤ 128))
      else decide (op ≤ 5) && [8, 9, 12].contains fmt && decide (rows ≤ 256)
    | _ => false)
/-- What the handle of a tree that another device owns names: the entry is free (log 34). -/
def State.farRef (s : State) (part : Nat) (h : W32) : TreeRef :=
  let e := Config.farTree h.toNat part s.dev.fresh
  if hGen h ≠ 0 ∧ lnrF e 0 4 = h.toNat ∧ teState e ≠ 0 ∧ treeLegal (teKind e) (teOp e) (teFmt e) (teSegRows e) = true then .tree e else .stale
/-- An entry's HANDLE after it is freed (R45). -/
def nextHandle (h : Nat) : Nat := h / 2 ^ 12 * 2 ^ 12 + (if h % 2 ^ 12 = 0xFFF then 1 else h % 2 ^ 12 + 1)
/-- The table initialised from entry n − 1 down (R46). -/
def State.ttInit (s : State) (part : Nat) : Nat → State
  | 0 => s
  | n + 1 =>
    let s := s.ttInit part n
    s.putMem (s.ttAt part n) 256 (s.dev.devid.toNat * 2 ^ 26 + n * 2 ^ 12 + 1)
/-- Whether any entry of a partition's table is in use. -/
def State.ttBusy (s : State) (part : Nat) : Bool := (List.range (s.ttCount part)).any fun i => teState (s.ttRow part i) != 0
/-- A write to TTABn (R46). -/
def State.writeTtab (s : State) (part : Nat) (v : W64) : State :=
  let w := setFld (setFld v 5 11 0) 0 5 (min 14 (fld v 0 5))
  if w = s.reg (0x308 + part) ∨ s.ttBusy part then s
  else let s := s.setReg (0x308 + part) w; s.ttInit part (s.ttCount part)
/-- TTAB_WRITE. -/
def execTtabWrite (n : Nat) (v : W64) (s : State) : Host.Outcome State Fault Refusal := .next (s.heard (s.writeTtab (n % 8) v))

/-! Members (R48, R63). The record of a member as a number of 256 bits. -/

def State.memRec (s : State) (e : BitVec 2048) (m : Nat) : Nat := s.bytes (teMembase e + 32 * m) 32
def mrDest (r : Nat) : W64 := BitVec.ofNat 64 r
def mrStat (r : Nat) : W64 := BitVec.ofNat 64 (r / 2 ^ 64)
def mrSync (r : Nat) : W64 := BitVec.ofNat 64 (r / 2 ^ 128)
def mrCore (r : Nat) : Nat := bitsOf r 192 9
def mrDev (r : Nat) : Nat := bitsOf r 208 6
def mrFlags (r : Nat) : Nat := bitsOf r 216 8
def mrNext (r : Nat) : Nat := bitsOf r 224 32
/-- The queued-edit list at EDITBASE (its layout is the model's, log 33): 16 B an edit, [15:0] member, [16] set for a removal,
[63:32] effect segment, [127:64] its number plus one; it ends at the first zero number. -/
def State.editsFrom (s : State) (a : Nat) : Nat → Nat → List (Nat × Bool × Nat)
  | 0, _ => []
  | fuel + 1, k =>
    let w := s.bytes (a + 16 * k) 16
    if w / 2 ^ 64 ≠ k + 1 then [] else (bitsOf w 0 16, w / 2 ^ 16 % 2 == 1, bitsOf w 32 32) :: s.editsFrom a fuel (k + 1)
def State.edits (s : State) (e : BitVec 2048) : List (Nat × Bool × Nat) := s.editsFrom (teEdit e) 8192 0
/-- Whether segment a is before segment b, modulo 2^32. -/
def segLt (a b : Nat) : Bool := a != b && decide ((b + 2 ^ 32 - a) % 2 ^ 32 < 2 ^ 31)
/-- Whether a member belongs to the tree in a segment (R63). -/
def State.isMember (s : State) (e : BitVec 2048) (m seg : Nat) : Bool :=
  decide (m < teNmemb e) && (s.edits e).all fun d => d.1 != m || (if d.2.1 then segLt seg d.2.2 else !(segLt seg d.2.2))
/-- Whether a member with a record may contribute (R49). -/
def contributesBy (e : BitVec 2048) (m rec : Nat) : Bool := if teKind e = 1 then m == teRoot e else mrFlags rec % 2 == 1
/-- Whether a member with a record receives (R49). -/
def receivesBy (e : BitVec 2048) (m rec : Nat) : Bool :=
  match teKind e with
  | 0 => m == teRoot e
  | 1 => m != teRoot e && mrFlags rec / 2 % 2 == 1
  | _ => mrFlags rec / 2 % 2 == 1
def State.contributes (s : State) (e : BitVec 2048) (m : Nat) : Bool := contributesBy e m (s.memRec e m)
def State.receives (s : State) (e : BitVec 2048) (m : Nat) : Bool := receivesBy e m (s.memRec e m)

/-! Routes (R50, R51). -/

/-- A seam placed by the route's rule: device, place (router code, plus 2^16 for the domain seam) and the keys of its children. -/
structure Placed where
  dev : Nat
  place : Nat
  kids : List Nat
  deriving DecidableEq, Repr
/-- A child on its way up: key, device, die. -/
structure Kid where
  key : Nat
  dev : Nat
  die : Nat
  deriving DecidableEq, Repr
/-- Router level of a place, and its W (R52). -/
def placeLevel (p : Nat) : Nat := p % 2 ^ 16 / 2 ^ 14
def placeW (p : Nat) : Nat := if placeLevel p = 2 then 16 else 2
def placeUnit (p : Nat) : Nat := p % 2 ^ 14
/-- The die of a place. -/
def placeDie (p : Nat) : Nat := if placeLevel p = 0 then dieOfCore (placeUnit p) else placeUnit p % 8
/-- The core router at a panel's inner corner (R24). -/
def cornerOf (panel : Nat) : Nat := panel / 4 * 64 + (3 + panel / 2 % 2) * 8 + (3 + panel % 2)
/-- Staging rows of a router pool, and those reserved by the seams that stand. -/
def poolRows (place : Nat) : Nat := [64, 2048, 4096].getD (placeLevel place) 0
def State.reserved (s : State) (place : Nat) : Nat :=
  s.seams.foldl (fun n x => if x.2.place % 2 ^ 16 = place % 2 ^ 16 then n + placeW place * x.2.ports.length else n) 0
/-- Whether a router's pool has room for n ports. -/
def State.poolFits (s : State) (dev place n : Nat) : Bool :=
  if dev = s.dev.devid.toNat then decide (s.reserved place + placeW place * n ≤ poolRows place)
  else Config.farRoom dev place (placeW place * n)
def insKey (k : Nat) : List Nat → List Nat
  | [] => [k]
  | x :: xs => if k ≤ x then k :: x :: xs else x :: insKey k xs
/-- Keys in ascending order (DEDUCED, log 89). -/
def sortKeys : List Nat → List Nat
  | [] => []
  | x :: xs => insKey x (sortKeys xs)
/-- Units in ascending order, each once. -/
def unitsIn (f : Kid → Nat) (ks : List Kid) : List Nat := (sortKeys (ks.map f)).eraseDups
/-- One level: for every unit of the children, a seam or, elided, its children (R50). -/
def levelUp (f : Kid → Nat) (place : Nat → Nat × Nat) (elide : Nat → List Kid → Bool) (ks : List Kid) (start : Nat) :
    List Nat → List Placed × List Kid
  | [] => ([], [])
  | u :: us =>
    let mine := ks.filter fun k => f k == u
    if elide u mine then
      let r := levelUp f place elide ks start us
      (r.1, mine ++ r.2)
    else
      let p := place u
      let r := levelUp f place elide ks (start + 1) us
      (⟨p.1, p.2, sortKeys (mine.map (·.key))⟩ :: r.1, ⟨4096 + start, p.1, placeDie p.2⟩ :: r.2)
def oneKid (ks : List Kid) : Bool := ks.length == 1
/-- The route of members (index, device, core) with a root (R50): its seams in index order. -/
def State.routeOf (s : State) (ms : List (Nat × Nat × Nat)) (root : Nat) : List Placed :=
  let coreOf (m : Nat) : Nat × Nat := ((ms.find? fun x => x.1 == m).map (·.2)).getD (0, 0)
  let lone := ms.length == 1
  let kids := ms.map fun m => Kid.mk m.1 m.2.1 (dieOfCore m.2.2)
  let fp (k : Kid) : Nat := k.dev * 32 + panelOfCore (coreOf k.key).2
  let p1 := levelUp fp (fun u => (u / 32, cornerOf (u % 32)))
    (fun u ks => !lone && (oneKid ks || !(s.poolFits (u / 32) (cornerOf (u % 32)) ks.length))) kids 0 (unitsIn fp kids)
  let fd (k : Kid) : Nat := k.dev * 8 + k.die
  let n1 := p1.1.length
  let p2 := levelUp fd (fun u => (u / 8, 2 ^ 14 + u % 8)) (fun _ ks => oneKid ks) p1.2 n1 (unitsIn fd p1.2)
  let n2 := n1 + p2.1.length
  let rd := (coreOf root).1
  let rdie := dieOfCore (coreOf root).2
  let low (d : Nat) : Nat := ((kids.filter fun k => k.dev == d).map (·.die)).foldl min 7
  let p3 := levelUp (·.dev) (fun d => (d, 2 * 2 ^ 14 + if d = rd then rdie else low d)) (fun _ ks => oneKid ks) p2.2 n2 (unitsIn (·.dev) p2.2)
  let n3 := n2 + p3.1.length
  let p4 := levelUp (fun _ => 0) (fun _ => (rd, 2 ^ 16 + 2 * 2 ^ 14 + rdie)) (fun _ ks => oneKid ks) p3.2 n3 (unitsIn (fun _ => 0) p3.2)
  p1.1 ++ p2.1 ++ p3.1 ++ p4.1
/-- The parent of seam i of a route: its index and the port there. -/
def parentOf (r : List Placed) (i : Nat) : Option (Nat × Nat) :=
  (List.range r.length).findSome? fun j => match r[j]? with
    | some p => (p.kids.idxOf? (4096 + i)).map fun k => (j, k)
    | none => none
/-- A route's seams that fit (R52): die and level-2 pools, and the panel seam of a lone member. -/
def State.routeFits (s : State) (r : List Placed) : Bool :=
  r.all fun p =>
    let need := ((r.filter fun q => q.dev == p.dev && q.place % 2 ^ 16 == p.place % 2 ^ 16).map fun q => q.kids.length).foldl (· + ·) 0
    s.poolFits p.dev p.place need
/-- A stored route: seam i's record, and the keys of its children (R52). -/
def State.seamRec (s : State) (base i : Nat) : Nat := s.bytes (base + 16 * i) 16
def State.seamKids (s : State) (base i : Nat) : List Nat :=
  let r := s.seamRec base i
  (List.range (bitsOf r 24 8)).map fun k => s.bytes (base + bitsOf r 64 32 + 2 * k) 2
/-- A route written at an address: the records, then the child lists. The domain seam is told from a device seam in the same
router by its index alone. -/
def State.putRoute (s : State) (base : Nat) (r : List Placed) : State :=
  let n := r.length
  (List.range n).foldl (fun (a : State × Nat) i =>
    match r[i]? with
    | none => a
    | some p =>
      let par := parentOf r i
      let w := p.place % 2 ^ 16 + 2 ^ 16 * p.dev + 2 ^ 24 * p.kids.length + 2 ^ 32 * (match par with | some x => x.1 | none => 0xFFFF) +
        2 ^ 48 * (match par with | some x => x.2 | none => 0) + 2 ^ 64 * a.2
      let s := a.1.putMem (base + 16 * i) 16 w
      (s.putMem (base + a.2) (2 * p.kids.length) (packRegs 16 (fun k => p.kids.getD k 0) p.kids.length), a.2 + 2 * p.kids.length))
    (s, 16 * n) |>.1
/-- The members below a child of a route. -/
def below (r : List Placed) : Nat → Nat → List Nat
  | 0, _ => []
  | fuel + 1, k => if k < 4096 then [k] else match r[k - 4096]? with | some p => (p.kids.map (below r fuel)).flatten | none => []
/-- A stored route of a tree read back. A device seam has the members of one device below it; a level-2 seam over more is the domain seam (R50). -/
def State.getRoute (s : State) (e : BitVec 2048) (base n : Nat) : List Placed :=
  let raw := (List.range n).map fun i =>
    let r := s.seamRec base i
    Placed.mk (bitsOf r 16 8) (bitsOf r 0 16) (s.seamKids base i)
  raw.map fun p =>
    let devs := ((p.kids.map (below raw 6)).flatten.map fun m => mrDev (s.memRec e m)).eraseDups
    if placeLevel p.place = 2 ∧ 1 < devs.length then { p with place := p.place + 2 ^ 16 } else p

/-! Combining arithmetic (R55, R57, R59). -/

/-- Whether posted rows travel as two partial rows. -/
def teWide (e : BitVec 2048) : Bool := (teFmt e == 1 || teFmt e == 8 || teFmt e == 9) && decide (teOp e ≤ 2)
/-- Rows of a partial: P. -/
def teP (e : BitVec 2048) : Nat := teSegRows e * (if teWide e then 2 else 1)
/-- The order of binary32 words with +0 above −0, as integers. -/
def ordKey (x : Nat) : Int := if x < 2 ^ 31 then (x : Int) else -((x - 2 ^ 31 : Nat) : Int) - 1
def isNan32 (x : Nat) : Bool := decide (0x7F800000 < x % 2 ^ 31)
def treeMinMax (isMax : Bool) (x y : Nat) : Nat :=
  if isNan32 x || isNan32 y then 0x7FC00000
  else if (if isMax then decide (ordKey x < ordKey y) else decide (ordKey y < ordKey x)) then y else x
/-- The fold of two partial rows. -/
def foldRow (e : BitVec 2048) (x y : Row) : Row :=
  let lanes (w : Nat) (f : Nat → Nat → Nat) : Row := BitVec.ofNat 1024 (packRegs w (fun i => f (elem w x i) (elem w y i)) (1024 / w))
  let fp := decide (teFmt e ≤ 1)
  let less (a b : Nat) : Bool := if teFmt e = 8 then decide (sextNat a 64 < sextNat b 64) else decide (a < b)
  match teOp e with
  | 0 => if fp then lanes 32 add32 else lanes 64 fun a b => a + b
  | 1 => if fp then lanes 32 (treeMinMax true) else lanes 64 fun a b => if less a b then b else a
  | 2 => if fp then lanes 32 (treeMinMax false) else lanes 64 fun a b => if less b a then b else a
  | 3 => x &&& y
  | 4 => x ||| y
  | 5 => x ^^^ y
  | _ => x
/-- The operator's identity as a partial row. R59 names none for COPY, whose one contributor may be missing: the model takes 0 (DESIGN CHOICE,
log 124). -/
def identRow (e : BitVec 2048) : Row :=
  let all (w v : Nat) : Row := BitVec.ofNat 1024 (packRegs w (fun _ => v) (1024 / w))
  match teOp e with
  | 1 => if teFmt e ≤ 1 then all 32 0xFF800000 else if teFmt e = 8 then all 64 (2 ^ 64 - 2 ^ 31) else 0
  | 2 => if teFmt e ≤ 1 then all 32 0x7F800000 else if teFmt e = 8 then all 64 (2 ^ 31 - 1) else all 64 (2 ^ 32 - 1)
  | 3 => BitVec.allOnes 1024
  | _ => 0
/-- Partial row `half` of a posted row. -/
def partialRow (e : BitVec 2048) (r : Row) (half : Nat) : Row :=
  if teFmt e = 1 then BitVec.ofNat 1024 (packRegs 32 (fun i => elem 16 r (32 * half + i) * 2 ^ 16) 32)
  else BitVec.ofNat 1024 (packRegs 64 (fun i =>
    let x := elem 32 r (16 * half + i)
    if teFmt e = 8 ∧ 2 ^ 31 ≤ x then x + (2 ^ 64 - 2 ^ 32) else x) 16)
/-- One delivered integer (R57). -/
def deliverInt (e : BitVec 2048) (x : Nat) : Nat :=
  if teOp e = 0 ∧ teSat e = true then
    if teFmt e = 8 then
      let v := sextNat x 64
      wrapInt 32 (max (-((2 ^ 31 : Nat) : Int)) (min ((2 ^ 31 - 1 : Nat) : Int) v))
    else min x (2 ^ 32 - 1)
  else x % 2 ^ 32
/-- Every NaN of a sum, maximum or minimum of floating-point values is the canonical one (R57, R191). -/
def canonRow (e : BitVec 2048) (x : Row) : Row :=
  if teOp e ≤ 2 ∧ teFmt e ≤ 1 then BitVec.ofNat 1024 (packRegs 32 (fun i => if isNan32 (elem 32 x i) then 0x7FC00000 else elem 32 x i) 32) else x
/-- Delivered row i from the partial rows. -/
def deliverRow (e : BitVec 2048) (ps : Nat → Row) (i : Nat) : Row :=
  if teWide e = false then ps i
  else if teFmt e = 1 then
    BitVec.ofNat 1024 (packRegs 16 (fun k => (cvtFp fp32 bf16 .rne false (elem 32 (ps (2 * i + k / 32)) (k % 32))).1) 64)
  else BitVec.ofNat 1024 (packRegs 32 (fun k => deliverInt e (elem 64 (ps (2 * i + k / 16)) (k % 16))) 32)

end Sys2Proof.Machine
end

