-- ==== Sys2Proof/Machine/Trees.lean ====
section
/-! DEFINITION. Seams at work: slots and refills, staging and folding, windows, timeouts and late contributions, delivery and notices
(R53 to R65). An event's seam operand is the place of the router (2^16 added for a domain seam), and 2^17 times one more than the
receive slot for a flit that comes over a link; the place of no router, level 3, stands for the member here whose number is its unit, under another
device's seam. Events with no flit name their partition in `unit`. Seams of the device's own trees stand from TREE.MAKE on, seams of other devices'
trees from their first refill (log 34). -/

namespace Sys2Proof.Machine

/-! Where seams and windows are kept. -/

def seamKey (part : Nat) (h : W32) (place : Nat) : Nat := (part * 2 ^ 20 + hId h) * 2 ^ 17 + place % 2 ^ 17
def winKey (part : Nat) (h : W32) (key : Nat) : Nat := (part * 2 ^ 20 + hId h) * 2 ^ 13 + key % 2 ^ 13
def State.putSeam (s : State) (x : Seam) : State := { s with seams := s.seams.put (seamKey x.part x.handle x.place) x }
/-- The entry of a seam's tree: in this device's table, or as its owner answered it. -/
def State.seamEnt (s : State) (x : Seam) : BitVec 2048 := x.ent.getD (s.ttRow x.part (hIdx x.handle))
/-- The route of a tree. -/
def State.treeRoute (s : State) (e : BitVec 2048) : List Placed := s.getRoute e (teRoute e) (teNseam e)
def State.mine (s : State) (d : Nat) : Bool := d == s.dev.devid.toNat
/-- The entry that a handle names: of a tree that another device owns, what its owner answered, else free (log 34). -/
def State.entOf (s : State) (part : Nat) (h : W32) : BitVec 2048 :=
  if s.mine (hOwner h) then s.ttRow part (hIdx h)
  else ((s.seams.find? fun y => y.2.part == part && y.2.handle == h && y.2.ent.isSome).bind fun y => y.2.ent).getD (Config.farTree h.toNat part 0)
/-- A member's record; of a tree that another device owns it is free (log 34). -/
def State.recOfMember (s : State) (part : Nat) (h : W32) (e : BitVec 2048) (m : Nat) : Nat :=
  if s.mine (hOwner h) then s.memRec e m else Config.farMember h.toNat part m 0
/-- Whether a member belongs to a tree in a segment, as far as this device knows the edits. -/
def State.inTree (s : State) (h : W32) (e : BitVec 2048) (m seg : Nat) : Bool :=
  if s.mine (hOwner h) then s.isMember e m seg else decide (m < teNmemb e)
def State.givesIn (s : State) (part : Nat) (h : W32) (e : BitVec 2048) (m seg : Nat) : Bool :=
  s.inTree h e m seg && contributesBy e m (s.recOfMember part h e m)
def State.takesIn (s : State) (part : Nat) (h : W32) (e : BitVec 2048) (m seg : Nat) : Bool :=
  s.inTree h e m seg && receivesBy e m (s.recOfMember part h e m)
/-- The members below a port of a seam. -/
def Seam.sub (x : Seam) (p : Nat) : List Nat := x.subs.getD p []
/-- A child's window: segment and rows (R56). A member under another device's seam has that seam's first allowance from the start. -/
def State.win (s : State) (part : Nat) (h : W32) (key : Nat) : Nat × Nat :=
  s.treeWin.get (if s.mine (hOwner h) then (0, 0) else (0, placeW (Config.farSeam h.toNat part key).1)) (winKey part h key)
def State.setWin (s : State) (part : Nat) (h : W32) (key seg rows : Nat) : State :=
  { s with treeWin := s.treeWin.put (winKey part h key) (seg, rows) }

/-! Flits of a tree (R55). -/

def fSeg (f : Flit) : Nat := fld f.addr 32 32
def fRow (f : Flit) : Nat := fld f.addr 24 8
/-- PARTIAL; in a CREDIT flit the closing of a segment. -/
def fPart (f : Flit) : Bool := bit f.addr 23
def fTorn (f : Flit) : Bool := bit f.addr 22
def fLast (f : Flit) : Bool := bit f.addr 21
def fKey (f : Flit) : Nat := fld f.addr 0 16
def treeAddr (seg row : Nat) (part torn last : Bool) (key : Nat) : W64 :=
  BitVec.ofNat 64 (seg % 2 ^ 32 * 2 ^ 32 + row % 256 * 2 ^ 24 + (if part then 2 ^ 23 else 0) + (if torn then 2 ^ 22 else 0) +
    (if last then 2 ^ 21 else 0) + key % 2 ^ 16)
/-- A tree flit of a partition. -/
def State.treeFlit (s : State) (kind vc core part : Nat) (h : W32) (a : W64) (rows : Nat) (p : Row) : Flit :=
  s.flit kind vc core 0 part a h.toNat rows false p 0
/-- A tree flit as it arrives: over a link (checked, R35), or from this device. -/
def State.treeArrive (s : State) (seam : Nat) (f : Flit) : State × Option Flit :=
  if seam / 2 ^ 17 = 0 then (s, some f) else s.receive (seam / 2 ^ 17 - 1) f

/-! Outstanding posts (R60, R61, R64). -/

/-- A segment's fate told to a member on this device: a notice; a member elsewhere learns it from its own device (log 34). -/
def State.notify (s : State) (part : Nat) (h : W32) (m seg status : Nat) : State :=
  if s.posted.any fun p => p.part == part && p.handle == h && p.member == m && p.seg == seg && p.status.isNone then
    s.post part 0 (.postCompletionNotice h m (BitVec.ofNat 32 seg) status)
  else s
def State.notifyAll (s : State) (part : Nat) (h : W32) (seg status : Nat) (ms : List Nat) : State :=
  ms.foldl (fun s m => s.notify part h m seg status) s
/-- POST_COMPLETION_NOTICE: the segment's status, once. `unit`: the partition. -/
def execPostCompletionNotice (h : W32) (m : Nat) (seg : W32) (status : Nat) (s : State) : Host.Outcome State Fault Refusal :=
  .next { s with posted := s.posted.map fun p =>
    if p.part = s.unit ∧ p.handle = h ∧ p.member = m ∧ p.seg = seg.toNat ∧ p.status = none then { p with status := some status } else p }
/-- The POST that a record belongs to, while it runs. -/
def State.posterOf (s : State) (p : Posted) : Option EngCmd :=
  match (if p.shadow then (s.core p.core).shadowE else (s.core p.core).mainE) with
  | some r => if r.c.id = p.cmd then some r.c else none
  | none => none
/-- TREEFAULT for the poster, whose segment completes FREED (R64). -/
def State.faultPost (s : State) (p : Posted) : State :=
  let s := s.notify p.part p.handle p.member p.seg 3
  match s.posterOf p with
  | some c => s.reportTask c.ctx c.serial 0x0B (p.handle.zeroExtend 64)
  | none => s
/-- Every outstanding post of a tree completes with a status: FREED or BROKEN (R65). -/
def State.endPosts (s : State) (part : Nat) (h : W32) (status : Nat) : State :=
  s.posted.foldl (fun s p => if p.part = part ∧ hId p.handle = hId h then s.notify part p.handle p.member p.seg status else s) s
/-- The seam of a tree that has an index, on this device. -/
def State.seamIdx (s : State) (part : Nat) (h : W32) (i : Nat) : Option Seam :=
  (s.seams.find? fun y => y.2.part == part && y.2.handle == h && y.2.idx == i && !y.2.ports.isEmpty).map Prod.snd
/-- The members whose contributions a flit from a child carries. -/
def State.flitMembers (s : State) (part : Nat) (f : Flit) : List Nat :=
  if fKey f < 4096 then [fKey f]
  else match s.seamIdx part f.word (fKey f - 4096) with
    | some x => x.subs.flatten
    | none => below (s.treeRoute (s.entOf part f.word)) 6 (fKey f)
/-- A flit discarded on a refill: TREEFAULT for every poster whose contribution it carries (R54, R64). -/
def State.faultFlit (s : State) (f : Flit) : State :=
  let part := f.part.toNat
  let ms := s.flitMembers part f
  s.posted.foldl (fun s p =>
    if p.part = part ∧ p.handle = f.word ∧ p.seg = fSeg f ∧ p.status = none ∧ ms.contains p.member = true then s.faultPost p else s) s
/-- A router's name in error records (R212): the core router of a panel seam, the die router above. -/
def routerName (place : Nat) : Nat := if placeLevel place = 0 then placeUnit place + 2 ^ 61 else placeDie place + 2 ^ 60
/-- An error record of a router: a row out of the window, or from no port (R58, R212). -/
def State.routerErr (s : State) (place : Nat) : State := s.errRecord (BitVec.ofNat 64 (routerName place)) 13 6 false 0 noCtx
/-- A tree counter advanced: 0x48 LATE, 0x50 PARTIALS, 0x58 DELIVERED (R47). That of another device's tree is its owner's to write (log 34). -/
def State.bumpTree (s : State) (part : Nat) (h : W32) (off : Nat) : State :=
  let i := hIdx h
  if s.mine (hOwner h) then s.putTt part i off 8 (lnrF (s.ttRow part i) off 8 + 1) else s

/-! Windows (R56). -/

/-- A CREDIT flit to the child at a port: on this device an event, else a flit, which names the child in ADDR[15:0] (log 34). -/
def State.treeCredit (s : State) (x : Seam) (p row : Nat) (close : Bool) : State :=
  let key := x.ports.getD p 0
  let dev := (x.kidAt.getD p (0, 0)).1
  let f := s.treeFlit 10 4 0 x.part x.handle (treeAddr x.seg (min 255 row) close false false key) 0 0
  if s.mine dev then s.post x.part 0 (.treeCredit key f) else s.sendCtl (placeDie x.place) dev f
/-- The allowance of a seam's current segment told to every child. -/
def State.extend (s : State) (x : Seam) : State :=
  (List.range x.ports.length).foldl (fun s p => s.treeCredit x p (x.folded + placeW x.place - 1) false) s

/-! Slots (R53, R54). -/

/-- Slots of a router. -/
def slotsOf (place : Nat) : Nat := [4, 64, 32].getD (placeLevel place) 0
def sameRouter (a b : Nat) : Bool := a % 2 ^ 16 == b % 2 ^ 16
def Seam.idleNow (x : Seam) : Bool := x.ph == .idle && x.staged.isEmpty && x.folded == 0
/-- The seams that wait for a slot of a router, with flits or with a segment under way, come again when one of its slots is idle. -/
def State.serveWaiting (s : State) (place : Nat) : State :=
  s.seams.foldl (fun s x =>
    if sameRouter x.2.place place ∧ x.2.slot = false ∧ (x.2.held.isEmpty = false ∨ x.2.idleNow = false) ∧ x.2.ports.isEmpty = false then
      s.post x.2.part 0 (.slotInstall x.2.place x.2.handle) else s) s
/-- A slot of a router for a seam: a free one, else the least recently used idle one's; none while every slot is live (R53, R54). -/
def State.claimSlot (s : State) (place : Nat) : Option State :=
  let here := s.seams.filter fun y => sameRouter y.2.place place && y.2.slot
  if here.length < slotsOf place then some s
  else (leastBy (fun a b => decide (a.2.used < b.2.used)) (here.filter fun y => y.2.idleNow)).map fun y => s.putSeam { y.2 with slot := false }
/-- A seam that is not there yet: it only holds flits for the owner's answer. -/
def holdOnly (part : Nat) (h : W32) (place : Nat) : Seam where
  handle := h
  part := part
  idx := 0
  place := place
  parent := none
  pport := 0
  ports := []
  kidAt := []
  subs := []
  ent := none
  seg := 0
  ph := .idle
  frozen := false
  expected := 0
  complete := 0
  recv := []
  folded := 0
  partials := []
  staged := []
  recs := []
  timer := 0
  partPorts := 0
  tornPorts := 0
  closed := 0
  late := []
  isPart := false
  isTorn := false
  sent := 0
  prio := false
  next := none
  slot := false
  held := []
  used := 0
/-- A slot miss: the flit waits in the staging reservation and the owner is asked (R54). What a REFILL flit carries the spec does not say: the handle, the
place of the router in ADDR, and no payload (DESIGN CHOICE, log 124). -/
def State.slotMiss (s : State) (place : Nat) (f : Flit) : State :=
  let part := f.part.toNat
  let x := (s.seams.find (seamKey part f.word place)).getD (holdOnly part f.word place)
  let asked := x.held.any fun g => g.word == f.word
  let s := s.putSeam { x with held := x.held ++ [f] }
  if asked then s
  else
    let q := s.treeFlit 9 4 0 part f.word (BitVec.ofNat 64 place) 0 0
    if s.mine (hOwner f.word) then s.post part 0 (.refill place q) else s.sendCtl (placeDie place) (hOwner f.word) q
/-- Whether the entry a handle names is there and ACTIVE. -/
def State.treeActive (s : State) (part : Nat) (h : W32) : Bool :=
  match s.treeRef part h with | .tree e => teState e == 1 | .stale => false
/-- The answer to another device's REFILL (R54): a RESP flit with the entry, and, for a seam of the route, one with its record and the keys of its
children (the flits' form: DESIGN CHOICE, log 34). -/
def State.answerRefill (s : State) (die : Nat) (f : Flit) : State :=
  let part := f.part.toNat
  let e := s.ttRow part (hIdx f.word)
  let resp (p0 p1 : Nat) : Flit :=
    { s.treeFlit 2 3 f.srcCore.toNat part f.word f.addr 2 (BitVec.ofNat 1024 p0) with pay1 := BitVec.ofNat 1024 p1 }
  let s := s.sendCtl die f.srcDev.toNat (resp e.toNat (e.toNat / 2 ^ 1024))
  match (s.treeRoute e).findIdx? fun p => p.dev == f.srcDev.toNat && p.place == fld f.addr 0 17 with
  | some i => s.sendCtl die f.srcDev.toNat (resp (s.seamRec (teRoute e) i) (packRegs 16 (fun k => (s.seamKids (teRoute e) i).getD k 0) 64))
  | none => s
/-- REFILL at the owner: answered with the entry and the seam record, and for another device on VC3 (R54). -/
def execRefill (seam : Nat) (f : Flit) (s : State) : Host.Outcome State Fault Refusal :=
  match s.treeArrive seam f with
  | (s, none) => .next s
  | (s, some f) =>
    let part := f.part.toNat
    .next (if s.mine f.srcDev.toNat then s.post part 0 (.refillAnswer (seam % 2 ^ 17) f.word (if s.treeActive part f.word then .own else .refused))
      else s.answerRefill (rxDie (seam / 2 ^ 17 - 1)) f)
/-- The held flits of a handle discarded. -/
def State.dropHeld (s : State) (x : Seam) (h : W32) : State :=
  let s := x.held.foldl (fun s f => if f.word = h then s.faultFlit f else s) s
  let x := { x with held := x.held.filter fun f => f.word != h }
  if x.ports.isEmpty ∧ x.held.isEmpty then { s with seams := s.seams.del (seamKey x.part x.handle x.place) } else s.putSeam x
/-- A window of a child that has none yet. -/
def State.firstWin (s : State) (part : Nat) (h : W32) (key seg rows : Nat) : State :=
  if (s.treeWin.find (winKey part h key)).isSome then s else s.setWin part h key seg rows
/-- A seam of another device's tree as its owner answers it: it stands at the segment of the flit that asked, with its first allowances (log 34). -/
def State.farInstall (s : State) (x : Seam) (h : W32) (i : FarSeam) : State :=
  let seg := match x.held with | f :: _ => fSeg f | [] => 0
  let y : Seam := { holdOnly x.part h x.place with
    idx := i.idx, parent := i.parent, pport := i.pport, ports := i.ports, kidAt := i.kidAt, subs := i.subs, ent := some i.entry, seg := seg
    recv := List.replicate 64 0, held := x.held }
  let s := y.ports.foldl (fun s k => s.firstWin y.part h k seg (placeW y.place)) (s.putSeam y)
  match y.parent with
  | some q => s.firstWin y.part h (4096 + y.idx) seg (placeW q.1)
  | none => s
/-- REFILL_ANSWER (R54). `unit`: the partition. -/
def execRefillAnswer (seam : Nat) (h : W32) (ans : RefillAns) (s : State) : Host.Outcome State Fault Refusal :=
  match s.seams.find (seamKey s.unit h seam) with
  | none => .next s
  | some x =>
    let stands := !x.ports.isEmpty && x.handle == h
    let go (s : State) : State := s.post s.unit 0 (.slotInstall seam h)
    match ans, s.mine (hOwner h) with
    | .refused, _ | .own, false => .next (s.dropHeld x h)
    | _, true => .next (if stands then go s else s.dropHeld x h)
    | .other i, false =>
      if teState i.entry = 1 ∧ lnrF i.entry 0 4 = h.toNat then
        .next (go (if stands then s.putSeam { x with ent := some i.entry } else s.farInstall x h i))
      else .next (s.dropHeld x h)

/-! Delivery (R60). -/

/-- Where row i of a delivered segment goes at a member. -/
def destOf (e : BitVec 2048) (rec seg i : Nat) : W64 := mrDest rec + BitVec.ofNat 64 ((seg % teNbuf e * teSegRows e + i) * 128)
/-- The rows of a TREEDOWN flit written at a member of this device; its last row brings the status record. A member that does not receive takes
nothing. -/
def State.landRows (s : State) (part : Nat) (h : W32) (e : BitVec 2048) (m : Nat) (f : Flit) : State :=
  let rec' := s.recOfMember part h e m
  let put (s : State) (i : Nat) (r : Row) : State :=
    s.storeFabric (mrCore rec') part (destOf e rec' (fSeg f) (fRow f + i)) r fullMask false false
  if !(s.takesIn part h e m (fSeg f)) then s
  else
    let s := put s 0 f.pay0
    let s := if f.rows = 2 then put s 1 f.pay1 else s
    if fLast f then s.post part 0 (.deliveryStatus h m (BitVec.ofNat 32 (fSeg f)) (fTorn f) (fPart f)) else s
/-- A delivered flit at a child of a seam, given its key, device and place: a receiving member, or a seam. -/
def State.downTo (s : State) (x : Seam) (e : BitVec 2048) (f : Flit) (key : Nat) (at' : Nat × Nat) : State :=
  if !(s.mine at'.1) then
    (if key < 4096 && !(s.takesIn x.part x.handle e key (fSeg f)) then s else s.sendCtl (placeDie x.place) at'.1 f)
  else if key < 4096 then s.landRows x.part x.handle e key f
  else s.post x.part 0 (.treedown at'.2 f)
/-- The same at every port. -/
def State.downAll (s : State) (x : Seam) (e : BitVec 2048) (f : Flit) : State :=
  (List.range x.ports.length).foldl (fun s p => s.downTo x e f (x.ports.getD p 0) (x.kidAt.getD p (0, 0))) s
/-- TREEDOWN: copied to every port of a seam, and written to receiving members. -/
def execTreedown (seam : Nat) (f : Flit) (s : State) : Host.Outcome State Fault Refusal :=
  match s.treeArrive seam f with
  | (s, none) => .next s
  | (s, some f) =>
    let place := seam % 2 ^ 17
    let part := f.part.toNat
    if placeLevel place = 3 then .next (s.landRows part f.word (s.entOf part f.word) (placeUnit place % 4096) f)
    else match s.seams.find (seamKey part f.word place) with
    | none => .next (s.slotMiss place f)
    | some x =>
      if x.slot = false ∨ x.handle ≠ f.word then .next (s.slotMiss place f)
      else .next ((s.putSeam { x with used := s.cycle }).downAll x (s.seamEnt x) { f with addr := setFld f.addr 0 16 (4096 + x.idx) })
/-- DELIVERY_STATUS: the status record, then the arrival counter at SYNC (R60). `unit`: the partition. -/
def execDeliveryStatus (h : W32) (m : Nat) (seg : W32) (torn part : Bool) (s : State) : Host.Outcome State Fault Refusal :=
  let e := s.entOf s.unit h
  let r := s.recOfMember s.unit h e m
  let a := mrStat r + BitVec.ofNat 64 (seg.toNat % teNbuf e * 16)
  let sh := 8 * (a.toNat % 128)
  let v := seg.toNat + (if part then 2 ^ 32 else 0) + (if torn then 2 ^ 33 else 0) + 2 ^ 64 * s.now.toNat
  let s := s.storeFabric (mrCore r) s.unit a (BitVec.ofNat 1024 (v * 2 ^ sh)) (BitVec.ofNat 1024 ((2 ^ 128 - 1) * 2 ^ sh)) false false
  .next (if mrSync r = 0 then s else s.post 0 0 (.syncDec (mrSync r)))
/-- Whether the posted segments of some members stand in the partial of every seam that has handed the segment on so far. -/
def State.markFolded (s : State) (part : Nat) (h : W32) (seg : Nat) (v : Bool) (ms : List Nat) : State :=
  { s with posted := s.posted.map fun p =>
      if p.part = part ∧ p.handle = h ∧ p.seg = seg ∧ ms.contains p.member = true then { p with folded := v } else p }
/-- The virtual channel of a seam's result: VC1 when rows of the segment came as priority posts to a tree that allows them (DESIGN CHOICE,
log 91). -/
def Seam.vc (x : Seam) (e : BitVec 2048) : Nat := if x.prio && tePrio e then 1 else 0
/-- The root seam delivers its segment, counts it and tells the members whose contributions it holds. -/
def State.deliver (s : State) (x : Seam) : State :=
  let e := s.seamEnt x
  let n := teSegRows e
  let s := (List.range n).foldl (fun s i =>
    let f := s.treeFlit 5 (x.vc e) 0 x.part x.handle (treeAddr x.seg i x.isPart x.isTorn (i + 1 == n) (4096 + x.idx)) 1 (deliverRow e (fun j => x.partials.get 0 j) i)
    if teKind e = 0 then s.downTo x e f (teRoot e) (mrDev (s.recOfMember x.part x.handle e (teRoot e)), 0) else s.downAll x e f) s
  let s := s.bumpTree x.part x.handle 0x58
  let s := if x.isPart then s.bumpTree x.part x.handle 0x50 else s
  let ok (m : Nat) : Bool := s.posted.any fun p => p.part == x.part && p.handle == x.handle && p.seg == x.seg && p.member == m && p.folded
  s.notifyAll x.part x.handle x.seg 0 (x.subs.flatten.filter ok)

/-! Folding and the segment's states (R57, R58). -/

/-- The ports expected in a segment: those whose subtree holds a contributing member. -/
def State.expectedAt (s : State) (x : Seam) (seg : Nat) : BitVec 64 :=
  let e := s.seamEnt x
  BitVec.ofNat 64 (packRegs 1 (fun p => if (x.sub p).any fun m => s.givesIn x.part x.handle e m seg then 1 else 0) x.ports.length)
/-- The expected ports in ascending order. -/
def Seam.expPorts (x : Seam) : List Nat := (List.range x.ports.length).filter fun p => x.expected.getLsbD p
def stKey (port row : Nat) : Nat := port * 256 + row
/-- A row folded from the ports that hold it, left to right; from none the identity. -/
def foldRows (e : BitVec 2048) : List Row → Row
  | [] => identRow e
  | r :: rs => canonRow e (rs.foldl (foldRow e) r)
def Seam.foldOne (x : Seam) (e : BitVec 2048) : Seam :=
  { x with
      partials := x.partials.put x.folded (foldRows e (x.expPorts.filterMap fun p => x.staged.find (stKey p x.folded)))
      staged := x.expPorts.foldl (fun m p => m.del (stKey p x.folded)) x.staged
      folded := x.folded + 1 }
/-- Every row now complete is folded. -/
def Seam.foldReady (x : Seam) (e : BitVec 2048) : Nat → Seam
  | 0 => x
  | fuel + 1 =>
    if x.folded < teP e ∧ x.expPorts.all (fun p => (x.staged.find (stKey p x.folded)).isSome) = true ∧ x.expected ≠ 0 then
      (x.foldOne e).foldReady e fuel
    else x
/-- The remaining rows folded from what is there (R59). -/
def Seam.foldRest (x : Seam) (e : BitVec 2048) : Nat → Seam
  | 0 => x
  | fuel + 1 => if x.folded < teP e then (x.foldOne e).foldRest e fuel else x
/-- The place of a seam from a queued edit on. -/
def Seam.change (x : Seam) (n : SeamNext) : Seam :=
  { x with idx := n.idx, ports := n.ports, kidAt := n.kidAt, subs := n.subs, parent := n.parent, pport := n.pport, next := none }
/-- The seam at the start of a segment. -/
def Seam.fresh (x : Seam) (seg : Nat) : Seam :=
  { x with
      seg := seg % 2 ^ 32, ph := .idle, expected := 0, complete := 0, recv := List.replicate 64 0, folded := 0, partials := [], staged := [],
      timer := 0, partPorts := 0, tornPorts := 0, closed := 0, isPart := false, isTorn := false, sent := 0, prio := false }
/-- The key of a row kept of a segment, and the segment of a key. -/
def recKey (seg port row : Nat) : Nat := (seg % 2 ^ 32 * 64 + port) * 256 + row
def recSeg (k : Nat) : Nat := k / 2 ^ 14
/-- The seams that the changes of a tree's route wait for have come to the segment: new ones open (log 38). -/
def State.openPending (s : State) (part : Nat) (h : W32) : State :=
  s.seams.foldl (fun s y =>
    let x := y.2
    if x.part = part ∧ x.handle = h ∧ x.ports.isEmpty = true then
      match x.next with
      | some (some n) =>
        if s.seams.any fun z => z.2.part == part && z.2.handle == h && z.2.next.isSome && (z.2.ports.any fun k => decide (k < 4096) && n.ports.contains k) then s
        else let x := (x.change n).fresh (x.seg + 1); (s.putSeam x).extend x
      | _ => s
    else s) s
/-- A later segment opened: a queued edit that takes effect by then is applied and windows are granted (R58, R63). A frozen seam grants
them after the thaw. The rows of the last segments are kept, for a removal that applies to them. -/
def State.openAt (s : State) (x : Seam) (seg : Nat) : State :=
  let e := s.seamEnt x
  let eff := decide (teEditSeg e = 2 ^ 32 - 1) || !(segLt seg (teEditSeg e))
  let s := if x.parent.isNone ∧ teEditSeg e = seg ∧ x.ent.isNone then s.putTt x.part (hIdx x.handle) 0x2C 4 (2 ^ 32 - 1) else s
  let x := { x.fresh seg with recs := x.recs.filter fun r => decide ((seg + 2 ^ 32 - recSeg r.1) % 2 ^ 32 < 8) }
  let place := x.place
  let s := match (if eff then x.next else none) with
    | some none => { s with seams := s.seams.del (seamKey x.part x.handle x.place) }
    | some (some n) => let x := x.change n; let s := s.putSeam x; if x.frozen then s else s.extend x
    | none => let s := s.putSeam x; if x.frozen then s else s.extend x
  (if eff then s.openPending x.part x.handle else s).serveWaiting place
/-- The next segment opened. -/
def State.openNext (s : State) (x : Seam) : State := s.openAt x ((x.seg + 1) % 2 ^ 32)

/-- A mark sent to the parent in place of the rest of a segment (R59), whose flit the spec does not describe: KIND 4 on VC0 with no rows (DESIGN
CHOICE, log 124). -/
def State.sendLate (s : State) (part : Nat) (h : W32) (seg key die : Nat) (parent : Nat × Nat) : State :=
  let f := s.treeFlit 4 0 0 part h (treeAddr seg 0 false false false key) 0 0
  if s.mine parent.2 then s.post part 0 (.lateMark parent.1 f) else s.sendCtl die parent.2 f
/-- Rows of the result forwarded under the parent's window; with the last one accepted the next segment opens. -/
def State.forward (s : State) (x : Seam) (parent : Nat × Nat) : Nat → State
  | 0 => s
  | fuel + 1 =>
    let e := s.seamEnt x
    let w := s.win x.part x.handle (4096 + x.idx)
    if teP e ≤ x.sent then s.openNext x
    else if w.1 = x.seg ∧ x.sent < w.2 then
      let f := s.treeFlit 4 (x.vc e) 0 x.part x.handle (treeAddr x.seg x.sent x.isPart x.isTorn (x.sent + 1 == teP e) (4096 + x.idx)) 1 (x.partials.get 0 x.sent)
      let s := if s.mine parent.2 then s.post x.part 0 (.treeup parent.1 f) else s.sendCtl (placeDie x.place) parent.2 f
      let x := { x with sent := x.sent + 1 }
      (s.putSeam x).forward x parent fuel
    else s
/-- A seam in SEND, in a slot: the root seam delivers and opens the next segment; another forwards. -/
def State.sendSeam (s : State) (x : Seam) : State :=
  if x.slot = false then s
  else match x.parent with
  | none => (s.deliver x).openNext x
  | some p => s.forward x p 257
/-- A seam whose every row is folded goes to SEND. -/
def State.settle (s : State) (x : Seam) : State :=
  let e := s.seamEnt x
  if x.ph = .opened ∧ x.folded = teP e then
    let c := (x.expPorts.filter fun p => decide (teP e ≤ x.recv.getD p 0)).foldl (fun b p => b ||| BitVec.ofNat 64 (2 ^ p)) (0 : BitVec 64)
    let x := { x with ph := .send, complete := c, isPart := x.isPart || x.partPorts != 0, isTorn := x.isTorn || x.tornPorts != 0, sent := 0, timer := 0 }
    let at' (full : Bool) : List Nat := (x.expPorts.filter fun p => c.getLsbD p == full)
    let s := s.markFolded x.part x.handle x.seg false ((at' false).map x.sub).flatten
    let s := s.markFolded x.part x.handle x.seg true ((at' true).filterMap fun p => (x.ports[p]?).filter fun k => decide (k < 4096))
    (s.putSeam x).sendSeam x
  else s.putSeam x
/-- The staged rows that are read next meet an armed error of the router's buffers (R209, R213). No flit carries poison on, so what an uncorrectable row
holds from then on is free (DESIGN CHOICE, log 69). -/
def State.readStaged (s : State) (x : Seam) : State × Seam :=
  let r := if x.staged.isEmpty then (s, false) else s.injArray 9 (routerName x.place) (BitVec.ofNat 64 (routerName x.place)) none noCtx
  if r.2 then
    ({ r.1 with dev := { r.1.dev with fresh := r.1.dev.fresh + 1 } },
      { x with staged := x.staged.map fun e => if e.1 % 256 = x.folded then (e.1, Config.farRow x.place r.1.dev.fresh) else e })
  else (r.1, x)
/-- Rows folded as far as they go, and allowances extended with them. -/
def State.foldSeam (s : State) (x : Seam) : State :=
  if x.frozen ∨ x.slot = false then s.putSeam x
  else
    let r := s.readStaged x
    let s := r.1
    let x := r.2
    let y := x.foldReady (s.seamEnt x) 256
    let s := if y.folded ≠ x.folded ∧ y.folded < teP (s.seamEnt x) then s.extend y else s
    s.settle y

/-- SLOT_INSTALL: a free slot, else the least recently used idle one, takes the waiting seam; its flits come again, and a segment under way goes on
(R53, R54). `unit`: the partition. -/
def execSlotInstall (seam : Nat) (h : W32) (s : State) : Host.Outcome State Fault Refusal :=
  match s.seams.find (seamKey s.unit h seam) with
  | none => .next s
  | some x =>
    if x.slot ∨ x.ports.isEmpty then .next s
    else match s.claimSlot seam with
      | none => .next s
      | some s =>
        let y := { x with slot := true, held := [], used := s.cycle }
        let s := x.held.foldl (fun s f => s.post x.part 0 (if f.kind = 5 then .treedown seam f else .treeup seam f)) (s.putSeam y)
        .next (if y.frozen then s else match y.ph with | .idle => s | .opened => s.foldSeam y | .send => s.sendSeam y)

/-- A late mark or a discarded row of a segment that is over: counted once for its port and segment, and the members below it are told
LATE (R59); of a removed member it is not counted, and the member is told REMOVED (R63). -/
def State.lateRow (s : State) (x : Seam) (port seg : Nat) : State :=
  let e := s.seamEnt x
  let key := x.ports.getD port 0
  let gone := (x.sub port).filter fun m => !(s.inTree x.handle e m seg)
  let ms := (x.sub port).filter fun m => s.inTree x.handle e m seg
  let s := if ms.isEmpty || x.late.contains (key, seg) then s
    else (s.putSeam { x with late := (key, seg) :: x.late.filter fun d => !(segLt x.seg d.2) }).bumpTree x.part x.handle 0x48
  (s.notifyAll x.part x.handle seg 2 gone).notifyAll x.part x.handle seg 1 ms

/-- One row staged, and kept. -/
def Seam.stage (x : Seam) (f : Flit) (p row : Nat) (data : Row) : Seam :=
  { x with
      staged := x.staged.put (stKey p row) data
      recs := x.recs.put (recKey x.seg p row) data
      recv := x.recv.set p (row + 1)
      prio := x.prio || f.vc == 1
      partPorts := if fPart f then x.partPorts ||| BitVec.ofNat 64 (2 ^ p) else x.partPorts
      tornPorts := if fTorn f then x.tornPorts ||| BitVec.ofNat 64 (2 ^ p) else x.tornPorts }
/-- A seam at the first row of its segment: the timer runs and the expected ports are fixed (R58). -/
def State.started (s : State) (x : Seam) : Seam :=
  if x.ph = .idle then
    let e := s.seamEnt x
    { x with ph := .opened, expected := s.expectedAt x x.seg, timer := if x.frozen then teTimeout e else s.cycle + teTimeout e }
  else x
/-- The rows of one flit at a seam with a slot (R58). A row must be the next of its port and within the window; else it is discarded and the seam
stays as it is. -/
def State.takeRows (s : State) (x : Seam) (f : Flit) : State :=
  match x.ports.idxOf? (fKey f) with
  | none => s.routerErr x.place
  | some p =>
    if segLt (fSeg f) x.seg ∨ (fSeg f = x.seg ∧ x.ph = .send) then s.lateRow x p (fSeg f)
    else if fSeg f ≠ x.seg then s.routerErr x.place
    else
      let y := s.started x
      let row := fRow f
      let n := f.rows.toNat
      if y.expected.getLsbD p = false then s.notifyAll x.part x.handle (fSeg f) 2 (x.sub p)
      else if row ≠ x.recv.getD p 0 ∨ x.folded + placeW x.place < row + n ∨ teP (s.seamEnt x) < row + n then s.routerErr x.place
      else
        let y := y.stage f p row f.pay0
        let y := if n = 2 then y.stage f p (row + 1) f.pay1 else y
        s.foldSeam { y with used := s.cycle }
/-- A flit with no rows is a late mark (log 124). -/
def State.takeMark (s : State) (x : Seam) (f : Flit) : State :=
  match x.ports.idxOf? (fKey f) with
  | some p => s.lateRow x p (fSeg f)
  | none => s
/-- TREEUP: staged and folded, held for a slot, or discarded. -/
def execTreeup (seam : Nat) (f : Flit) (s : State) : Host.Outcome State Fault Refusal :=
  match s.treeArrive seam f with
  | (s, none) => .next s
  | (s, some f) =>
    let place := seam % 2 ^ 17
    match s.seams.find (seamKey f.part.toNat f.word place) with
    | none => .next (s.slotMiss place f)
    | some x => .next (if x.slot = false ∨ x.handle ≠ f.word then s.slotMiss place f else if f.rows = 0 then s.takeMark x f else s.takeRows x f)

/-! Timeouts (R59). -/

/-- SEAM_TIMEOUT: the segment flushed, marked and closed at its incomplete ports. `unit`: the partition. -/
def execSeamTimeout (seam : Nat) (h : W32) (s : State) : Host.Outcome State Fault Refusal :=
  match s.seams.find (seamKey s.unit h seam) with
  | none => .next s
  | some x =>
    if x.handle ≠ h ∨ x.ph ≠ .opened ∨ x.frozen = true ∨ x.slot = false ∨ s.cycle < x.timer then .next s
    else
      let e := s.seamEnt x
      let short := x.expPorts.filter fun p => decide (x.recv.getD p 0 < teP e)
      let torn := short.any fun p => decide (0 < x.recv.getD p 0)
      let s := short.foldl (fun s p => s.treeCredit x p 0 true) s
      let x := { x.foldRest e 256 with
        isPart := true, isTorn := torn, closed := short.foldl (fun b p => b ||| BitVec.ofNat 64 (2 ^ p)) x.closed }
      .next (s.settle x)
/-- A seam whose parent closes its segment (R59). -/
def State.closeSeam (s : State) (x : Seam) : State :=
  let e := s.seamEnt x
  let mark (s : State) : State := match x.parent with
    | some q => s.sendLate x.part x.handle x.seg (4096 + x.idx) (placeDie x.place) q
    | none => s
  match x.ph with
  | .idle => s.openNext x
  | .send => (mark s).openNext x
  | .opened =>
    let ports := List.range x.ports.length
    let held := ports.filter fun p => decide (0 < x.recv.getD p 0)
    let s := ports.foldl (fun s p => if x.recv.getD p 0 < teP e then s.treeCredit x p 0 true else s) s
    let s := if held.isEmpty then s else mark s
    let s := s.notifyAll x.part x.handle x.seg 1 (held.map x.sub).flatten
    s.openNext x
/-- The place and the device of the seam that a member's port belongs to: a seam here that has it among its children, else by the route; of a tree of
another device it is free (log 34). -/
def State.seamOfMember (s : State) (part : Nat) (h : W32) (m : Nat) : Option (Nat × Nat) :=
  match s.seams.find? fun y => y.2.part == part && y.2.handle == h && y.2.ports.contains m with
  | some y => some (y.2.place, s.dev.devid.toNat)
  | none =>
    if !(s.mine (hOwner h)) then some (Config.farSeam h.toNat part m)
    else ((s.treeRoute (s.ttRow part (hIdx h))).find? fun q => q.kids.contains m).map fun q => (q.place, q.dev)
/-- TREE_CREDIT: a wider window, or the closing of a segment. A child seam that stands idle at an earlier segment, in which nothing below it
contributes, comes to the segment that its parent has opened. `unit`: the partition for a child of this device. -/
def execTreeCredit (child : Nat) (f : Flit) (s : State) : Host.Outcome State Fault Refusal :=
  let part := f.part.toNat
  let h := f.word
  let w := s.win part h child
  let seam := if child < 4096 then none else s.seamIdx part h (child - 4096)
  if fPart f then
    if segLt (fSeg f) w.1 then .next s
    else
      let s := s.setWin part h child ((fSeg f + 1) % 2 ^ 32) 0
      match seam with
      | some y => .next (if y.seg = fSeg f then s.closeSeam y else if y.ph = .idle ∧ segLt y.seg (fSeg f) = true then s.openAt y ((fSeg f + 1) % 2 ^ 32) else s)
      | none =>
        let some' := s.posted.any fun p => p.part == part && p.handle == h && p.member == child && p.seg == fSeg f && p.status.isNone
        match s.seamOfMember part h child with
        | some q => .next (if some' && decide (child < 4096) then s.sendLate part h (fSeg f) child 0 q else s)
        | none => .next s
  else
    let s := if segLt (fSeg f) w.1 then s
      else s.setWin part h child (fSeg f) (if fSeg f = w.1 then max w.2 (fRow f + 1) else fRow f + 1)
    match seam with
    | some y => .next (if y.ph = .send then s.sendSeam y else if y.ph = .idle ∧ segLt y.seg (fSeg f) = true then s.openAt y (fSeg f) else s)
    | none => .next s
/-- LATE_MARK. -/
def execLateMark (seam : Nat) (f : Flit) (s : State) : Host.Outcome State Fault Refusal :=
  match s.treeArrive seam f with
  | (s, none) => .next s
  | (s, some f) =>
    match s.seams.find (seamKey f.part.toNat f.word (seam % 2 ^ 17)) with
    | none => .next s
    | some x => .next (if x.handle = f.word then s.takeMark x f else s)

/-! Whole trees (R62, R65). -/

/-- The seams of a tree on this device. -/
def State.seamsOf (s : State) (part : Nat) (h : W32) : List Seam :=
  (s.seams.filter fun y => y.2.part == part && hId y.2.handle == hId h && !y.2.ports.isEmpty).map Prod.snd
/-- A tree's slots, staging and windows released. -/
def State.dropTree (s : State) (part : Nat) (h : W32) : State :=
  { s with
      seams := s.seams.filter fun y => !(y.2.part == part && hId y.2.handle == hId h)
      treeWin := s.treeWin.filter fun w => w.1 / 2 ^ 13 != part * 2 ^ 20 + hId h }
/-- A tree dropped, and its slots given to the seams that wait for one (R54). -/
def State.releaseTree (s : State) (part : Nat) (h : W32) : State :=
  ((s.seamsOf part h).filter (·.slot)).foldl (fun s x => s.serveWaiting x.place) (s.dropTree part h)
/-- Whether a place of this device stands on a dead die. -/
def State.placeDead (s : State) (place : Nat) : Bool :=
  !(s.dieLive (placeDie place)) || (placeLevel place == 0 && !(s.map.panels.getLsbD (panelOfCore (placeUnit place))))
/-- A tree's segments, slots and windows gone; its staging stays reserved (R52, R65). -/
def State.stopTree (s : State) (part : Nat) (h : W32) : State :=
  let slots := (s.seamsOf part h).filter (·.slot)
  let stop (x : Seam) : Seam := { x.fresh x.seg with slot := false, held := [], recs := [], next := none }
  let s := { s with
    seams := mapVals (fun x => if x.part = part ∧ hId x.handle = hId h then stop x else x) s.seams
    treeWin := s.treeWin.filter fun w => w.1 / 2 ^ 13 != part * 2 ^ 20 + hId h }
  slots.foldl (fun s x => s.serveWaiting x.place) s
/-- The trees that lost a seam's router become BROKEN (R65). -/
def State.breakTrees (s : State) : State :=
  s.seams.foldl (fun s y =>
    let x := y.2
    let i := hIdx x.handle
    let e := s.ttRow x.part i
    if s.placeDead x.place = true ∧ x.ports.isEmpty = false ∧ x.ent = none ∧ lnrF e 0 4 = x.handle.toNat ∧ (teState e = 1 ∨ teState e = 2) then
      ((s.putTt x.part i 4 1 4).endPosts x.part x.handle 4).stopTree x.part x.handle
    else s) s

end Sys2Proof.Machine
end

