-- ==== Sys2Proof/Machine/Experts.lean ====
section
/-! DEFINITION. Expert-routed exchange: the expert tables of the level-2 routers, the choice of a replica, and receive rings (R72 to R75).
The `die` operand of EXPERT is the die, plus 8 times one more than the receive slot for a flit that comes over a link. -/

namespace Sys2Proof.Machine

/-! The expert table (R72). -/

def etKey (die e : Nat) : Nat := die % 8 * 8192 + e % 8192
def State.etRow (s : State) (die e : Nat) : Row := s.etab.get 0 (etKey die e)
def etNrep (r : Row) : Nat := trF r 2 1
/-- Replica record i: 24 B. -/
def etRep (r : Row) (i : Nat) : Row := BitVec.ofNat 1024 (trF r (0x20 + 24 * i) 24)
def rpRing (p : Row) : W64 := BitVec.ofNat 64 p.toNat
def rpRows (p : Row) : Nat := trF p 8 4
def rpCore (p : Row) : Nat := trF p 0x0C 2
def rpSync (p : Row) : W64 := BitVec.ofNat 64 (trF p 0x10 8)
/-- Whether a used replica record is legal. -/
def rpOk (p : Row) : Bool :=
  let n := rpRows p
  (List.range 11).any (fun k => n == 2 ^ (6 + k)) && decide (rpCore p ≤ 511) && trF p 0x0E 2 == 0 && (rpRing p).toNat % 128 == 0
/-- ETAB's check of one entry. -/
def etOk (r : Row) : Bool :=
  decide (etNrep r ≤ 4) && trF r 3 29 == 0 && (List.range (etNrep r)).all fun i => rpOk (etRep r i)
def qbKey (die e i : Nat) : Nat := etKey die e * 4 + i
def State.qbOf (s : State) (die e i : Nat) : Nat := s.qb.get 0 (qbKey die e i)
/-- One entry written: QB starts at zero with a new RING (R73). -/
def State.putEtab (s : State) (die idx : Nat) (r : Row) : State :=
  let old := s.etRow die idx
  let s := { s with etab := s.etab.put (etKey die idx) r }
  (List.range 4).foldl (fun s i =>
    if i < etNrep r ∧ i < etNrep old ∧ rpRing (etRep r i) = rpRing (etRep old i) then s
    else { s with qb := s.qb.put (qbKey die idx i) 0 }) s
/-- The replica chosen for an expert: reachable, smallest QB, lowest index (R73). -/
def State.chooseRep (s : State) (die e : Nat) : Option Nat :=
  let r := s.etRow die e
  if trF r 0 2 ≠ e then none
  else leastBy (fun a b => decide (s.qbOf die e a < s.qbOf die e b) || (s.qbOf die e a == s.qbOf die e b && decide (a < b)))
    ((List.range (etNrep r)).filter fun i => s.reach (rpRing (etRep r i)))

/-! Record flits (R74). -/

def exSeq (f : Flit) : Nat := fld f.addr 32 32
def exRow (f : Flit) : Nat := fld f.addr 24 8
def exRows (f : Flit) : Nat := fld f.addr 16 8 + 1
def exTag (f : Flit) : Nat := fld f.addr 0 16
def exAddr (seq row rows tag : Nat) : W64 := BitVec.ofNat 64 (seq % 2 ^ 32 * 2 ^ 32 + row % 256 * 2 ^ 24 + (rows - 1) % 256 * 2 ^ 16 + tag % 2 ^ 16)
/-- The header row of a record. -/
def exHeader (f : Flit) : Row :=
  BitVec.ofNat 1024 (f.word.toNat % 2 ^ 16 + 2 ^ 16 * exTag f + 2 ^ 32 * exRows f + 2 ^ 40 * f.srcCtx.toNat + 2 ^ 42 * f.srcCore.toNat +
    2 ^ 51 * f.srcDev.toNat + 2 ^ 64 * exSeq f)
/-- The payload rows of a flit. -/
def flitRows (f : Flit) : List Row := [f.pay0, f.pay1].take f.rows.toNat

/-! Rings (R74). A ring is named by its control row's local address. -/

def State.ringCtl (s : State) (x : Nat) : Nat := s.bytes x 16
/-- A ring's live state: before its first record it stands where COMMIT says. -/
def State.ringAt (s : State) (x size : Nat) : Ring :=
  match s.rings.find x with
  | some r => { r with size := size }
  | none => ⟨size, bitsOf (s.ringCtl x) 0 32, [], []⟩
def State.putRing (s : State) (x : Nat) (r : Ring) : State := { s with rings := s.rings.put x r }
/-- Where ring position i lies. -/
def ringSlot (x size i : Nat) : Nat := x + 128 * (i % size + 1)
/-- Rows of a record written from row `k` on. -/
def State.ringRows (s : State) (x size pos k : Nat) : List Row → State
  | [] => s
  | r :: rs => (s.storeLocal (ringSlot x size (pos + 1 + k)) r fullMask false).ringRows x size pos (k + 1) rs
/-- A record whose rows have come is committed next. -/
def State.ringDone (s : State) (x : Nat) (r : RingRec) : State := if r.rows ≤ r.got then s.post x 0 .ringCommit else s
/-- The VC5 buffers of a record's flits freed (R44, R74). -/
def State.freeBufs (s : State) (bufs : List Nat) : State := bufs.foldl (fun s rx => s.freeBuf rx 5) s
/-- A flit of a record at its ring: the first one asks for a reservation, a later one writes, or waits with the first, in the buffer of its receive
slot (`bufs`; none for a flit of this device). -/
def State.ringFlit (s : State) (x size : Nat) (r : RingRec) (f : Flit) (bufs : List Nat) : State :=
  let g := s.ringAt x size
  let rows := flitRows f
  if exRow f = 0 then (s.putRing x { g with waiting := g.waiting ++ [({ r with bufs := bufs }, rows)] }).post x 0 .ringReserve
  else
    match g.recs.find? fun c => c.hdr == r.hdr && !c.void with
    | some c =>
      let c' := { c with got := c.got + rows.length }
      let s := s.ringRows x size c.pos (exRow f) rows
      ((s.putRing x { g with recs := g.recs.map fun d => if d.pos = c.pos then c' else d }).ringDone x c').freeBufs bufs
    | none =>
      if g.waiting.any fun w => w.1.hdr == r.hdr then
        s.putRing x { g with waiting := g.waiting.map fun w =>
          if w.1.hdr = r.hdr then ({ w.1 with bufs := w.1.bufs ++ bufs }, w.2 ++ rows) else w }
      else s.freeBufs bufs
/-- RING_RESERVE. `unit`: the ring. -/
def execRingReserve (s : State) : Host.Outcome State Fault Refusal :=
  let x := s.unit
  match s.rings.find x with
  | none => .next s
  | some g =>
    match g.waiting with
    | [] => .next s
    | (r, rows) :: rest =>
      let read := bitsOf (s.ringCtl x) 32 32
      let used := (g.reserved + 2 ^ 32 - read) % 2 ^ 32
      if g.size < used + (r.rows + 1) then .next s
      else
        let c := { r with pos := g.reserved, got := if r.void then r.rows else rows.length, bufs := [] }
        let s := s.storeLocal (ringSlot x g.size g.reserved) r.hdr fullMask false
        let s := s.ringRows x g.size g.reserved 0 (if r.void then List.replicate r.rows 0 else rows)
        let s := s.putRing x { g with reserved := (g.reserved + r.rows + 1) % 2 ^ 32, recs := g.recs ++ [c], waiting := rest }
        let s := if rest.isEmpty then s else s.post x 0 .ringReserve
        .next ((s.ringDone x c).freeBufs r.bufs)
/-- The longest prefix of complete records. -/
def donePrefix : List RingRec → List RingRec × List RingRec
  | [] => ([], [])
  | r :: rs => if r.rows ≤ r.got then let p := donePrefix rs; (r :: p.1, p.2) else ([], r :: rs)
/-- One record committed: COMMIT, the acknowledgement to the router that chose the ring, SYNC. For a router of another device the
acknowledgement is a response on VC3 that carries the ring, the sequence number and the header row (DESIGN CHOICE, log 35). -/
def State.commitOne (s : State) (x : Nat) (r : RingRec) : State :=
  let c := (bitsOf (s.ringCtl x) 0 32 + r.rows + 1) % 2 ^ 32
  let s := s.storeLocal x (BitVec.ofNat 1024 (c * 2 ^ (8 * (x % 128)))) (BitVec.ofNat 1024 ((2 ^ 32 - 1) * 2 ^ (8 * (x % 128)))) false
  let core := trF r.hdr 0 16 / 2 ^ 42 % 2 ^ 9
  let ctx := trF r.hdr 0 16 / 2 ^ 40 % 4
  let seq := trF r.hdr 8 4
  let bytes := 128 * (r.rows + 1)
  let s := if s.mine r.src then s.post core 0 (.commitAcknowledgement r.die r.entry r.rep bytes ⟨s.here x, ctx, seq⟩)
    else s.sendCtl r.die r.src (s.flit 2 3 core ctx 0 (s.here x) seq 1 false r.hdr 0)
  if r.sync = 0 then s else s.post 0 0 (.syncDec r.sync)
/-- RING_COMMIT. `unit`: the ring. -/
def execRingCommit (s : State) : Host.Outcome State Fault Refusal :=
  let x := s.unit
  match s.rings.find x with
  | none => .next s
  | some g =>
    let p := donePrefix g.recs
    let s := p.1.foldl (fun s r => s.commitOne x r) (s.putRing x { g with recs := p.2 })
    .next (if g.waiting.isEmpty then s else s.post x 0 .ringReserve)

/-! Routing (R73). -/

/-- The record a flit begins, for a replica record. -/
def recOf (f : Flit) (die e rep : Nat) (p : Row) : RingRec :=
  ⟨0, exRows f, exHeader f, 0, f.srcDev.toNat, die, e % 8192, rep, rpSync p, false, []⟩
/-- A flit of a local ESEND at its die's router: the first one chooses; NOEXPERT when there is no choice. -/
def State.routeExpert (s : State) (die : Nat) (f : Flit) : State :=
  let core := f.srcCore.toNat
  let e := f.word.toNat % 2 ^ 16
  let upd (g : RunCmd → RunCmd) (s : State) : State := s.modCore core fun k => { k with mainE := k.mainE.map g }
  match (s.core core).mainE with
  | none => s
  | some r =>
    if r.c.op ≠ 7 ∨ r.status.isSome ∨ r.side % 2 ^ 32 ≠ exSeq f then s
    else
      let pick : Option (State × Nat × Row) :=
        if r.aux ≠ 0 then some (s, r.aux.toNat - 1, r.mapRow)
        else (s.chooseRep die e).map fun i =>
          let p := etRep (s.etRow die e) i
          let s := { s with qb := s.qb.put (qbKey die e i) (s.qbOf die e i + 128 * (exRows f + 1)) }
          (upd (fun r => { r with aux := BitVec.ofNat 64 (i + 1), mapRow := p }) s, i, p)
      match pick with
      | none => upd (fun r => { r with status := some 0x17 }) s
      | some (s, i, p) =>
        if s.mine (devOf (rpRing p)) then s.ringFlit (localOf (rpRing p)) (rpRows p) (recOf f die e i p) f []
        else match s.injectDie die (devOf (rpRing p)) f with
          | some s => s
          | none => upd (fun r => { r with status := some 0x05 }) s
/-- The ring that a record has begun at, and the record (R72): a choice made is kept until it is complete. -/
def State.begun (s : State) (f : Flit) : Option (Nat × Nat × RingRec) :=
  let its (c : RingRec) : Bool := c.hdr == exHeader f && decide (c.got < c.rows)
  s.rings.findSome? fun g => ((g.2.recs ++ g.2.waiting.map Prod.fst).find? its).map fun c => (g.1, g.2.size, c)
/-- A flit from another device: a later one goes where its record has begun; for a first one the ring is the lowest replica of this device in the
entry of the die it reaches (DESIGN CHOICE, log 35). -/
def State.takeExpert (s : State) (die rx : Nat) (f : Flit) : State :=
  let e := f.word.toNat % 2 ^ 16
  let r := s.etRow die e
  match (if exRow f = 0 then none else s.begun f) with
  | some (x, size, c) => s.ringFlit x size c f [rx]
  | none =>
    match (List.range (etNrep r)).find? fun i => s.mine (devOf (rpRing (etRep r i))) with
    | none => (s.routerErr (2 * 2 ^ 14 + die)).freeBuf rx 5
    | some i => let p := etRep r i; s.ringFlit (localOf (rpRing p)) (rpRows p) (recOf f die e i p) f [rx]
/-- EXPERT. -/
def execExpert (die : Nat) (f : Flit) (s : State) : Host.Outcome State Fault Refusal :=
  if die / 8 = 0 then .next (s.routeExpert die f)
  else match s.receive (die / 8 - 1) f with
    | (s, none) => .next s
    | (s, some f) => .next (s.takeExpert (die % 8) (die / 8 - 1) f)
/-- COMMIT_ACKNOWLEDGEMENT: QB falls, unless the record is no longer in the table, and the ESEND that sent the record, known by its context and
sequence number, is done (R73, R74). `unit`: the core that sent it. -/
def execCommitAcknowledgement (die entry rep bytes : Nat) (ack : RingAck) (s : State) : Host.Outcome State Fault Refusal :=
  let r := s.etRow die entry
  let s := if rep < etNrep r ∧ rpRing (etRep r rep) = ack.ring then { s with qb := s.qb.put (qbKey die entry rep) (s.qbOf die entry rep - bytes) } else s
  let acked (x : RunCmd) : RunCmd :=
    if x.c.op = 7 ∧ x.status = none ∧ x.side % 2 ^ 32 = ack.seq ∧ (if 2048 ≤ x.c.ctx then 0 else x.c.ctx % 4) = ack.ctx ∧
      x.aux = BitVec.ofNat 64 (rep + 1) ∧ rpRing x.mapRow = ack.ring then { x with status := some 0, count := rep } else x
  .next (s.modCore s.unit fun k => { k with mainE := k.mainE.map acked })

/-! Lost sources (R75). -/

/-- Incomplete records of a source that has become unreachable are void: zero-filled, they commit in their place. -/
def voidRec (r : RingRec) : RingRec := { r with void := true, hdr := r.hdr ||| BitVec.ofNat 1024 (2 ^ 57), got := r.rows }
def State.voidRing (s : State) (x : Nat) (g : Ring) : State :=
  let gone (r : RingRec) : Bool := !(s.mine r.src) && !(s.map.peers.getLsbD r.src) && decide (r.got < r.rows)
  let s := g.recs.foldl (fun s r => if gone r then
    (s.storeLocal (ringSlot x g.size r.pos) (voidRec r).hdr fullMask false).ringRows x g.size r.pos 0 (List.replicate r.rows 0) else s) s
  let s := s.putRing x { g with
      recs := g.recs.map fun r => if gone r then voidRec r else r
      waiting := g.waiting.map fun w => if gone w.1 then ({ voidRec w.1 with bufs := [] }, []) else w }
  let s := s.freeBufs ((g.waiting.filter fun w => gone w.1).map fun w => w.1.bufs).flatten
  if g.recs.any gone then s.post x 0 .ringCommit else s
def State.voidRings (s : State) : State := s.rings.foldl (fun s g => s.voidRing g.1 g.2) s

end Sys2Proof.Machine
end

