-- ==== Sys2Proof/Machine/Engines.lean ====
section
/-! DEFINITION. Engine commands: issue, acceptance, walks and publishes (R66 to R71, R76, R77, R94, R146, R164 to R167, R355 to R359,
R366, R369). -/

namespace Sys2Proof.Machine

/-! Engines of a core (R146). -/

def State.setEng (s : State) (n : Nat) (e : Eng) (r : Option RunCmd) : State := s.modCore n fun k => k.setEngine e r
/-- The engine of an opcode; the collective engine's sets are told apart by priority. -/
def engOf (op : Nat) : Eng :=
  match op with | 1 | 4 | 8 | 0x0B => .copy | 2 | 3 | 0x0A => .offload | 9 => .record | _ => .main
/-- The core of a context key, hidden trap contexts included. -/
def coreOfKey (n : Nat) : Nat := if n < 2048 then n / 4 else n - 2048
/-- Every command an engine of a core runs. -/
def Core.running (k : Core) : List RunCmd := [k.copyE, k.offE, k.mainE, k.shadowE, k.recE].filterMap id

/-! Issue (R146, R355, R358). -/

/-- Opcodes marked privileged in R269. -/
def ecPriv (op : Nat) : Bool := [0x0C, 0x0D, 0x0F, 0x10, 0x14, 0x15].contains op
/-- The command row D (R355). -/
def State.ecRow (s : State) (a : EArgs) : Nat := ((s.rdS a.n).toNat + a.off.toNat) % Config.spRows
/-- The queue entry of a command; the hidden trap context's works for the trapped task. -/
def State.ecCmd (s : State) (op : Nat) (a : EArgs) : EngCmd :=
  let t := s.tgt.task
  ⟨op, a, s.ecRow a, s.act, match t with | some t => t.serial | none => 0, match t with | some t => t.part | none => 0,
    match t with | some t => t.cmd | none => 0, !s.hidden && s.me.snap.isSome, s.dev.mxIds,
    s.tgt.ext, s.me.ops, s.clk⟩
/-- LNR PRIO. -/
def lnPrio (l : BitVec 2048) : Bool := lnrF l 4 2 / 2 % 2 == 1
/-- Whether a command is a priority collective, by its rows as they stand (R76). -/
def State.isPrio (s : State) (c : EngCmd) : Bool :=
  let n := coreOfKey c.ctx
  let row (k : Nat) : Row := s.rawRow (spAddr n (c.row + k))
  match c.op with
  | 5 => let h := BitVec.ofNat 32 (trF (row 0) 0x10 4); c.a.pri && (if s.mine (hOwner h) then
      (match s.treeRef c.part h with | .tree e => tePrio e | .stale => false) else tePrio (s.entOf c.part h))
  | 6 => c.a.pri || lnPrio ((row 1).zeroExtend 2048)
  | _ => false
/-- Whether the command's queue is full: the engine queue, or for a priority collective the FIFO (R76, R146). -/
def State.ecFull (s : State) (op : Nat) (a : EArgs) : Bool :=
  decide (16 ≤ s.me.eq.length) || (decide (4 ≤ (s.core s.coreNo).prio.length) && s.isPrio (s.ecCmd op a))
/-- A command enters its queue: a priority collective the FIFO of the shadow set, unless stores before it, which may write its rows, have not
performed: it then waits for them in the engine queue, and is known as one when they have (R76, R146, R164; DEDUCED, log 107). -/
def State.ecPush (s : State) (c : EngCmd) : State :=
  let s : State := { s with dev := { s.dev with mxIds := s.dev.mxIds + 1 } }
  if s.isPrio c && decide ((s.core s.coreNo).prio.length < 4) && !(s.storesUpTo c.ctx c.ops c.iss) then
    s.modCore s.coreNo fun k => { k with prio := k.prio ++ [c] }
  else s.modMe fun k => { k with eq := k.eq ++ [c] }
/-- PRIV for a privileged command outside the hidden trap context. -/
def State.ecTrap (s : State) (i : Instr) (op : Nat) : Option (Nat × Nat) := if ecPriv op && !s.hidden then some (0x03, slotTval i) else none
/-- An EC command alone: its trap, a hold, or its place in the queue. -/
def State.ecGo (s : State) (i : Instr) (op : Nat) (a : EArgs) : Host.Outcome State Fault Refusal :=
  match s.ecTrap i op with
  | some t => issue s (some t) s
  | none => .next (if s.ecFull op a then s else s.ecPush (s.ecCmd op a))

/-- COPY. -/
def execCopy (a : EArgs) (s : State) : Host.Outcome State Fault Refusal := s.ecGo (.copy a) 0x01 a
/-- OFFL. -/
def execOffl (a : EArgs) (s : State) : Host.Outcome State Fault Refusal := s.ecGo (.offl a) 0x02 a
/-- ONLD. -/
def execOnld (a : EArgs) (s : State) : Host.Outcome State Fault Refusal := s.ecGo (.onld a) 0x03 a
/-- PUB. -/
def execPub (a : EArgs) (s : State) : Host.Outcome State Fault Refusal := s.ecGo (.pub a) 0x04 a
/-- POST. -/
def execPost (a : EArgs) (s : State) : Host.Outcome State Fault Refusal := s.ecGo (.post a) 0x05 a
/-- XCHG. -/
def execXchg (a : EArgs) (s : State) : Host.Outcome State Fault Refusal := s.ecGo (.xchg a) 0x06 a
/-- ESEND. -/
def execEsend (a : EArgs) (s : State) : Host.Outcome State Fault Refusal := s.ecGo (.esend a) 0x07 a
/-- DICTLD. -/
def execDictld (a : EArgs) (s : State) : Host.Outcome State Fault Refusal := s.ecGo (.dictld a) 0x08 a
/-- UNPICK. -/
def execUnpick (a : EArgs) (s : State) : Host.Outcome State Fault Refusal := s.ecGo (.unpick a) 0x09 a
/-- CKPT. -/
def execCkpt (a : EArgs) (s : State) : Host.Outcome State Fault Refusal := s.ecGo (.ckpt a) 0x0A a
/-- DRAIN. -/
def execDrain (a : EArgs) (s : State) : Host.Outcome State Fault Refusal := s.ecGo (.drain a) 0x0B a
/-- TREE.MAKE. -/
def execTreeMake (a : EArgs) (s : State) : Host.Outcome State Fault Refusal := s.ecGo (.treeMake a) 0x0C a
/-- TREE.FREE. -/
def execTreeFree (a : EArgs) (s : State) : Host.Outcome State Fault Refusal := s.ecGo (.treeFree a) 0x0D a
/-- TREE.FREEZE. -/
def execTreeFreeze (a : EArgs) (s : State) : Host.Outcome State Fault Refusal := s.ecGo (.treeFreeze a) 0x0E a
/-- TREE.SAVE. -/
def execTreeSave (a : EArgs) (s : State) : Host.Outcome State Fault Refusal := s.ecGo (.treeSave a) 0x0F a
/-- TREE.LOAD. -/
def execTreeLoad (a : EArgs) (s : State) : Host.Outcome State Fault Refusal := s.ecGo (.treeLoad a) 0x10 a
/-- TREE.EDIT. -/
def execTreeEdit (a : EArgs) (s : State) : Host.Outcome State Fault Refusal := s.ecGo (.treeEdit a) 0x11 a
/-- TREE.THAW. -/
def execTreeThaw (a : EArgs) (s : State) : Host.Outcome State Fault Refusal := s.ecGo (.treeThaw a) 0x12 a
/-- TREE.QUERY. -/
def execTreeQuery (a : EArgs) (s : State) : Host.Outcome State Fault Refusal := s.ecGo (.treeQuery a) 0x13 a
/-- WPLAN. -/
def execWplan (a : EArgs) (s : State) : Host.Outcome State Fault Refusal := s.ecGo (.wplan a) 0x14 a
/-- ETAB. -/
def execEtab (a : EArgs) (s : State) : Host.Outcome State Fault Refusal := s.ecGo (.etab a) 0x15 a

/-! Rows as engines read and write them. -/

/-- One row read: of this device, with its poison, or of another device, which is free (log 20). -/
def State.engRead (s : State) (x : W64) : State × Row × Bool :=
  if s.mine (devOf x) then let r := s.loadLocal (localOf x); (r.1, r.2.1, r.2.2.isSome)
  else ({ s with dev := { s.dev with fresh := s.dev.fresh + 1 } }, Config.farRow x.toNat s.dev.fresh, false)
/-- Rows read one after another, and whether one was poisoned. -/
def State.engReads (s : State) : List W64 → State × List Row × Bool
  | [] => (s, [], false)
  | x :: xs =>
    let r := s.engRead x
    let t := r.1.engReads xs
    (t.1, r.2.1 :: t.2.1, r.2.2 || t.2.2)
/-- The rows that hold n bytes of this device's memory, read: whether one was poisoned (R209). -/
def State.readSpan (s : State) (a n : Nat) : State × Bool :=
  let d := s.engReads ((List.range ((a % 128 + n + 127) / 128)).map fun k => s.here (rowBase a + 128 * k))
  (d.1, d.2.2)
/-- The engine of a command's requests on a virtual channel: VC1 is the shadow set's. -/
def engFor (op vc : Nat) : Eng := if vc = 1 then .shadow else engOf op
/-- A WRITE of an engine on VC0 or VC1. -/
def State.engFlit (s : State) (core : Nat) (c : EngCmd) (ext : List Extent) (vc : Nat) (x : W64) (rows : Nat) (p0 p1 : Row) : Flit :=
  s.flit 0 vc core 0 c.part x (engTag (engFor c.op vc)) rows ({ Ctx.reset with ext := ext }.confAt x) p0 p1
/-- One row written for a command with its extents: here, or as a WRITE on VC0 or VC1; none when the peer cannot be reached. -/
def State.engWrite (s : State) (core : Nat) (c : EngCmd) (ext : List Extent) (vc : Nat) (x : W64) (r : Row) : Option State :=
  if s.mine (devOf x) then some (s.storeLocal (localOf x) r fullMask false)
  else s.inject core (devOf x) (s.engFlit core c ext vc x 1 r 0)
/-- Part of one row written, under a mask: toward another device a WRITE that carries the mask (log 26). -/
def State.engWritePart (s : State) (core : Nat) (c : EngCmd) (ext : List Extent) (vc : Nat) (x : W64) (r mask : Row) : Option State :=
  if s.mine (devOf x) then some (s.storeLocal (localOf x) r mask false)
  else s.inject core (devOf x) (s.engFlit core c ext vc (x ||| 1) 2 (r &&& mask) mask)
/-- Whether a flit for a peer finds a send allowance that no flit queued before it takes, at the slot it would go to (R44, R77). -/
def State.roomFor (s : State) (core peer : Nat) (f : Flit) : Bool :=
  match s.slotFor (dieOfCore core) peer f with
  | none => true
  | some i =>
    let n (l : List Flit) : Nat := (l.filter fun g => g.vc == f.vc).length
    let held := match s.wp with | some w => n ((w.held.filter fun g => g.1 == peer).map Prod.snd) | none => 0
    let moving := s.links.foldl (fun k l => k + n ((l.2.q.filter fun g => g.2 == i).map Prod.fst)) 0
    decide (n (s.tx i).q + held + moving < (s.tx i).allow.getD f.vc.toNat 0)
/-- What writing some rows comes to: the rows written, and whether it stopped at a peer that cannot be reached. It stops before the first flit that
finds no allowance. -/
structure Written where
  st : State
  rows : Nat
  gone : Bool
/-- Rows written one after another, toward another device two consecutive rows a flit (R77); `pace`: allowances are waited for. -/
def State.engWrites (s : State) (core : Nat) (c : EngCmd) (ext : List Extent) (vc : Nat) (pace : Bool) : List (W64 × Row) → Written
  | [] => ⟨s, 0, false⟩
  | [(x, r)] =>
    if pace && !(s.mine (devOf x)) && !(s.roomFor core (devOf x) (s.engFlit core c ext vc x 1 r 0)) then ⟨s, 0, false⟩
    else match s.engWrite core c ext vc x r with
    | some s => ⟨s, 1, false⟩
    | none => ⟨s, 0, true⟩
  | (x, r) :: (y, q) :: rest =>
    let f := s.engFlit core c ext vc x 2 r q
    let two := !(s.mine (devOf x)) && y == x + 128 && devOf y == devOf x && f.c == (s.engFlit core c ext vc y 1 q 0).c
    if pace && !(s.mine (devOf x)) && !(s.roomFor core (devOf x) f) then ⟨s, 0, false⟩
    else if two then
      match s.inject core (devOf x) f with
      | some s => let w := s.engWrites core c ext vc pace rest; { w with rows := w.rows + 2 }
      | none => ⟨s, 0, true⟩
    else
      match s.engWrite core c ext vc x r with
      | some s => let w := s.engWrites core c ext vc pace ((y, q) :: rest); { w with rows := w.rows + 1 }
      | none => ⟨s, 0, true⟩
/-- Whether rows that an engine of a core wrote have not been acknowledged by another device (DEDUCED, log 101). -/
def State.engOut (s : State) (core : Nat) (e : Eng) : Bool :=
  s.flitOut fun f => (f.kind == 0 || f.kind == 3) && f.srcCore.toNat == core && f.word.toNat == engTag e && f.srcDev == s.dev.devid
/-- The same for any engine of the core. -/
def State.engsOut (s : State) (core : Nat) : Bool := (List.range 5).any fun i => s.engOut core (engByNo i)

/-- Where a row of a space lies, for an engine of a core with a table of extents. -/
inductive EngAt where
  | at (x : W64)
  | bound
  | revoked
  | refused
  deriving DecidableEq, Repr
def State.engAt (s : State) (core : Nat) (ext : List Extent) (space ex : Nat) (write : Bool) (off : Int) : EngAt :=
  if off < 0 then .bound
  else
    let row := off.toNat / 128
    match space with
    | 0 => if row < Config.spRows then .at (s.here (spAddr core row)) else .bound
    | 1 => if row < Config.psRows then .at (s.here (psAddr (panelOfCore core) row)) else .bound
    | _ => match extRow { Ctx.reset with ext := ext } write ex row with | .at x => .at x | .bound => .bound | .revoked => .revoked | .refused => .refused
/-- What the rows of a transfer find: a status, a pause, or their addresses (R68, R120, R359). -/
inductive EngRows where
  | stop (status : Nat)
  | pause
  | ok (xs : List W64)
  deriving DecidableEq, Repr
def State.engRows (s : State) (as : List EngAt) : EngRows :=
  if as.any (· == .bound) then .stop 0x06
  else
    let xs := as.filterMap fun a => match a with | .at x => some x | _ => none
    if xs.any (fun x => !s.reach x) then .stop 0x05 else if as.any (· == .refused) then .stop 0x07 else if as.any (· == .revoked) then .pause else .ok xs
/-- n rows of a space from a byte offset on. -/
def State.engSpan (s : State) (core : Nat) (ext : List Extent) (space ex : Nat) (write : Bool) (off : Int) (n : Nat) : EngRows :=
  s.engRows ((List.range n).map fun k => s.engAt core ext space ex write (off + ((128 * k : Nat) : Int)))

/-! Acceptance (R146, R164, R356, R358). -/

/-- The argument bytes an opcode names (R360, R364 to R368). -/
def ecFields (op : Nat) : List (Nat × Nat) :=
  match op with
  | 2 | 3 => [(0x10, 1), (0x11, 1), (0x12, 2), (0x18, 8), (0x20, 8), (0x28, 8), (0x30, 8)]
  | 4 => [(0x10, 1), (0x11, 1), (0x12, 1), (0x13, 1), (0x18, 8)]
  | 5 => [(0x10, 4), (0x14, 2), (0x16, 2), (0x18, 2)]
  | 7 => [(0x10, 2), (0x12, 1), (0x14, 2), (0x18, 2)]
  | 8 => [(0x10, 2), (0x12, 2), (0x14, 2), (0x16, 1), (0x17, 1), (0x18, 8)]
  | 9 => [(0x10, 8), (0x18, 1)]
  | 0x0A => [(0x10, 8), (0x18, 2), (0x1A, 1), (0x20, 8)]
  | 0x0B | 0x14 => [(0x10, 8)]
  | 0x0C => [(0x10, 1), (0x11, 1), (0x12, 1), (0x13, 1), (0x14, 4), (0x18, 2), (0x1A, 2), (0x1C, 2), (0x1E, 2), (0x20, 4), (0x24, 2), (0x28, 8),
      (0x30, 8), (0x38, 8), (0x40, 8), (0x48, 8)]
  | 0x0D | 0x0F => [(0x10, 1), (0x14, 4)]
  | 0x0E | 0x12 => [(0x14, 4)]
  | 0x10 => [(0x10, 1), (0x14, 4), (0x18, 8)]
  | 0x11 => [(0x11, 1), (0x14, 4), (0x18, 2), (0x20, 8)]
  | 0x13 => [(0x14, 4), (0x18, 2)]
  | 0x15 => [(0x10, 1), (0x12, 2), (0x14, 2), (0x18, 8)]
  | _ => []
/-- The ranges of the fields; `hid` for a command of the hidden trap context. -/
def ecRanges (op : Nat) (d : Row) (lnr : BitVec 2048) (hid : Bool) : Bool :=
  let f (o n : Nat) : Nat := trF d o n
  match op with
  | 2 | 3 => decide (f 0x10 1 ≤ 15) && decide (f 0x11 1 ≤ 15) && decide (1 ≤ f 0x12 2) && decide (f 0x12 2 ≤ lnrF lnr 0x20 4 / 128)
  | 4 => decide (f 0x10 1 ≤ 2) && decide (f 0x11 1 ≤ 15) && decide (f 0x12 1 ≤ 1) && decide (f 0x13 1 ≤ 254)
  | 5 => decide (1 ≤ f 0x16 2) && decide (f 0x16 2 ≤ 256)
  | 7 => decide (1 ≤ f 0x12 1) && decide (f 0x12 1 ≤ 32)
  | 8 => (f 0x10 2 != 0xFFFF || hid) && decide (f 0x12 2 + f 0x14 2 ≤ Config.dictEntries) && decide (f 0x16 1 ≤ 2) && decide (f 0x17 1 ≤ 15)
  | 9 => decide (f 0x18 1 ≤ 3)
  | 0x0A => decide (f 0x18 2 ≤ 16) && decide (f 0x1A 1 ≤ 15)
  | 0x0C | 0x0D | 0x0F | 0x10 => decide (f 0x10 1 ≤ 7)
  | 0x11 => decide (f 0x11 1 ≤ 1)
  | 0x15 => decide (f 0x10 1 ≤ 7) && decide (f 0x12 2 < 8192) && decide (1 ≤ f 0x14 2) && decide (f 0x12 2 + f 0x14 2 ≤ 8192)
  | _ => true
/-- The kind of the loop-nest record a command reads, if it reads one. -/
def ecLnr (op : Nat) : Option Nat := match op with | 1 => some 1 | 2 => some 2 | 3 => some 3 | 6 => some 4 | _ => none
/-- Whether every argument byte that the opcode does not name is zero. -/
def ecZero (op : Nat) (d : Row) : Bool :=
  (List.range 112).all fun i => (ecFields op).any (fun f => decide (f.1 ≤ 0x10 + i) && decide (0x10 + i < f.1 + f.2)) || trF d (0x10 + i) 1 == 0
/-- The status a command is refused with at acceptance. -/
def ecRefused (op : Nat) (d : Row) (lnr : BitVec 2048) (hid : Bool) : Option Nat :=
  match ecLnr op with
  | some k => if !(lnrOkCmd lnr k) then some 0x15 else if !(ecZero op d && ecRanges op d lnr hid) then some 0x1C else none
  | none => if ecZero op d && ecRanges op d lnr hid then none else some 0x1C

/-- LNR fields. -/
def lnPub (l : BitVec 2048) : Bool := lnrF l 4 2 / 4 % 2 == 1
def lnComp (l : BitVec 2048) : Bool := lnrF l 4 2 % 2 == 1
def lnBytes (l : BitVec 2048) : Nat := lnrF l 0x20 4
def lnSbase (l : BitVec 2048) : Nat := lnrF l 8 6
def lnDbase (l : BitVec 2048) : Nat := lnrF l 0x10 6
def lnSspace (l : BitVec 2048) : Nat := lnrF l 0x0F 1
def lnDspace (l : BitVec 2048) : Nat := lnrF l 0x17 1
def lnSext (l : BitVec 2048) : Nat := lnrF l 0x0E 1
def lnDext (l : BitVec 2048) : Nat := lnrF l 0x16 1

/-- The context keys of a core's five engine queues, after the one served last (R146). -/
def Core.rotation (k : Core) (n : Nat) (e : Eng) : List Nat :=
  let last := k.rotor.get 4 (engNo e)
  (List.range 5).map fun i => let q := (last + 1 + i) % 5; if q = 4 then 2048 + n else 4 * n + q
def queueNo (key : Nat) : Nat := if key < 2048 then key % 4 else 4
/-- Whether a command's launch is in debug halt; in step mode engine commands go on, and a handler's are none of the launch (R188, R189). -/
def State.haltedCmd (s : State) (e : EngCmd) : Bool :=
  s.ctxs.any fun c => c.2.halted && (s.core (c.1 / 4)).mode == 1 && (match c.2.task with | some t => e.ofCmd t.cmd | none => false)
/-- Whether every store that the context issued before a queued command has performed (R164). -/
def State.mayStart (s : State) (key : Nat) (c : EngCmd) : Bool := !(s.storesUpTo key c.ops c.iss)
/-- The first head, in rotation, that an engine can take: its stores before it have performed (R164). -/
def State.pickHead (s : State) (n : Nat) (e : Eng) : Option (Nat × EngCmd) :=
  ((s.core n).rotation n e).findSome? fun key =>
    match (s.ctx key).engs with
    | [] => none
    | c :: _ => if engOf c.op == e && !(s.isPrio c) && s.mayStart key c && !(s.headHeld key) then some (key, c) else none
/-- The first priority collective, in rotation, that waits in an engine queue and whose stores before it have performed: it is not ordered against
the bulk commands before it (R76). -/
def State.pickPrio (s : State) (n : Nat) : Option (Nat × EngCmd) :=
  ((s.core n).rotation n .shadow).findSome? fun key => ((s.ctx key).engs.find? fun c => s.isPrio c && s.mayStart key c).map fun c => (key, c)
/-- A command taken from its queue, and the rotation moved on. -/
def State.takeHead (s : State) (n : Nat) (e : Eng) (key : Nat) (c : EngCmd) : State :=
  (s.modCtx key fun k => k.keepEngs (·.id != c.id)).modCore n fun k => { k with rotor := k.rotor.put (engNo e) (queueNo key) }
/-- The mapping row's fields (R165). -/
def mpSeq (r : Row) : Nat := trF r 0 8
def mpRows (r : Row) : Nat := trF r 8 4
def mpVis (r : Row) : Nat := trF r 0x0C 1 % 2
def mpPubno (r : Row) : Nat := trF r 0x0D 1
def mpSwaps (r : Row) : Nat := trF r 0x10 8
def mpOk (r : Row) : Bool :=
  decide (1 ≤ mpRows r) && decide (mpRows r ≤ 2 ^ 24) && trF r 0x0C 1 / 2 == 0 && trF r 0x0E 2 == 0 && trF r 0x18 104 == 0
/-- Row k of a command's rows, if it has one there. -/
def State.argRow (s : State) (c : EngCmd) (has : Bool) (k : Nat) : State × Row × Bool :=
  if has then s.engRead (s.here (spAddr (coreOfKey c.ctx) (c.row + k))) else (s, 0, false)
/-- The rows of a command, read once: its argument row, its record, and whether one was poisoned. -/
def State.argRows (s : State) (c : EngCmd) : State × Row × BitVec 2048 × Bool :=
  let two := (ecLnr c.op).isSome
  let d := s.argRow c true 0
  let l1 := d.1.argRow c (two || c.op == 0x0A) 1
  let l2 := l1.1.argRow c two 2
  (l2.1, d.2.1, l1.2.1.zeroExtend 2048 ||| (l2.2.1.zeroExtend 2048 <<< 1024), d.2.2 || l1.2.2 || l2.2.2)
/-- A command with its rows, as its engine starts it, or with the status that refuses it. -/
def State.startWith (s : State) (c : EngCmd) (args : Row) (lnr : BitVec 2048) (bad : Bool) : State × RunCmd :=
  let two := (ecLnr c.op).isSome
  let r : RunCmd := ⟨c, args, lnr, 0, none, 0, 0, [], false, none, 0, 0, c.ext, [], (s.extCtx c.ctx).csr, 0, 0, none⟩
  if bad then (s, { r with status := some 0x08 })
  else
    match ecRefused c.op args lnr (decide (2048 ≤ c.ctx)) with
    | some st => (s, { r with status := some st })
    | none =>
      let r := if two then { r with nest := some (nestOf lnr) } else r
      (s, r)
/-- What starts a command: its rows read once, its checks. -/
def State.startRun (s : State) (c : EngCmd) : State × RunCmd :=
  let d := s.argRows c
  d.1.startWith c d.2.1 d.2.2.1 d.2.2.2
/-- A command other than COPY, OFFL and ONLD makes its segment irreversible when an engine accepts it (R218). -/
def State.markIrrev (s : State) (c : EngCmd) : State :=
  if c.seg ∧ !([1, 2, 3].contains c.op) ∧ holderOf c.serial s.ctxs = some c.ctx then s.modCtx c.ctx fun k => { k with irrev := true } else s

/-! Walks (R68, R69). -/

/-- A base plus the index vector times the strides at an offset of the level entries. -/
def walkSum (l : BitVec 2048) (n : Nest) (base : Int) (off bytes : Nat) : Int :=
  (List.range n.levels).foldl (fun a k => a + ((n.idx.getD k 0 : Nat) : Int) * sextNat (lnrL l k off bytes) (8 * bytes)) base
def walkSrc (l : BitVec 2048) (n : Nest) : Int := walkSum l n (lnSbase l) 4 8
def walkDst (l : BitVec 2048) (n : Nest) : Int := walkSum l n (lnDbase l) 0x0C 8
/-- The peer of an index vector: 0 to PMOD − 1. -/
def walkPeer (l : BitVec 2048) (n : Nest) : Nat := (walkSum l n (lnrF l 0x18 2) 0x14 4 % ((lnrF l 0x1A 2 : Nat) : Int)).toNat
/-- LIVE bounds read until a run has started or the nest has ended: an engine's walker reads them itself. -/
def State.walkLive (s : State) (n : Nest) : Nat → State × Nest
  | 0 => (s, n)
  | fuel + 1 =>
    match n.await with
    | none => (s, n)
    | some l => let r := s.liveRead (n.liveAddr.getD l 0); r.1.walkLive (nestGot n r.2) fuel
/-- Where a transfer's destination lies on the hidden side with PUBLISH; none outside the side (R166). -/
def hiddenDst (r : RunCmd) (dst : Int) (bytes : Nat) : Option Int :=
  if lnPub r.lnr then
    let o := dst - (lnDbase r.lnr : Int)
    let side := mpRows r.mapRow * 128
    if o < 0 ∨ (side : Int) < o + (bytes : Int) then none else some (dst + 128 + ((r.side * side : Nat) : Int))
  else some dst
/-- The destination rows of a transfer in a space of the core. -/
def State.dstRows (s : State) (core : Nat) (r : RunCmd) (dst : Int) (bytes : Nat) : EngRows :=
  match hiddenDst r dst bytes with
  | none => .stop 0x06
  | some o => s.engSpan core r.ext (lnDspace r.lnr) (lnDext r.lnr) true o (bytes / 128)
/-- n rows at a peer from a byte offset on, and the member's arrival counter (R70); of a tree that another device owns they are free (log 34). -/
def State.peerSpan (s : State) (r : RunCmd) (p : Nat) (dst : Int) (n : Nat) : EngRows × W64 :=
  let tree := BitVec.ofNat 32 (lnrF r.lnr 0x1C 4)
  if tree = 0 then
    if 512 ≤ p then (.stop 0x16, 0)
    else if !(s.map.cores.getLsbD p) then (.stop 0x05, 0)
    else (s.engSpan p r.ext 0 0 true dst n, 0)
  else
    let own := s.mine (hOwner tree)
    let e := if own then s.ttRow r.c.part (hIdx tree) else r.ent.zeroExtend 2048
    if teNmemb e ≤ p then (.stop 0x16, 0)
    else
      let m := if own then s.memRec e p else Config.farMember tree.toNat r.c.part p r.aux.toNat
      if !(s.reach (mrDest m)) then (.stop 0x05, 0)
      else (.ok ((List.range n).map fun k =>
        BitVec.ofNat 64 ((mrDest m).toNat / 128 * 128) + BitVec.ofInt 64 (dst / 128 * 128) + BitVec.ofNat 64 (128 * k)), mrSync m)
/-- The rows of a transfer to its peer. -/
def State.peerRows (s : State) (r : RunCmd) (n : Nest) (dst : Int) (bytes : Nat) : EngRows × W64 :=
  match hiddenDst r dst bytes with
  | none => (.stop 0x06, 0)
  | some o => s.peerSpan r (walkPeer r.lnr n) o (bytes / 128)
/-- The mapping row of a command with PUBLISH, at DBASE of its destination space; toward peers each has a pair of its own there, and the row loaded
is that of the first (DESIGN CHOICE, log 36). -/
def State.pairRow (s : State) (core : Nat) (r : RunCmd) (peer : Nat) : EngRows :=
  if lnDspace r.lnr = 3 then (s.peerSpan r peer (lnDbase r.lnr) 1).1
  else s.engRows [s.engAt core r.ext (lnDspace r.lnr) (lnDext r.lnr) true (lnDbase r.lnr)]
/-- The peer of the first transfer. -/
def firstPeer (l : BitVec 2048) : Nat := lnrF l 0x18 2 % lnrF l 0x1A 2
/-- The mapping row loaded once, fixing the hidden side (R166). Over a revoked extent the command waits and loads it then. -/
def State.loadPair (s : State) (core : Nat) (r : RunCmd) : State × RunCmd :=
  match s.pairRow core r (firstPeer r.lnr) with
  | .ok (x :: _) =>
    let d := s.engRead x
    if d.2.2 then (d.1, { r with status := some 0x08 })
    else if !(mpOk d.2.1) then (d.1, { r with status := some 0x1B })
    else (d.1, { r with mapRow := d.2.1, side := 1 - mpVis d.2.1, paused := false })
  | .stop st => (s, { r with status := some st })
  | _ => (s, { r with paused := true })
/-- Whether a command with PUBLISH has still to load its mapping row, which is never zero (R165). -/
def RunCmd.unpaired (r : RunCmd) : Bool := r.nest.isSome && lnPub r.lnr && r.mapRow == 0 && r.status.isNone
/-- A chunk of a transfer of COPY or XCHG: it stops the walk, waits, or moves at most 32 rows and goes on (R68, R77). `prog` counts the
rows of the transfer that have moved; the arrival counter is decremented once they have performed (R70). -/
def State.walkStep (s : State) (core : Nat) (e : Eng) (r : RunCmd) (n : Nest) : State :=
  let l := r.lnr
  let rows := lnBytes l / 128
  let vc := if e = .shadow then 1 else 0
  let peer := lnDspace l = 3
  let src := s.engSpan core r.ext (lnSspace l) (lnSext l) false (walkSrc l n) rows
  let dst := if peer then s.peerRows r n (walkDst l n) (lnBytes l) else (s.dstRows core r (walkDst l n) (lnBytes l), 0)
  let put (r : RunCmd) (s : State) : State := s.setEng core e (some r)
  match src, dst.1 with
  | .stop st, _ => put { r with status := some st } s
  | _, .stop st => put { r with status := some st } s
  | .ok xs, .ok ys =>
    let d := s.engReads ((xs.drop r.prog).take 32)
    if d.2.2 then put { r with status := some 0x08 } d.1
    else
      let w := d.1.engWrites core r.c r.ext vc (e == .main || e == .shadow) (((ys.drop r.prog).take 32).zip d.2.1)
      let s := w.st
      let prog := r.prog + w.rows
      if w.gone then put { r with status := some 0x05, prog := prog } s
      else if prog < rows then put { r with prog := prog, paused := decide (w.rows < 32) } s
      else if dst.2 ≠ 0 ∧ s.engOut core e = true then put { r with prog := rows, paused := false } s
      else
        let s := if dst.2 = 0 then s else s.post 0 0 (.syncDec dst.2)
        let p := walkPeer l n
        put { r with
          count := r.count + 1, nest := some (nestNext n), paused := false, prog := 0
          peers := if peer ∧ lnPub l = true ∧ (r.peers.any fun q => q.1 == p) = false then r.peers ++ [(p, 0)] else r.peers } s
  | _, _ => put { r with paused := true } s

/-! Publishes (R94, R167). -/

/-- Whether every store and engine command that a context issued before this command has performed: a command that still runs, or waits in a queue,
has not (R164, R167). -/
def State.beforeDone (s : State) (core : Nat) (c : EngCmd) : Bool :=
  let k := s.core core
  let mine (d : EngCmd) : Bool := d.ctx == c.ctx && d.serial == c.serial && decide (d.id < c.id)
  !(k.running.any fun r => mine r.c) && !(k.prio.any mine) && !((s.ctx c.ctx).engs.any mine) &&
    !((match (s.ctx c.ctx).task with | some t => t.serial == c.serial | none => decide (2048 ≤ c.ctx)) && s.storesUpTo c.ctx c.ops c.iss)
/-- The mapping row of a pair stored for a PUB, from the row as it stands (R167). -/
def State.pubRow (s : State) (core : Nat) (c : EngCmd) (x : W64) (row : Row) (seq h n : Nat) : State :=
  let swaps := if mpVis row = h then mpSwaps row else mpSwaps row + 1
  let new : Row := BitVec.ofNat 1024 (seq + 2 ^ 64 * mpRows row + 2 ^ 96 * h + 2 ^ 104 * n + 2 ^ 128 * (swaps % 2 ^ 64))
  (s.engWrite core c c.ext 0 x new).getD s
/-- A PUB: the exactly-once check, the mapping row's store, the journal's bit. The count says whether the row was written. Further pairs of the
same PUB, those of an XCHG's peers, are stored with it. -/
def State.doPub (s : State) (core : Nat) (c : EngCmd) (x : W64) (row : Row) (more : List W64) (h n : Nat) : State × Nat :=
  let seq := match s.cmds.find c.cmd with | some d => enSEQ d.entry | none => 0
  let shown := mpSeq row == seq && mpPubno row == n
  if s.pubDone c.cmd n || shown then (if shown then s.setPub c.cmd n else s, 0)
  else
    let s := s.pubRow core c x row seq h n
    let s := more.foldl (fun s y => let d := s.engRead y; d.1.pubRow core c y d.2.1 seq h n) s
    let s := (s.notePub c.cmd n x).setPub c.cmd n
    (if c.seg ∧ holderOf c.serial s.ctxs = some c.ctx then s.modCtx c.ctx fun k => { k with irrev := true } else s, 1)
/-- A PUB on the mapping row at a place: nothing yet, or the state with status and count. -/
def State.pubAt (s : State) (core : Nat) (r : RunCmd) (a : EngRows) (more : List W64) (h : Option Nat) (n : Nat) : Option (State × Nat × Nat) :=
  if !(s.beforeDone core r.c) then none
  else
    match a with
    | .stop st => some (s, st, 0)
    | .ok (x :: _) =>
      let d := s.engRead x
      if d.2.2 then some (d.1, 0x08, 0)
      else if !(mpOk d.2.1) then some (d.1, 0x1B, 0)
      else let p := d.1.doPub core r.c x d.2.1 more (h.getD r.side) n; some (p.1, 0, p.2)
    | _ => none

end Sys2Proof.Machine
end

