-- ==== Sys2Proof/Machine/Collect.lean ====
section
/-! DEFINITION. POST, ESEND, ETAB, DICTLD, CKPT and DRAIN as their engines carry them out (R72 to R75, R79, R222, R223, R364 to R367). -/

namespace Sys2Proof.Machine

def aF (r : RunCmd) (off n : Nat) : Nat := trF r.args off n
/-- The context that holds a command's task, if one does: for a handler's command the trapped one (R173). -/
def State.cmdCtx (s : State) (c : EngCmd) : Option Nat :=
  if 2048 ≤ c.ctx then (s.core (c.ctx - 2048)).run.map fun r => 4 * (c.ctx - 2048) + r else holderOf c.serial s.ctxs
/-- A command that ends with a tree fault: TREEFAULT for its context, status FREED (R64, R70). -/
def State.treeFault (s : State) (c : EngCmd) (h : Nat) : State := s.reportTask c.ctx c.serial 0x0B (BitVec.ofNat 64 h)
/-- TVEC.LATEEN of a command's task, or of its saved image. -/
def State.lateEn (s : State) (c : EngCmd) : Bool :=
  match holderOf c.serial s.ctxs with
  | some n => bit (s.ctx n).csr.tvec 48
  | none =>
    match savedOf c.serial s.saves with
    | some v => bit (BitVec.ofNat 64 (s.bytes (v.addr + 0x407C0) 8)) 48
    | none => false

/-! POST (R364). -/

def postHandle (r : RunCmd) : W32 := BitVec.ofNat 32 (aF r 0x10 4)
def postMember (r : RunCmd) : Nat := aF r 0x14 2
/-- The checks of a POST at acceptance, on an entry and the member's record. -/
def State.postCheck (s : State) (core : Nat) (r : RunCmd) (e : BitVec 2048) (rec : Nat) : State × RunCmd :=
  let h := postHandle r
  let m := postMember r
  if teNmemb e ≤ m ∨ mrCore rec ≠ core ∨ s.mine (mrDev rec) = false then (s.treeFault r.c h.toNat, { r with status := some 3 })
  else if !(if teKind e = 1 then m == teRoot e else mrFlags rec % 2 == 1) then (s, { r with status := some 0x10 })
  else (s, { r with aux := BitVec.ofNat 64 (mrNext rec), ent := e.truncate 1024 })
/-- A POST at acceptance. What its device finds of a tree that another one owns is free (log 34). -/
def State.postStart (s : State) (core : Nat) (r : RunCmd) : State × RunCmd :=
  let h := postHandle r
  let m := postMember r
  if !(s.mine (hOwner h)) then
    let t := s.freed true
    match s.farRef r.c.part h with
    | .stale => (t.treeFault r.c h.toNat, { r with status := some 3 })
    | .tree e => t.postCheck core r e (Config.farMember h.toNat r.c.part m s.dev.fresh)
  else
    match s.treeRef r.c.part h with
    | .stale => (s.treeFault r.c h.toNat, { r with status := some 3 })
    | .tree e => s.postCheck core r e (s.memRec e m)
/-- A segment's record of fate. -/
def State.addPosted (s : State) (core : Nat) (e : Eng) (r : RunCmd) (seg : Nat) (st : Option Nat) : State :=
  { s with posted := s.posted ++ [⟨r.c.part, postHandle r, postMember r, seg, core, e == .shadow, r.c.id, false, st⟩] }
/-- NEXTSEG of a member. -/
def State.setNext (s : State) (e : BitVec 2048) (m seg : Nat) : State := s.putMem (teMembase e + 32 * m + 0x1C) 4 (seg % 2 ^ 32)
/-- NEXTSEG of a POST's member; that of another device's tree lies there (log 34). -/
def State.postNext (s : State) (r : RunCmd) (t : BitVec 2048) (seg : Nat) : State :=
  if s.mine (hOwner (postHandle r)) then s.setNext t (postMember r) seg else s
/-- Segment seg of a POST ends unsent. -/
def State.postSkip (s : State) (r : RunCmd) (t : BitVec 2048) (seg : Nat) : State × RunCmd :=
  (s.postNext r t (seg + 1), { r with prog := (r.prog / teP t + 1) * teP t })
/-- A LATE mark in place of a segment that came too late. -/
def State.postLate (s : State) (core : Nat) (r : RunCmd) (seg : Nat) : State :=
  match s.seamOfMember r.c.part (postHandle r) (postMember r) with
  | some q => s.sendLate r.c.part (postHandle r) seg (postMember r) (dieOfCore core) q
  | none => s
/-- A posted flit on its way to the member's seam. -/
def State.postSend (s : State) (core : Nat) (r : RunCmd) (f : Flit) : State :=
  match s.seamOfMember r.c.part (postHandle r) (postMember r) with
  | some q => if s.mine q.2 then s.post r.c.part 0 (.treeup q.1 f) else (s.inject core q.2 f).getD s
  | none => s
/-- A flit of a POST: rows from `row` on, in one flit. -/
def State.postFlit (s : State) (core : Nat) (r : RunCmd) (t : BitVec 2048) (seg row : Nat) (ps : List Row) : Flit :=
  { s.treeFlit 4 (if r.c.a.pri && tePrio t then 1 else 0) core r.c.part (postHandle r)
      (treeAddr seg row false false (row + ps.length == teP t) (postMember r)) ps.length (ps.getD 0 0) with pay1 := ps.getD 1 0 }
/-- Whether the next flit of a POST finds a send allowance (R77). -/
def State.postRoom (s : State) (core : Nat) (r : RunCmd) (t : BitVec 2048) : Bool :=
  match s.seamOfMember r.c.part (postHandle r) (postMember r) with
  | some q => s.mine q.2 || s.roomFor core q.2 (s.postFlit core r t 0 0 [])
  | none => true
/-- Rows from `row` of segment seg on, as read, sent in one flit. -/
def State.postGot (s : State) (core : Nat) (e : Eng) (r : RunCmd) (t : BitVec 2048) (seg row : Nat) (data : List Row) (bad : Bool) : State × RunCmd :=
  if bad then (s, { r with status := some 0x08 })
  else
    let s := if row = 0 then s.addPosted core e r seg none else s
    let ps := (List.range data.length).map fun k => let d := data.getD k 0; if teWide t then partialRow t d ((row + k) % 2) else d
    let s := s.postSend core r (s.postFlit core r t seg row ps)
    (if row + data.length = teP t then s.postNext r t (seg + 1) else s, { r with prog := r.prog + data.length })
/-- One or two rows of segment seg, read and sent (R77): as many as the window and the segment leave. -/
def State.postData (s : State) (core : Nat) (e : Eng) (r : RunCmd) (t : BitVec 2048) (seg row rows : Nat) : State × RunCmd :=
  let prow (k : Nat) : Nat := (aF r 0x18 2 + r.prog / teP t * teSegRows t + (if teWide t then (row + k) / 2 else row + k)) % Config.spRows
  let d := s.engReads ((List.range (min 2 (min rows (teP t) - row))).map fun k => s.here (spAddr core (prow k)))
  d.1.postGot core e r t seg row d.2.1 d.2.2
/-- The next flit of a POST to a tree that stands, or the end of a segment that is not sent. -/
def State.postRowTo (s : State) (core : Nat) (e : Eng) (r : RunCmd) (t : BitVec 2048) : Option (State × RunCmd) :=
  let k := r.prog / teP t
  let row := r.prog % teP t
  let seg := (r.aux.toNat + k) % 2 ^ 32
  let w := s.win r.c.part (postHandle r) (postMember r)
  if aF r 0x16 2 ≤ k then none
  else if teState t = 4 then some (s.addPosted core e r seg (some 4), { r with prog := 2 ^ 40 })
  else if teState t ≠ 1 then none
  else if !(s.isMember t (postMember r) seg) then some ((s.addPosted core e r seg (some 2)).postSkip r t seg)
  else if segLt seg w.1 then
    some ((if row = 0 then (s.addPosted core e r seg none).postLate core r seg else s).postSkip r t seg)
  else if w.1 = seg ∧ row < w.2 ∧ s.postRoom core r t = true then some (s.postData core e r t seg row w.2)
  else none
/-- The next flit of a POST to a tree that another device owns: the notices say what becomes of it (log 34). -/
def State.postRowFar (s : State) (core : Nat) (e : Eng) (r : RunCmd) : Option (State × RunCmd) :=
  let t : BitVec 2048 := r.ent.zeroExtend 2048
  let k := r.prog / teP t
  let row := r.prog % teP t
  let seg := (r.aux.toNat + k) % 2 ^ 32
  let w := s.win r.c.part (postHandle r) (postMember r)
  if aF r 0x16 2 ≤ k then none
  else if s.posted.any (fun p => p.cmd == r.c.id && (p.status == some 3 || p.status == some 4)) then some (s, { r with prog := 2 ^ 40 })
  else if segLt seg w.1 then
    some ((if row = 0 then (s.addPosted core e r seg none).postLate core r seg else s).postSkip r t seg)
  else if w.1 = seg ∧ row < w.2 ∧ s.postRoom core r t = true then some (s.postData core e r t seg row w.2)
  else none
/-- The next flit of a POST, or the end of a segment that is not sent: the state and the command, or nothing while it must wait. -/
def State.postRow (s : State) (core : Nat) (e : Eng) (r : RunCmd) : Option (State × RunCmd) :=
  if !(s.mine (hOwner (postHandle r))) then s.postRowFar core e r
  else match s.treeRef r.c.part (postHandle r) with
  | .stale =>
    if 2 ^ 40 ≤ r.prog then none
    else some (s.addPosted core e r (r.aux.toNat) (some 3), { r with prog := 2 ^ 40 })
  | .tree t => s.postRowTo core e r t
/-- A chunk of a POST: up to 16 flits, ending with its segment (R77). -/
def State.postChunk (s : State) (core : Nat) (e : Eng) (r : RunCmd) : Nat → State
  | 0 => s.setEng core e (some r)
  | fuel + 1 =>
    if r.status.isSome then s.setEng core e (some r)
    else match s.postRow core e r with
      | none => s.setEng core e (some r)
      | some (s, r) => if r.prog % teP (r.ent.zeroExtend 2048) = 0 then s.setEng core e (some r) else s.postChunk core e r fuel
/-- The first status, in the order FREED, BROKEN, REMOVED, LATE, OK, of a list. -/
def postStatus (l : List Nat) : Nat := ([3, 4, 2, 1].find? l.contains).getD 0
/-- The end of a POST: every segment has its fate. -/
def State.postEnd (s : State) (r : RunCmd) : Option (State × Nat × Nat) :=
  let mine := s.posted.filter fun p => p.cmd == r.c.id
  let sts := mine.filterMap (·.status)
  if sts.length < mine.length ∨ (mine.length < aF r 0x16 2 ∧ r.prog < 2 ^ 40) then none
  else
    let st : Nat := postStatus sts
    let s : State := { s with posted := s.posted.filter fun p => p.cmd != r.c.id }
    let s : State := if st == 1 && s.lateEn r.c then s.reportTask r.c.ctx r.c.serial 0x18 (BitVec.ofNat 64 (aF r 0x10 4)) else s
    some (s, st, (sts.filter (· == 1)).length)

/-! ESEND (R73, R74, R364). -/

/-- At acceptance the record takes the context's sequence number. -/
def State.esendStart (s : State) (r : RunCmd) : State × RunCmd :=
  (s.modCtx r.c.ctx fun c => { c with esend := c.esend + 1 }, { r with side := (s.ctx r.c.ctx).esend.toNat })
/-- A record's flits, two rows each, to the level-2 router of the core's die. -/
def State.esendFlits (s : State) (core : Nat) (r : RunCmd) (rows : List Row) : Nat → State
  | 0 => s
  | n + 1 =>
    let s := s.esendFlits core r rows n
    let k := min 2 (rows.length - 2 * n)
    let f : Flit := { s.flit 6 5 core (if 2048 ≤ r.c.ctx then 0 else r.c.ctx % 4) r.c.part (exAddr r.side (2 * n) rows.length (aF r 0x14 2)) (aF r 0x10 2) k false
        (rows.getD (2 * n) 0) 0 with pay1 := rows.getD (2 * n + 1) 0 }
    s.post 0 0 (.expert (dieOfCore core) f)
/-- The one chunk of an ESEND. -/
def State.esendChunk (s : State) (core : Nat) (r : RunCmd) : State :=
  let n := aF r 0x12 1
  if r.prog ≠ 0 then s
  else
    let d := s.engReads ((List.range n).map fun k => s.here (spAddr core ((aF r 0x18 2 + k) % Config.spRows)))
    if d.2.2 then d.1.setEng core .main (some { r with status := some 0x08 })
    else (d.1.esendFlits core r d.2.1 ((n + 1) / 2)).setEng core .main (some { r with prog := n })
/-- An ESEND whose replica is no longer reachable ends PEERGONE (R75). -/
def State.esendEnd (s : State) (r : RunCmd) : Option (State × Nat × Nat) :=
  if r.aux ≠ 0 ∧ s.reach (rpRing r.mapRow) = false then some (s, 0x05, 0) else none

/-! ETAB (R72). -/

def State.etabFrom (s : State) (die idx : Nat) (src : Nat) (k : Nat) : Nat → State × Nat × Nat
  | 0 => (s, 0, k)
  | n + 1 =>
    let d := s.engRead (s.here (src + 128 * k))
    if d.2.2 then (d.1, 0x08, k)
    else if !(etOk d.2.1) then (d.1, 0x1C, k)
    else (d.1.putEtab die (idx + k) d.2.1).etabFrom die idx src (k + 1) n
def State.etabEnd (s : State) (r : RunCmd) : State × Nat × Nat :=
  s.etabFrom (aF r 0x10 1) (aF r 0x12 2) (localOf (BitVec.ofNat 64 (aF r 0x18 8)) / 128 * 128) 0 (aF r 0x14 2)

/-! DICTLD (R149, R365). -/

/-- The shadow region recorded for the command's context, or in its saved image. -/
def State.setShadow (s : State) (c : EngCmd) (id base n : Nat) : State :=
  match s.cmdCtx c with
  | some k => s.modCtx k fun x => { x with
      shadowId := some id
      csr := { x.csr with dictb := setFld x.csr.dictb 16 14 base, dictl := setFld x.csr.dictl 16 15 n } }
  | none =>
    match savedOf c.serial s.saves with
    | some v =>
      let a := v.addr + 0x40780
      let s := s.putMem (a + 80) 8 (setFld (BitVec.ofNat 64 (s.bytes (a + 80) 8)) 16 14 base).toNat
      s.putMem (a + 88) 8 (setFld (BitVec.ofNat 64 (s.bytes (a + 88) 8)) 16 15 n).toNat
    | none => s
def State.dictEnd (s : State) (core : Nat) (r : RunCmd) : Option (State × Nat × Nat) :=
  let base := aF r 0x12 2
  let n := aF r 0x14 2
  if s.regionBusy core base n then some (s, 0x1A, 0)
  else
    match s.engSpan core r.ext (aF r 0x16 1) (aF r 0x17 1) false (128 * ((aF r 0x18 8 : Nat) : Int)) ((48 * n + 127) / 128) with
    | .stop st => some (s, st, 0)
    | .pause => none
    | .ok xs =>
      let d := s.engReads xs
      if d.2.2 then some (d.1, 0x08, 0)
      else
        let all := packRegs 1024 (fun i => (d.2.1.getD i 0).toNat) d.2.1.length
        let w := d.1.writeEntries core base (fun i => all / 2 ^ (384 * i) % 2 ^ 384) n
        if w.2.2 then some (w.1.setShadow r.c (aF r 0x10 2) base n, 0, w.2.1)
        else some (w.1.reportTask r.c.ctx r.c.serial 0x15 (BitVec.ofNat 64 (base + w.2.1)), 0x1E, w.2.1)

/-! CKPT (R222, R223). -/

/-- The counter of a stream: its binding core's while it is bound. -/
def State.strCtr (s : State) (n : Nat) : Nat :=
  match s.ctxs.find? fun c => bit c.2.csr.rngsel 63 && fld c.2.csr.rngsel 0 12 == n && !c.2.rngWait with
  | some c => c.2.rngCtr.toNat
  | none => s.bytes (s.strEntry n + 8) 8
/-- Slot n of a step record. -/
def State.strSlot (s : State) (n : Nat) : Nat :=
  let e := s.strEntry n
  let ctr := s.strCtr n
  let dpc := s.bytes (e + 0x10) 4
  s.bytes e 8 + 2 ^ 64 * ctr + 2 ^ 128 * dpc + 2 ^ 160 * s.bytes (e + 0x14) 1 + 2 ^ 168 * (s.bytes (e + 0x15) 1 % 2 + s.bytes (e + 0x15) 1 / 8 * 8) +
    2 ^ 192 * (if dpc = 0 then 0 else ctr / (8 * dpc))
/-- A cursor word; of another device it is free (log 20). -/
def State.cursor (s : State) (a : W64) : Nat :=
  if s.mine (devOf a) then (s.syLoad (localOf a)).toNat else (Config.farRow a.toNat s.dev.fresh).toNat % 2 ^ 64
/-- The step record with a CRC field (DEDUCED, log 92). -/
def State.ckptRec (s : State) (r : RunCmd) (crc : Nat) : Nat :=
  let ncur := aF r 0x18 2
  let nstr := fld (s.reg 0x332) 0 13
  let cur (k : Nat) : W64 := BitVec.ofNat 64 (lnrF r.lnr (8 * k) 8)
  aF r 0x10 8 + 2 ^ 64 * r.prog + 2 ^ 128 * r.aux.toNat + 2 ^ 192 * ncur + 2 ^ 224 * nstr + 2 ^ 256 * crc +
    2 ^ 512 * packRegs 64 (fun k => (cur k).toNat) ncur + 2 ^ 1536 * packRegs 64 (fun k => s.cursor (cur k)) ncur +
    2 ^ 4096 * packRegs 256 s.strSlot nstr
/-- Rows of a number written to addresses; the last row may be partial. -/
def State.ckptRows (s : State) (core : Nat) (r : RunCmd) (v bytes : Nat) (k : Nat) : List W64 → Option State
  | [] => some s
  | x :: xs =>
    let left := bytes - 128 * k
    let row : Row := BitVec.ofNat 1024 (v / 2 ^ (1024 * k))
    match (if left < 128 then s.engWritePart core r.c r.ext 0 x row (BitVec.ofNat 1024 (2 ^ (8 * left) - 1)) else s.engWrite core r.c r.ext 0 x row) with
      | some s => s.ckptRows core r v bytes (k + 1) xs
      | none => none
/-- The end of CKPT: a cursor word or a stream entry that reads poison ends it UNCORR with nothing written (R209, R223). -/
def State.ckptEnd (s : State) (core : Nat) (r : RunCmd) : Option (State × Nat × Nat) :=
  let nstr := fld (s.reg 0x332) 0 13
  let bytes := 512 + 32 * nstr
  match s.engSpan core r.ext 2 (aF r 0x1A 1) true (128 * ((aF r 0x20 8 : Nat) : Int)) ((bytes + 127) / 128) with
  | .stop st => some (s, st, 0)
  | .pause => none
  | .ok xs =>
    let s := match s.cmdCtx r.c with
      | some n => let c := s.ctx n
        if bit c.csr.rngsel 63 && !c.rngWait then s.putMem (s.strEntry (fld c.csr.rngsel 0 12) + 8) 8 c.rngCtr.toNat else s
      | none => s
    let curs := (List.range (aF r 0x18 2)).foldl (fun (d : State × Bool) k =>
      let a : W64 := BitVec.ofNat 64 (lnrF r.lnr (8 * k) 8)
      if s.mine (devOf a) then let p := d.1.syRead (localOf a); (p.1, d.2 || p.2.isSome) else d) (s, false)
    let tab := curs.1.readSpan (s.strEntry 0) (32 * nstr)
    let s := tab.1
    if curs.2 || tab.2 then some (s, 0x08, 0)
    else
    let crc := (crc32c (s.ckptRec r 0) bytes).toNat
    match s.ckptRows core r (s.ckptRec r crc) bytes 0 xs with
    | some s => some (s, 0, nstr)
    | none => some (s, 0x05, 0)

/-! DRAIN (R79, R367). -/

/-- The markers of a DRAIN, sent once what came before it has injected. -/
def State.drainGo (s : State) (core : Nat) (r : RunCmd) : State :=
  if r.prog ≠ 0 ∨ s.beforeDone core r.c = false then s
  else
    let mask := BitVec.ofNat 64 (aF r 0x10 8)
    let slots := (List.range 256).filter fun i =>
      (s.tx i).locked && slotLit (s.txByte i) && mask.getLsbD (s.txPeer i) && s.map.peers.getLsbD (s.txPeer i)
    let s := slots.foldl (fun s i => s.sendMarker i false) s
    s.setEng core .copy (some { r with prog := 1, peers := slots.map fun i => (i, (s.tx i).marker), count := slots.length })
/-- The end of a DRAIN: every marker answered. -/
def State.drainEnd (s : State) (r : RunCmd) : Option (State × Nat × Nat) :=
  if r.prog = 0 ∨ (r.peers.any fun p => match (s.tx p.1).await with | some n => decide ((n + 2 ^ 32 - p.2) % 2 ^ 32 < 2 ^ 31) | none => false) = true then none
  else
    let mask := BitVec.ofNat 64 (aF r 0x10 8)
    let gone := (List.range 64).any fun j => mask.getLsbD j && !(s.mine j) && !(s.map.peers.getLsbD j)
    some (s, if gone then 0x05 else 0, r.count)

end Sys2Proof.Machine
end

