-- ==== Sys2Proof/Machine/Offload.lean ====
section
/-! DEFINITION. OFFL and ONLD: blocks, slots, the overflow pool and the size table (R360 to R363). -/

namespace Sys2Proof.Machine

/-- The block of a transfer: rows, RAW, ZERO, and its bytes as a number. -/
structure Block where
  rows : Nat
  raw : Bool
  zero : Bool
  data : Nat
  deriving DecidableEq, Repr

/-- Element i of w bytes. -/
def elB (w x i : Nat) : Nat := x / 2 ^ (8 * w * i) % 2 ^ (8 * w)
/-- The numbers below n of nonzero elements, ascending. -/
def nonzeros (w x n : Nat) : List Nat := (List.range n).filter fun i => elB w x i != 0
def bitmapOf : List Nat → Nat
  | [] => 0
  | i :: is => 2 ^ i + bitmapOf is
/-- Elements packed one after another. -/
def packEls (w x : Nat) : List Nat → Nat
  | [] => 0
  | i :: is => elB w x i + 2 ^ (8 * w) * packEls w x is
/-- The block formed from ITBYTES of data (R362, step 1). -/
def blockOf (comp : Bool) (w bytes x : Nat) : Block :=
  if !comp then ⟨bytes / 128, true, false, x⟩
  else
    let n := bytes / w
    let nz := nonzeros w x n
    let bm := (n + 7) / 8
    let rows := (bm + nz.length * w + 127) / 128
    if nz.isEmpty then ⟨0, false, true, 0⟩
    else if bytes / 128 ≤ rows then ⟨bytes / 128, true, false, x⟩
    else ⟨rows, false, false, bitmapOf nz + 2 ^ (8 * bm) * packEls w x nz⟩
/-- The raw data of a compressed block: element i by its place among the set bits. -/
def expandFrom (w bm x : Nat) : Nat → Nat → Nat → Nat
  | 0, _, _ => 0
  | n + 1, i, k =>
    if x / 2 ^ i % 2 = 1 then x / 2 ^ (8 * bm + 8 * w * k) % 2 ^ (8 * w) * 2 ^ (8 * w * i) + expandFrom w bm x n (i + 1) (k + 1)
    else expandFrom w bm x n (i + 1) k
def expandBlock (w bytes x : Nat) : Nat := let n := bytes / w; expandFrom w ((n + 7) / 8) x n 0 0
/-- The rows a compressed block with this bitmap takes. -/
def bitmapRows (w bytes x : Nat) : Nat :=
  let n := bytes / w
  let set := ((List.range n).filter fun i => x / 2 ^ i % 2 == 1).length
  (set * w + (n + 7) / 8 + 127) / 128
/-- Row i of a number. -/
def rowAt (x i : Nat) : Row := BitVec.ofNat 1024 (x / 2 ^ (1024 * i))

/-- Where the size-table entry of block t lies. -/
def State.stAt (s : State) (core : Nat) (r : RunCmd) (write : Bool) (t : Nat) : EngRows :=
  s.engRows [s.engAt core r.ext 2 (aF r 0x10 1) write (((aF r 0x18 8 + t / 16) * 128 : Nat) : Int)]
/-- n pool rows from POOLROW on. -/
def State.poolAt (s : State) (core : Nat) (r : RunCmd) (write : Bool) (row n : Nat) : EngRows :=
  s.engSpan core r.ext 2 (aF r 0x11 1) write (((aF r 0x20 8 + row) * 128 : Nat) : Int) n
/-- The atomic ADD on the fill word: the state, the old value and whether it was poison; another device's is free (log 20). -/
def State.poolAdd (s : State) (a : W64) (n : Nat) : State × Nat × Bool :=
  if s.mine (devOf a) then let d := s.syAtom (localOf a) 0 (BitVec.ofNat 64 n) 0 true; (d.1, d.2.1.toNat, d.2.2.isSome)
  else let f := s.freshWord; (f.1, f.2.toNat, false)
/-- The size-table entry's store of 8 B. -/
def State.putEntry (s : State) (core : Nat) (r : RunCmd) (x : W64) (t v : Nat) : Option State :=
  let sh := 64 * (t % 16)
  s.engWritePart core r.c r.ext 0 x (BitVec.ofNat 1024 (v * 2 ^ sh)) (BitVec.ofNat 1024 ((2 ^ 64 - 1) * 2 ^ sh))

/-- A block's entry, its rows performed: the next block follows (R362). -/
def State.offlEntry (s : State) (core : Nat) (r : RunCmd) (n : Nest) (ent : W64) (v : Nat) : State :=
  match s.putEntry core r ent r.prog v with
  | none => s.setEng core .offload (some { r with status := some 0x05 })
  | some s => s.setEng core .offload (some { r with
      prog := r.prog + 1, count := r.count + 1, nest := some (nestNext n), paused := false, aux := 0, peers := [] })
/-- One block of OFFL (R362). An allocation already made while a pool row was revoked is kept in `aux`, the value of an entry whose rows
another device has not acknowledged in `peers`. -/
def State.offlStep (s : State) (core : Nat) (r : RunCmd) (n : Nest) : State :=
  let l := r.lnr
  let bytes := lnBytes l
  let t := r.prog
  let slot := aF r 0x12 2
  let put (r : RunCmd) (s : State) : State := s.setEng core .offload (some r)
  let stop (st : Nat) (s : State) : State := put { r with status := some st } s
  let wait (r : RunCmd) (s : State) : State := put { r with paused := true } s
  match s.engSpan core r.ext (lnSspace l) (lnSext l) false (walkSrc l n) (bytes / 128), s.stAt core r true t with
  | .stop st, _ => stop st s
  | _, .stop st => stop st s
  | .ok xs, .ok [ent] =>
    let d := s.engReads xs
    match r.peers with
    | (v, _) :: _ => if s.engOut core .offload then s else s.offlEntry core r n ent v
    | [] =>
    if d.2.2 then stop 0x08 d.1
    else
      let b := blockOf (lnComp l) (lnrF l 2 1) bytes (packRegs 1024 (fun i => (d.2.1.getD i 0).toNat) d.2.1.length)
      let ns := min b.rows slot
      let passed := b.rows - slot
      match s.dstRows core r (walkDst l n) (128 * ns) with
      | .stop st => stop st d.1
      | .pause => wait r s
      | .ok ys =>
        let al : State × Nat × Bool := if passed = 0 then (d.1, 0, false) else if r.aux ≠ 0 then (d.1, r.aux.toNat - 1, false)
          else d.1.poolAdd (BitVec.ofNat 64 (aF r 0x30 8)) passed
        let r' := if passed = 0 then r else { r with aux := BitVec.ofNat 64 (al.2.1 + 1) }
        if al.2.2 then put { r with status := some 0x08 } al.1
        else if passed ≠ 0 ∧ aF r 0x28 8 < al.2.1 + passed then put { r' with status := some 0x1D } al.1
        else
          match (if passed = 0 then EngRows.ok [] else al.1.poolAt core r true al.2.1 passed) with
          | .stop st => put { r' with status := some st } al.1
          | .pause => wait r' al.1
          | .ok ps =>
            let rows := (ys.zip ((List.range ns).map (rowAt b.data))) ++ (ps.zip ((List.range passed).map fun i => rowAt b.data (ns + i)))
            let v := b.rows + (if b.raw then 2 ^ 16 else 0) + (if b.zero then 2 ^ 17 else 0) + 2 ^ 24 * (if passed = 0 then 0 else al.2.1 % 2 ^ 40)
            let w := al.1.engWrites core r.c r.ext 0 false rows
            let s := w.st
            if w.gone then put { r' with status := some 0x05 } s
            else if s.engOut core .offload then put { r' with peers := [(v, 0)], paused := false } s else s.offlEntry core r' n ent v
  | _, _ => wait r s

/-- One block of ONLD (R363). -/
def State.onldStep (s : State) (core : Nat) (r : RunCmd) (n : Nest) : State :=
  let l := r.lnr
  let bytes := lnBytes l
  let w := lnrF l 2 1
  let slot := aF r 0x12 2
  let put (r : RunCmd) (s : State) : State := s.setEng core .offload (some r)
  let stop (st : Nat) (s : State) : State := put { r with status := some st } s
  match s.stAt core r false r.prog, s.dstRows core r (walkDst l n) bytes with
  | .stop st, _ => stop st s
  | _, .stop st => stop st s
  | .ok [ent], .ok ys =>
    let d := s.engRead ent
    let v := d.2.1.toNat / 2 ^ (64 * (r.prog % 16)) % 2 ^ 64
    let rows := bitsOf v 0 16
    let raw := v / 2 ^ 16 % 2 == 1
    let zero := v / 2 ^ 17 % 2 == 1
    let ns := min rows slot
    if d.2.2 then stop 0x08 d.1
    else if bytes / 128 < rows ∨ (raw && zero) = true then stop 0x1F d.1
    else
      match s.engSpan core r.ext (lnSspace l) (lnSext l) false (walkSrc l n) ns,
          (if rows ≤ slot then EngRows.ok [] else s.poolAt core r false (v / 2 ^ 24) (rows - slot)) with
      | .stop st, _ => stop st d.1
      | _, .stop st => stop st d.1
      | .ok xs, .ok ps =>
        let g := d.1.engReads (xs ++ ps)
        let x := packRegs 1024 (fun i => (g.2.1.getD i 0).toNat) rows
        if g.2.2 then stop 0x08 g.1
        else if (!raw && !zero) = true ∧ (w = 0 ∨ bitmapRows w bytes x ≠ rows) then stop 0x1F g.1
        else
          let out := if zero then 0 else if raw then x else expandBlock w bytes x
          let w := g.1.engWrites core r.c r.ext 0 false (ys.zip ((List.range (bytes / 128)).map (rowAt out)))
          if w.gone then stop 0x05 w.st
          else put { r with prog := r.prog + 1, count := r.count + 1, nest := some (nestNext n), paused := false } w.st
      | _, _ => put { r with paused := true } s
  | _, _ => put { r with paused := true } s

end Sys2Proof.Machine
end

