-- ==== Sys2Proof/Machine/TreeCmds.lean ====
section
/-! DEFINITION. The tree commands: MAKE, FREE, FREEZE, SAVE, LOAD, EDIT, THAW, QUERY (R46 to R52, R61 to R63, R368). -/

namespace Sys2Proof.Machine

/-- The partition of a tree command: PART of a privileged one, else the task's. -/
def treePart (r : RunCmd) : Nat := if ecPriv r.c.op then aF r 0x10 1 else r.c.part
def treeHandle (r : RunCmd) : W32 := BitVec.ofNat 32 (aF r 0x14 4)
/-- The entry a command's handle names, whatever its state; none is STALE. -/
def State.entryFor (s : State) (part : Nat) (h : W32) : Option (BitVec 2048) :=
  let e := s.ttRow part (hIdx h)
  if hOwner h = s.dev.devid.toNat ∧ hGen h ≠ 0 ∧ hIdx h < s.ttCount part ∧ lnrF e 0 4 = h.toNat then some e else none
/-- Whether a device address lies in HBM4E of this device (R368). -/
def State.inHbm (s : State) (a : Nat) : Bool :=
  let x : W64 := BitVec.ofNat 64 a
  (devOf x == 0 || s.mine (devOf x)) && (match homeOf (localOf x) with | .hbm _ => true | _ => false)
def devAddr (a : Nat) : Nat := localOf (BitVec.ofNat 64 a)

/-! TREE.MAKE's checks (R49). -/

/-- A member record's reserved bits (R48). -/
def mrOk (r : Nat) : Bool := bitsOf r 201 7 == 0 && bitsOf r 214 2 == 0 && mrFlags r / 8 == 0
/-- The highest level that members (device, core) span: 1 core to 5 domain (R1). -/
def spanOf (ms : List (Nat × Nat)) : Nat :=
  let same (f : Nat × Nat → Nat) : Bool := match ms with | [] => true | m :: rest => rest.all fun x => f x == f m
  if !(same (·.1)) then 5
  else if !(same fun m => dieOfCore m.2) then 4
  else if !(same fun m => panelOfCore m.2) then 3
  else if !(same (·.2)) then 2 else 1
/-- No core carries more than four members. -/
def coresOk (ms : List (Nat × Nat)) : Bool := ms.all fun m => decide ((ms.filter (· == m)).length ≤ 4)
/-- The members that a tree has in a segment: index, device, core. -/
def State.membersAt (s : State) (e : BitVec 2048) (seg : Nat) : List (Nat × Nat × Nat) :=
  ((List.range (teNmemb e)).filter fun m => s.isMember e m seg).map fun m => let r := s.memRec e m; (m, mrDev r, mrCore r)
/-- R51 of a route: 64 ports at most, and every member's device reachable. -/
def State.routeOk (s : State) (ms : List (Nat × Nat × Nat)) (r : List Placed) : Bool :=
  r.all (fun p => decide (p.kids.length ≤ 64)) && ms.all fun m => s.mine m.2.1 || s.map.peers.getLsbD m.2.1

/-! Seams installed (R52, R53). -/

/-- Device and place of a child of a route. -/
def State.kidAt (s : State) (e : BitVec 2048) (r : List Placed) (k : Nat) : Nat × Nat :=
  if k < 4096 then (mrDev (s.memRec e k), 0) else match r[k - 4096]? with | some q => (q.dev, q.place) | none => (0, 0)
/-- The seam of place i of a route, at the start of a segment. -/
def State.seamFor (s : State) (e : BitVec 2048) (part : Nat) (h : W32) (r : List Placed) (i : Nat) (p : Placed) (seg : Nat) : Seam :=
  let par : Option ((Nat × Nat) × Nat) := (parentOf r i).bind fun (x : Nat × Nat) => (r[x.1]?).map fun q => ((q.place, q.dev), x.2)
  ({ holdOnly part h p.place with
    idx := i, parent := par.map Prod.fst, pport := (par.map Prod.snd).getD 0, ports := p.kids
    kidAt := p.kids.map (s.kidAt e r), subs := p.kids.map (below r 6) }).fresh seg
/-- Every seam of a route that lies on this device, and the windows of every seam's children (R56). -/
def State.installSeams (s : State) (part : Nat) (h : W32) (r : List Placed) (f : Nat → Placed → Seam) : State :=
  (List.range r.length).foldl (fun s i =>
    match r[i]? with
    | some p =>
      let x := f i p
      x.ports.foldl (fun s k => s.setWin part h k x.seg (x.folded + placeW p.place)) (if s.mine p.dev then s.putSeam x else s)
    | none => s) s
/-- An entry's bytes. -/
def treeEntry (h kind op fmt rows flags nmemb root timeout nbuf memb route nseam edit save : Nat) : Nat :=
  h + 2 ^ 32 + 2 ^ 40 * kind + 2 ^ 48 * op + 2 ^ 56 * fmt + 2 ^ 64 * rows + 2 ^ 80 * flags + 2 ^ 96 * nmemb + 2 ^ 112 * root + 2 ^ 128 * timeout +
    2 ^ 160 * nbuf + 2 ^ 192 * memb + 2 ^ 256 * route + 2 ^ 320 * nseam + 2 ^ 352 * (2 ^ 32 - 1) + 2 ^ 384 * edit + 2 ^ 448 * save
/-- The member list copied with NEXTSEG zero. -/
def State.copyMembers (s : State) (src dst : Nat) : Nat → State
  | 0 => s
  | n + 1 => let s := s.copyMembers src dst n; s.putMem (dst + 32 * n) 32 (s.bytes (src + 32 * n) 28)
/-- The lowest FREE entry from 1 upward. -/
def State.freeTree (s : State) (part : Nat) : Option Nat :=
  (List.range (s.ttCount part)).find? fun i => i != 0 && teState (s.ttRow part i) == 0
/-- TREE.MAKE: status and handle. A member record that reads poison ends it UNCORR (R209). -/
def State.treeMake (s : State) (r : RunCmd) : State × Nat × Nat :=
  let part := treePart r
  let f (o n : Nat) : Nat := aF r o n
  let nm := f 0x1C 2
  let root := f 0x1E 2
  let flags := f 0x1A 2
  let scope := flags / 4 % 8
  let list := s.readSpan (devAddr (f 0x28 8)) (32 * min nm 4096)
  let recs := (List.range (min nm 4096)).map fun m => s.bytes (devAddr (f 0x28 8) + 32 * m) 32
  let ms := (List.range recs.length).map fun m => let x := recs.getD m 0; (m, mrDev x, mrCore x)
  let at' := ms.map (·.2)
  if [f 0x28 8, f 0x30 8, f 0x38 8, f 0x40 8, f 0x48 8].any (fun a => !(s.inHbm a)) ∨ treeLegal (f 0x11 1) (f 0x12 1) (f 0x13 1) (f 0x18 2) = false ∨
      nm = 0 ∨ 4096 < nm ∨ nm ≤ root ∨ coresOk at' = false ∨ f 0x20 4 < 1024 ∨ f 0x24 2 = 0 ∨ 256 < f 0x24 2 ∨ scope = 0 ∨ 5 < scope ∨
      scope < spanOf at' ∨ flags / 32 ≠ 0 ∨ recs.any (fun x => !(mrOk x)) = true ∨
      (f 0x11 1 ≠ 1 ∧ recs.all (fun x => mrFlags x % 2 == 0) = true) then (s, 0x10, 0)
  else if list.2 then (list.1, 0x08, 0)
  else
    let s := list.1
    let route := s.routeOf ms root
    if !(s.routeOk ms route) then (s, 0x12, 0)
    else match s.freeTree part with
      | none => (s, 0x11, 0)
      | some i =>
        if !(s.routeFits route) then (s, 0x11, 0)
        else
          let h := lnrF (s.ttRow part i) 0 4
          let w : W32 := BitVec.ofNat 32 h
          let s := s.copyMembers (devAddr (f 0x28 8)) (devAddr (f 0x30 8)) nm
          let s := (s.putRoute (devAddr (f 0x38 8)) route).putMem (devAddr (f 0x40 8)) 16 0
          let s := s.putMem (s.ttAt part i) 256 (treeEntry h (f 0x11 1) (f 0x12 1) (f 0x13 1) (f 0x18 2) flags nm root (f 0x20 4) (f 0x24 2)
            (devAddr (f 0x30 8)) (devAddr (f 0x38 8)) route.length (devAddr (f 0x40 8)) (devAddr (f 0x48 8)))
          let e := s.ttRow part i
          (s.installSeams part w route fun i p => s.seamFor e part w route i p 0, 0, h)

/-! Freezing and thawing (R62). -/

def State.treeFreeze (s : State) (part : Nat) (h : W32) : State :=
  let s := s.putTt part (hIdx h) 4 1 2
  (s.seamsOf part h).foldl (fun s x => s.putSeam { x with frozen := true, timer := if x.ph = .opened then x.timer - s.cycle else 0 }) s
/-- Whether nothing sent toward a seam of a tree is still on its way: no event, and no flit queued or not yet acknowledged (R62). -/
def State.treeQuiet (s : State) (part : Nat) (h : W32) : Bool :=
  let its (f : Flit) : Bool := f.part.toNat == part && hId f.word == hId h && (f.kind == 4 || f.kind == 5)
  let turn (t : Turn) : Bool := match t with
    | .event _ _ (.treeup _ f) => its f
    | .event _ _ (.treedown _ f) => its f
    | .event _ _ (.lateMark _ f) => its f
    | _ => false
  !(s.pend.any turn || s.agenda.any turn || s.flitOut its)
/-- A seam after the thaw: its timer runs on, its allowances stand again, rows that came meanwhile are folded. -/
def State.thawSeam (s : State) (x : Seam) : State :=
  let x := { x with frozen := false, timer := if x.ph = .opened then s.cycle + x.timer else 0 }
  let s := (s.putSeam x).extend x
  match x.ph with | .send => s.sendSeam x | .opened => s.foldSeam x | .idle => s
def State.treeThaw (s : State) (part : Nat) (h : W32) : State :=
  let s := s.putTt part (hIdx h) 4 1 1
  (s.seamsOf part h).foldl (fun s x => match s.seams.find (seamKey part h x.place) with | some x => if x.frozen then s.thawSeam x else s | none => s) s

/-! Saving (R62). -/

/-- Rows of a seam's record: header, partials, W slots a port. -/
def recLen (e : BitVec 2048) (p : Placed) : Nat := 1 + teP e + placeW p.place * p.kids.length
/-- Where the record of seam i begins in the save area, in rows. -/
def recAt (e : BitVec 2048) (r : List Placed) (i : Nat) : Nat := ((r.take i).map (recLen e)).foldl (· + ·) 0
/-- The ports that have completed every row of the segment. -/
def Seam.fullPorts (x : Seam) (e : BitVec 2048) : BitVec 64 :=
  match x.ph with
  | .opened => (x.expPorts.filter fun p => decide (teP e ≤ x.recv.getD p 0)).foldl (fun b p => b ||| BitVec.ofNat 64 (2 ^ p)) 0
  | _ => x.complete
/-- A header row. -/
def saveHeader (e : BitVec 2048) (x : Seam) : Row :=
  BitVec.ofNat 1024 (x.seg % 2 ^ 32 + 2 ^ 32 * x.folded + 2 ^ 48 * x.ports.length + 2 ^ 64 * x.expected.toNat + 2 ^ 128 * (x.fullPorts e).toNat +
    2 ^ 192 * (x.timer % 2 ^ 32) + 2 ^ 256 * packRegs 8 (fun p => x.recv.getD p 0) 64 + 2 ^ 768 * x.partPorts.toNat + 2 ^ 832 * x.tornPorts.toNat +
    2 ^ 896 * x.closed.toNat)
/-- Row j of a seam's staged rows: port-major, slot r mod W. -/
def savedSlot (x : Seam) (j : Nat) : Row :=
  let w := placeW x.place
  let p := j / w
  match (List.range w).find? fun d => (x.folded + d) % w == j % w with
  | some d => x.staged.get 0 (stKey p (x.folded + d))
  | none => 0
def State.saveSeam (s : State) (e : BitVec 2048) (a : Nat) (x : Seam) : State :=
  let s := s.putRow a (saveHeader e x).toNat false
  let s := s.putRows (a + 128) (fun j => (x.partials.get 0 j).toNat) (teP e)
  s.putRows (a + 128 * (1 + teP e)) (fun j => (savedSlot x j).toNat) (placeW x.place * x.ports.length)
/-- The root seam's current segment; of a root seam on another device it is free (log 20). -/
def State.rootSeg (s : State) (part : Nat) (h : W32) : Nat :=
  match (s.seamsOf part h).find? (·.parent.isNone) with
  | some x => x.seg
  | none => (Config.farRow h.toNat s.dev.fresh).toNat % 2 ^ 32
/-- TREE.SAVE: what another device's seam holds is free (log 20). -/
def State.treeSave (s : State) (part : Nat) (h : W32) (e : BitVec 2048) : State :=
  let r := s.treeRoute e
  let root := s.rootSeg part h
  let s := (List.range r.length).foldl (fun s i =>
    match r[i]? with
    | none => s
    | some p =>
      let a := teSave e + 128 * recAt e r i
      match (if s.mine p.dev then s.seams.find (seamKey part h p.place) else none) with
      | some x => s.saveSeam e a x
      | none => s.putRows a (fun j => (Config.farRow (a + 128 * j) s.dev.fresh).toNat) (recLen e p)) s
  let i := hIdx h
  ((((s.freed true).putTt part i 0x40 4 root).putTt part i 0x44 4 1).putTt part i 4 1 3).releaseTree part h

/-! Loading (R62). -/

/-- The rows received from a port by a saved header: its byte holds no 256, which a complete port shows (R62). -/
def savedRecv (e : BitVec 2048) (hd p : Nat) : Nat := if hd / 2 ^ (128 + p) % 2 = 1 then teP e else bitsOf hd (256 + 8 * p) 8
/-- The route check of TREE.LOAD: same shape, parents and ports, live routers, staging that holds what was staged. A record with a nonzero reserved
field, or a router that no device has, fails it (R6, R52). -/
def State.loadOk (s : State) (e : BitVec 2048) (base : Nat) (old new : List Placed) : Bool :=
  old.length == new.length && (List.range old.length).all fun i =>
    match old[i]?, new[i]? with
    | some p, some q =>
      let h := (s.rawRow (teSave e + 128 * recAt e old i)).toNat
      let was := s.seamRec (teRoute e) i
      let is' := s.seamRec base i
      p.kids == q.kids && bitsOf was 32 24 == bitsOf is' 32 24 && bitsOf is' 56 8 == 0 && bitsOf is' 96 32 == 0 && decide (q.dev < 64) &&
        decide (placeLevel q.place < 3) && decide (placeUnit q.place < (if placeLevel q.place = 0 then 512 else 8)) &&
        (if s.mine q.dev then !(s.placeDead q.place) else s.map.peers.getLsbD q.dev) &&
        (List.range p.kids.length).all fun k => decide (savedRecv e h k - bitsOf h 32 16 ≤ placeW q.place)
    | _, _ => false
/-- A seam from its record. The rows already forwarded in SEND are those its parent has received (DEDUCED, log 37). -/
def State.loadSeam (s : State) (part : Nat) (h : W32) (e : BitVec 2048) (old new : List Placed) (i : Nat) (q : Placed) : Seam :=
  let a := teSave e + 128 * recAt e old i
  let hd := (s.rawRow a).toNat
  let wOld := match old[i]? with | some p => placeW p.place | none => 2
  let n := q.kids.length
  let x := s.seamFor e part h new i q (bitsOf hd 0 32)
  let folded := bitsOf hd 32 16
  let recv := (List.range 64).map fun p => savedRecv e hd p
  let expected := BitVec.ofNat 64 (bitsOf hd 64 64)
  let staged : AMap Row := (List.range n).foldl (fun m p => (List.range (recv.getD p 0 - folded)).foldl (fun m d =>
    m.put (stKey p (folded + d)) (s.rawRow (a + 128 * (1 + teP e + p * wOld + (folded + d) % wOld)))) m) []
  let sent := match x.parent, (parentOf new i) with
    | some _, some (j, k) =>
      let ph := (s.rawRow (teSave e + 128 * recAt e old j)).toNat
      if bitsOf ph 0 32 = bitsOf hd 0 32 then savedRecv e ph k else 0
    | _, _ => 0
  let closed := BitVec.ofNat 64 (bitsOf hd 896 64)
  { x with
      ph := if teP e ≤ folded then .send else if expected = 0 then .idle else .opened
      frozen := true, expected := expected, complete := BitVec.ofNat 64 (bitsOf hd 128 64), recv := recv, folded := folded
      partials := (List.range folded).foldl (fun m j => m.put j (s.rawRow (a + 128 * (1 + j)))) [], staged := staged
      timer := bitsOf hd 192 32, partPorts := BitVec.ofNat 64 (bitsOf hd 768 64), tornPorts := BitVec.ofNat 64 (bitsOf hd 832 64)
      closed := closed, sent := sent
      isPart := bitsOf hd 768 64 != 0 || closed != 0
      isTorn := bitsOf hd 832 64 != 0 || (List.range n).any fun p => closed.getLsbD p && recv.getD p 0 != 0 && decide (recv.getD p 0 < teP e) }
/-- The seams of a loaded tree whose segment is under way take slots; one that finds none waits (R53, R54). -/
def State.takeSlots (s : State) (part : Nat) (h : W32) : State :=
  (s.seamsOf part h).foldl (fun s x =>
    if x.idleNow then s else match s.claimSlot x.place with | some s => s.putSeam { x with slot := true, used := s.cycle } | none => s) s

/-! Edits (R63). -/

/-- A new route's seams numbered: a seam that keeps its router keeps its index, others follow (DESIGN CHOICE, log 38). -/
def renumber (old new : List Placed) : List Placed :=
  let same (p q : Placed) : Bool := p.dev == q.dev && p.place == q.place && !p.kids.isEmpty
  let added := new.filter fun q => !(old.any (same q))
  let idx (q : Placed) : Nat := match old.findIdx? (same q) with | some i => i | none => old.length + (added.findIdx? (same q)).getD 0
  let key (k : Nat) : Nat := if k < 4096 then k else match new[k - 4096]? with | some q => 4096 + idx q | none => k
  let kids (q : Placed) : List Nat := sortKeys (q.kids.map key)
  (old.map fun p => match new.find? (same p) with | some q => { p with kids := kids q } | none => { p with kids := [] }) ++
    added.map fun q => { q with kids := kids q }
/-- The route for the membership of a segment put in place, to be used from that segment on. -/
def State.reroute (s : State) (part : Nat) (h : W32) (e : BitVec 2048) (seg : Nat) : State :=
  let old := s.treeRoute e
  let r := renumber old ((s.dropTree part h).routeOf (s.membersAt e seg) (teRoot e))
  let s := (s.putRoute (teRoute e) r).putTt part (hIdx h) 0x28 4 r.length
  let s := (List.range r.length).foldl (fun s i =>
    match r[i]? with
    | none => s
    | some p =>
      if !(s.mine p.dev) then s
      else
        let y := s.seamFor e part h r i p seg
        let n : Option SeamNext := if p.kids.isEmpty then none else some ⟨i, p.kids, y.kidAt, y.subs, y.parent, y.pport⟩
        match s.seams.find (seamKey part h p.place) with
        | some x => s.putSeam { x with next := some n }
        | none => match n with
          | some n => s.putSeam { (holdOnly part h p.place).fresh (seg + 2 ^ 32 - 1) with next := some (some n) }
          | none => s) s
  s.openPending part h
/-- What the rows kept of a segment give for one row, from some ports. -/
def Seam.again (x : Seam) (e : BitVec 2048) (ports : BitVec 64) (seg row : Nat) : Row :=
  foldRows e ((List.range x.ports.length).filterMap fun p => if ports.getLsbD p then x.recs.find (recKey seg p row) else none)
/-- A seam after a removal that applies from a segment on: the rows of ports no longer expected go, what has been folded with them is folded again
without them, and the parent's rows follow (R63). -/
def State.rework (s : State) (part : Nat) (h : W32) (seg place : Nat) : State :=
  match s.seams.find (seamKey part h place) with
  | none => s
  | some x =>
    let e := s.seamEnt x
    let cut (g : Nat) : Bool := !(segLt g seg)
    let x := { x with recs := x.recs.filter fun r => !(cut (recSeg r.1)) || (s.expectedAt x (recSeg r.1)).getLsbD (r.1 / 256 % 64) }
    let exp := x.expected &&& s.expectedAt x x.seg
    let x := if cut x.seg = false ∨ x.ph = .idle then x
      else if exp = 0 then x.fresh x.seg
      else { x with
        expected := exp, complete := x.complete &&& exp, partPorts := x.partPorts &&& exp, tornPorts := x.tornPorts &&& exp
        recv := (List.range 64).map fun p => if exp.getLsbD p then x.recv.getD p 0 else 0
        partials := (List.range x.folded).foldl (fun m j => m.put j (x.again e exp x.seg j)) []
        staged := x.staged.filter fun r => exp.getLsbD (r.1 / 256) }
    let s := s.putSeam x
    match x.parent.bind fun q => if s.mine q.2 then s.seams.find (seamKey part h q.1) else none with
    | none => s
    | some y =>
      let redo (g row : Nat) (v : Row) : Row := if cut g then x.again e (s.expectedAt x g) g row else v
      s.putSeam { y with
        recs := y.recs.map fun r => (r.1, if r.1 / 256 % 64 = x.pport then redo (recSeg r.1) (r.1 % 256) r.2 else r.2)
        staged := y.staged.map fun r => (r.1, if r.1 / 256 = x.pport then redo y.seg (r.1 % 256) r.2 else r.2) }
/-- A member's contributions from a segment on discarded: its posts complete REMOVED, and what waited for it goes on (R63). -/
def State.retract (s : State) (part : Nat) (h : W32) (m seg : Nat) : State :=
  let places := (s.seamsOf part h).map (·.place)
  let order := ([0, 1, 2, 3].map fun l => places.filter fun p => placeLevel p + p / 2 ^ 16 == l).flatten
  let s := order.foldl (fun s p => s.rework part h seg p) s
  let s := s.posted.foldl (fun s p =>
    if p.part = part ∧ p.handle = h ∧ p.member = m ∧ segLt p.seg seg = false then s.notify part h m p.seg 2 else s) s
  order.foldl (fun s p => match s.seams.find (seamKey part h p) with
    | some x => if x.ph = .opened then s.foldSeam x else s
    | none => s) s
/-- The segment from which an edit applies. -/
def State.effectSeg (s : State) (part : Nat) (h : W32) (e : BitVec 2048) : Nat :=
  if teEditSeg e ≠ 2 ^ 32 - 1 then teEditSeg e
  else ((if teState e = 3 then lnrF e 0x40 4 else s.rootSeg part h) + 1) % 2 ^ 32
/-- An edit appended to the queued-edit list (log 33). -/
def State.addEdit (s : State) (e : BitVec 2048) (m : Nat) (remove : Bool) (seg : Nat) : State :=
  let k := (s.edits e).length
  let s := s.putMem (teEdit e + 16 * k) 16 (m + (if remove then 2 ^ 16 else 0) + 2 ^ 32 * seg + 2 ^ 64 * (k + 1))
  s.putMem (teEdit e + 16 * (k + 1)) 16 0
/-- TREE.EDIT in a legal state. -/
def State.treeEdit (s : State) (r : RunCmd) (part : Nat) (h : W32) (e : BitVec 2048) : State × Nat × Nat :=
  let i := hIdx h
  let seg := s.effectSeg part h e
  if aF r 0x11 1 = 1 then
    let m := aF r 0x18 2
    if teNmemb e ≤ m ∨ m = teRoot e ∨ s.isMember e m seg = false then (s, 0x10, 0)
    else
      let s := (s.addEdit e m true seg).putTt part i 0x2C 4 seg
      let f := teMembase e + 32 * m + 0x1B
      ((s.putMem f 1 (orN (s.bytes f 1) 4)).retract part h m seg, 0, seg)
  else
    let rd := s.readSpan (devAddr (aF r 0x20 8)) 32
    let rec' := s.bytes (devAddr (aF r 0x20 8)) 32
    let m := teNmemb e
    let ms := s.membersAt e seg ++ [(m, mrDev rec', mrCore rec')]
    let at' := ms.map (·.2)
    if s.inHbm (aF r 0x20 8) = false ∨ mrOk rec' = false ∨ 4096 ≤ m ∨ coresOk at' = false ∨ bitsOf (lnrF e 0x0A 2) 2 3 < spanOf at' then (s, 0x10, 0)
    else if rd.2 then (rd.1, 0x08, 0)
    else
      let s := rd.1
      let route := (s.dropTree part h).routeOf ms (teRoot e)
      if !(s.routeOk ms route) then (s, 0x12, 0)
      else if !((s.dropTree part h).routeFits route) then (s, 0x11, 0)
      else
        let s := (s.putMem (teMembase e + 32 * m) 32 (rec' % 2 ^ 224)).setNext e m seg
        let s := ((s.putTt part i 0x0C 2 (m + 1)).addEdit e m false seg).putTt part i 0x2C 4 seg
        (if teState e = 3 then s else s.reroute part h (s.ttRow part i) seg, 0, seg)
/-- TREE.LOAD in a legal state. Additions queued while the tree was saved get their route now. The staging that a BROKEN tree still holds counts as
free for its own route (DESIGN CHOICE, log 125). -/
def State.treeLoad (s : State) (r : RunCmd) (part : Nat) (h : W32) (e : BitVec 2048) : State × Nat × Nat :=
  let old := s.treeRoute e
  let base := devAddr (aF r 0x18 8)
  let new := s.getRoute e base (teNseam e)
  if s.inHbm (aF r 0x18 8) = false then (s, 0x10, 0)
  else if !(s.loadOk e base old new) then (s, 0x12, 0)
  else if !((s.dropTree part h).routeFits new) then (s, 0x11, 0)
  else
    let i := hIdx h
    let t := ((s.dropTree part h).putTt part i 0x20 8 base).putTt part i 4 1 2
    let t := (t.installSeams part h new fun k q => s.loadSeam part h e old new k q).takeSlots part h
    let e' := t.ttRow part i
    (if teEditSeg e' ≠ 2 ^ 32 - 1 ∧ (s.edits e).any (fun d => !d.2.1 && d.2.2 == teEditSeg e') = true then t.reroute part h e' (teEditSeg e') else t, 0, 0)

/-! The commands (R62, R368). -/

/-- A tree command carried out: state, status, COUNT. -/
def State.treeCmd (s : State) (core : Nat) (r : RunCmd) : State × Nat × Nat :=
  let part := treePart r
  let h := treeHandle r
  if r.c.op = 0x0C then s.treeMake r
  else
    match s.entryFor part h with
    | none => (s, 0x14, 0)
    | some e =>
      let st := teState e
      match r.c.op with
      | 0x0D =>
        if st = 0 then (s, 0x13, 0)
        else
          let s := (s.endPosts part h 3).releaseTree part h
          ((s.putTt part (hIdx h) 0 4 (nextHandle h.toNat)).putTt part (hIdx h) 4 1 0, 0, 0)
      | 0x0E => if st = 1 then (s.treeFreeze part h, 0, 0) else (s, 0x13, 0)
      | 0x0F => if st = 2 then let t := s.treeSave part h e; (t, 0, lnrF (t.ttRow part (hIdx h)) 0x40 4) else (s, 0x13, 0)
      | 0x10 => if (st = 3 ∨ st = 4) ∧ lnrF e 0x44 4 = 1 then s.treeLoad r part h e else (s, 0x13, 0)
      | 0x11 => if st = 1 ∨ st = 2 ∨ st = 3 then s.treeEdit r part h e else (s, 0x13, 0)
      | 0x12 => if st = 2 then (s.treeThaw part h, 0, 0) else (s, 0x13, 0)
      | _ =>
        let row := aF r 0x18 2
        (s.putRows (spAddr core row) (fun k => (if k = 0 then e.toNat % 2 ^ 1024 else e.toNat / 2 ^ 1024)) 1 |>.putRow (spAddr core (row + 1)) (e.toNat / 2 ^ 1024) false, 0, st)

end Sys2Proof.Machine
end

