-- ==== Sys2Proof/Machine/Wplan.lean ====
section
/-! DEFINITION. Wavelength plans: the check of an image, the drain, dark and relock steps, and queued traffic across them (R30 to R33,
R37, R80, R393). -/

namespace Sys2Proof.Machine

/-- Slot bytes from a number, n of them. -/
def planBytes (x : Nat) : Nat → AMap Byte
  | 0 => []
  | n + 1 => (planBytes x n).put n (BitVec.ofNat 8 (x / 2 ^ (8 * n)))
/-- One half of a plan (R31): no reserved bit, no lit channel 0, no channel twice on a fibre. -/
def planHalfOk (m : AMap Byte) : Bool :=
  let b (i : Nat) : Byte := m.get 0 i
  (List.range 256).all fun i =>
    !((b i).getLsbD 6) && (!(slotLit (b i)) || slotChan (b i) != 0) &&
      (List.range 8).all fun w => let j := i / 8 * 8 + w; i == j || !(slotLit (b i)) || !(slotLit (b j)) || slotChan (b i) != slotChan (b j)
/-- The check of a plan image of 640 B (R30, R31). -/
def planOk (x : Nat) : Bool :=
  let crc := bitsOf x 64 32
  let zeroed := x - crc * 2 ^ 64
  (crc32c zeroed 640).toNat == crc && bitsOf x 96 928 == 0 &&
    planHalfOk (planBytes (bitsOf x 1024 2048) 256) && planHalfOk (planBytes (bitsOf x 3072 2048) 256)

/-- WPLANST (R367). -/
def State.setWplanst (s : State) (id : W64) (st : Nat) : State := s.setReg 0x303 (BitVec.ofNat 64 (id.toNat % 2 ^ 56 * 256 + st))

/-- Every locked transmit slot drains behind a marker (R33, R393). -/
def State.drainAll (s : State) : State :=
  ((List.range 256).filter fun i => (s.tx i).locked).foldl (fun s i => s.sendMarker i true) s
/-- A plan image as read: refused, or its drain step begins. -/
def State.wplanGot (s : State) (core : Nat) (r : RunCmd) (x : Nat) (bad : Bool) : State × RunCmd :=
  let id := BitVec.ofNat 64 x
  if bad then (s, { r with status := some 0x08 })
  else if !(planOk x) then (s.setWplanst id 5, { r with status := some 0x18 })
  else
    let s := (s.setWplanst id 1).drainAll
    ({ s with wp := some ⟨core, false, false, false, id, planBytes (bitsOf x 1024 2048) 256, planBytes (bitsOf x 3072 2048) 256, []⟩ },
      { r with prog := 1 })
/-- A WPLAN at acceptance (R31, R33): BUSY, a refused image, or the drain step with a retune marker on every locked slot. -/
def State.wplanStart (s : State) (core : Nat) (r : RunCmd) : State × RunCmd :=
  if s.wp.isSome then (s, { r with status := some 0x19 })
  else
    let base := devAddr (aF r 0x10 8) / 128 * 128
    let d := s.engReads ((List.range 5).map fun k => s.here (base + 128 * k))
    d.1.wplanGot core r (packRegs 1024 (fun i => (d.2.1.getD i 0).toNat) 5) d.2.2

/-- Whether a fibre of a plan half changes. -/
def fibreChanges (a b : AMap Byte) (f : Nat) : Bool := (List.range 8).any fun w => a.get 0 (8 * f + w) != b.get 0 (8 * f + w)
/-- Whether the drain step may end (R393): transmit slots drained, no marker unanswered, latches set or the wait for them over. -/
def State.drainOver (s : State) (w : WpRun) : Bool :=
  (List.range 256).all fun i =>
    (!(s.tx i).locked || (s.tx i).drained) && (s.rx i).marker.isEmpty &&
      (w.timeout || s.planRx.get 0 i == w.rx.get 0 i || (s.rx i).latch)
/-- The dark step: the slots of fibres that change go dark. -/
def State.goDark (s : State) (w : WpRun) : State :=
  let s := (List.range 256).foldl (fun s i =>
    let s := if fibreChanges s.planTx w.tx (i / 8) then s.setTx i { s.tx i with locked := false } else s
    if fibreChanges s.planRx w.rx (i / 8) then s.setRx i { s.rx i with locked := false } else s) s
  { s with wp := some { w with dark := true } }.setWplanst w.planId 2
/-- WPLAN_DRAIN_DONE (R393). -/
def execWplanDrainDone (s : State) : Host.Outcome State Fault Refusal :=
  match s.wp with
  | none => .next s
  | some w => .next (if w.dark = false ∧ s.drainOver w = true then s.goDark w else s)
/-- RETUNE_LATCH_TIMEOUT: 2,100,000 cycles after the drain step began (R393). -/
def execRetuneLatchTimeout (s : State) : Host.Outcome State Fault Refusal :=
  match s.wp with
  | none => .next s
  | some w => .next (if w.dark then s else { s with wp := some { w with timeout := true } })

/-- Whether every lit slot of the new plan has locked. -/
def State.allLocked (s : State) (w : WpRun) : Bool :=
  (List.range 256).all fun i =>
    (!(slotLit (w.tx.get 0 i)) || (s.tx i).locked) && (!(slotLit (w.rx.get 0 i)) || (s.rx i).locked)
/-- The map event that ends the relock, once every lit slot has locked. -/
def State.relockOver (s : State) (w : WpRun) : State := if s.allLocked w then s.post 0 0 (.mapEvent .planLoaded) else s
/-- DARK_INTERVAL_END: the lit slots start to train (R33). -/
def execDarkIntervalEnd (s : State) : Host.Outcome State Fault Refusal :=
  match s.wp with
  | none => .next s
  | some w =>
    if w.dark = false ∨ w.relock = true then .next s
    else
      let w := { w with relock := true }
      .next (({ s with wp := some w }.setWplanst w.planId 3).relockOver w)
/-- RELOCK_TIMEOUT: slots not yet locked are left so (R33). -/
def execRelockTimeout (s : State) : Host.Outcome State Fault Refusal :=
  match s.wp with
  | none => .next s
  | some w => .next (if w.relock then s.post 0 0 (.mapEvent .planLoaded) else s)

/-- A transmit slot locks. A changed slot takes the allowances of the handshake, an unchanged one keeps its own (R80); the counts for
drain markers of a changed slot start anew at both ends (DEDUCED, log 39). -/
def State.lockTx (s : State) (i : Nat) (changed : Bool) (allow : List Nat) : State :=
  let t := s.tx i
  s.setTx i (if changed then { t with
      locked := true, allow := (List.range 6).map fun v => min 64 (allow.getD v 0), since := [0, 0, 0, 0, 0, 0], await := none, fails := 0, owed := 0 }
    else { t with locked := true })
/-- A receive slot locks; the buffers a changed one freed are in its handshake's allowances. -/
def State.lockRx (s : State) (i : Nat) (changed : Bool) : State :=
  let r := s.rx i
  s.setRx i (if changed then { r with locked := true, freed := [0, 0, 0, 0, 0, 0], accepted := [0, 0, 0, 0, 0, 0], marker := [], naks := 0 }
    else { r with locked := true })
/-- SLOT_LOCK (R32, R80): `slot` below 256 is a transmit slot, 256 + i receive slot i (log 40). During a relock a lit slot of the new plan
locks, and with the last of them the relock is over. -/
def execSlotLock (slot : Nat) (allow : List Nat) (s : State) : Host.Outcome State Fault Refusal :=
  match s.wp with
  | none => .next s
  | some w =>
    let i := slot % 256
    if w.relock = false then .next s
    else if slot < 256 then
      if slotLit (w.tx.get 0 i) ∧ (s.tx i).locked = false then
        .next ((s.lockTx i (s.planTx.get 0 i != w.tx.get 0 i) allow).relockOver w)
      else .next s
    else if slotLit (w.rx.get 0 i) ∧ (s.rx i).locked = false then
      .next ((s.lockRx i (s.planRx.get 0 i != w.rx.get 0 i)).relockOver w)
    else .next s

/-! Queued traffic (R37, R80). -/

/-- A queued flit chooses its slot again: its peer's list as it stands, or a discard. -/
def State.chooseAgain (s : State) (peer : Nat) (f : Flit) : Option Nat := s.slotFor (dieOfCore f.srcCore.toNat) peer f
/-- The flits that wait, each with its peer: those that stood in the transmit queues when the plan's run began, then those queued since, in the order in
which they were queued (R80). Control flits stay with their slots (DEDUCED, log 98). -/
def State.queuedTx (s : State) : List (Nat × Flit) :=
  ((List.range 256).flatMap fun i => ((s.tx i).q.filter (·.vc != 4)).map fun f => (s.txPeer i, f)) ++
    (match s.wp with | some w => w.held | none => [])
def State.clearTxQueues (s : State) : State :=
  (List.range 256).foldl (fun s i => s.setTx i { s.tx i with q := (s.tx i).q.filter (·.vc == 4) }) s
/-- The slots that flits on links go to, chosen again; the peers by slot are those of before. Flits on their way to a home die go on. -/
def State.relink (s : State) (peer : Nat → Nat) : State :=
  s.links.foldl (fun s l =>
    let again (f : Flit × Nat) : Option Nat := if 256 ≤ f.2 then some f.2 else s.chooseAgain (peer f.2) f.1
    let keep := l.2.q.filterMap fun f => (again f).map fun i => (f.1, i)
    let gone := l.2.q.filter fun f => (again f).isNone
    gone.foldl (fun s f => s.discard f.1) { s with links := s.links.put l.1 { l.2 with q := keep } }) s
/-- The new plan in force, and every queued flit checked and queued again in the order of the queues (R33, R80). -/
def State.installPlan (s : State) (w : WpRun) : State :=
  { s with planTx := w.tx, planRx := w.rx, wp := none, rxs := mapVals (fun r => { r with latch := false }) s.rxs }.setWplanst w.planId 4
def State.requeueAll (s : State) (queued : List (Nat × Flit)) (peer : Nat → Nat) : State :=
  queued.foldl (fun s x => match s.chooseAgain x.1 x.2 with | some i => s.toSlot i x.2 | none => s.discard x.2) (s.relink peer)
/-- The flits that a running WPLAN holds, without those whose peer cannot be reached any more. -/
def State.checkHeld (s : State) : State :=
  match s.wp with
  | none => s
  | some w =>
    let up (x : Nat × Flit) : Bool := s.map.peers.getLsbD x.1
    (w.held.filter fun x => !(up x)).foldl (fun s x => s.discard x.2) { s with wp := some { w with held := w.held.filter up } }
/-- Every queued flit checked against a newly published map: one whose peer cannot be reached any more is discarded (R37). -/
def State.checkQueued (s : State) : State :=
  let s := s.checkHeld
  let up (i : Nat) : Bool := decide (256 ≤ i) || s.map.peers.getLsbD (s.txPeer i)
  let s := (List.range 256).foldl (fun s i =>
    if up i ∨ (s.tx i).q = [] then s
    else let q := (s.tx i).q; q.foldl State.discard (s.setTx i { s.tx i with q := [] })) s
  s.links.foldl (fun s l =>
    let gone := l.2.q.filter fun f => !(up f.2)
    if gone.isEmpty then s
    else gone.foldl (fun s f => s.discard f.1) { s with links := s.links.put l.1 { l.2 with q := l.2.q.filter fun f => up f.2 } }) s

end Sys2Proof.Machine
end

