-- ==== Sys2Proof/Machine/Recovery.lean ====
section
/-! DEFINITION. Step records read back, and parity groups (R224 to R229). -/

namespace Sys2Proof.Machine

/-! Reconciliation (R225). -/

/-- RECCTL with a status and NSKEW, idle. -/
def State.setRecctl (s : State) (st skew : Nat) : State := s.setReg 0x337 (BitVec.ofNat 64 (skew % 2 ^ 13 + 2 ^ 48 * st))
/-- Stream n's entry from slot n of a step record: KEY, CTR, DPC, CURSOR, VALID; BOUND clear. A tied stream whose counter is not the start of its
cursor's step has SKEW set, and is added to the list with the counter it is to take (R224, R225). -/
def State.putStream (s : State) (x : Nat) (skews : List (Nat × W64)) (n : Nat) : State × List (Nat × W64) :=
  let slot := bitsOf x (4096 + 256 * n) 256
  let dpc := bitsOf slot 128 32
  let want := 8 * dpc * bitsOf x (1536 + 64 * (bitsOf slot 160 8 % 16)) 64 % 2 ^ 64
  let skew := dpc != 0 && bitsOf slot 64 64 != want
  let flags := bitsOf slot 168 8 % 2 + (if skew then 2 else 0) + bitsOf slot 168 8 / 8 * 8
  ((s.putMem (s.strEntry n) 21 slot).putMem (s.strEntry n + 0x15) 1 flags, if skew then skews ++ [(n, BitVec.ofNat 64 want)] else skews)
/-- The second pass on one skewed stream: CTR is set, at the binding core if the stream has been bound meanwhile, and SKEW clears, in RNGSEL with
it (R225). -/
def State.unskew (s : State) (p : Nat × W64) : State :=
  let e := s.strEntry p.1
  let fl := s.bytes (e + 0x15) 1
  let own (c : Ctx) : Bool := bit c.csr.rngsel 63 && fld c.csr.rngsel 0 12 == p.1
  let s := (if s.ctxs.any fun c => own c.2 && !c.2.rngWait then s else s.putMem (e + 8) 8 p.2.toNat).putMem (e + 0x15) 1 (fl % 2 + fl / 4 * 4)
  { s with ctxs := mapVals (fun c => if own c then
      { c with rngCtr := if c.rngWait then c.rngCtr else p.2, csr := { c.csr with rngsel := setFld c.csr.rngsel 62 1 0 } } else c) s.ctxs }
/-- A cursor word stored through VIEW 0; another device's by an exchange at its home engine (log 41). -/
def State.putCursor (s : State) (a v : W64) : State :=
  let plain := setFld a 56 2 0
  if s.mine (devOf a) then s.syStore (localOf plain) v
  else s.sendCtl (syDie (localOf a)) (devOf a)
    (s.flit 3 2 0 0 0 (plain &&& ~~~127) 0 1 false (atomRow 9 (fld a 3 4) v.toNat 0 true false 1) 0)
/-- The first pass over a step record that may be reconciled: the stream entries and the cursor words. With no stream skewed it is the last. -/
def State.reconcile (s : State) (x n : Nat) : State :=
  let r := (List.range n).foldl (fun (a : State × List (Nat × W64)) k => a.1.putStream x a.2 k) (s, [])
  let s := (List.range (min 16 (bitsOf x 192 16))).foldl (fun s k =>
    s.putCursor (BitVec.ofNat 64 (bitsOf x (512 + 64 * k) 64)) (BitVec.ofNat 64 (bitsOf x (1536 + 64 * k) 64))) r.1
  if r.2.isEmpty then s.setRecctl 0 0
  else { s with dev := { s.dev with recon := r.2 } }.setReg 0x337 (setFld (s.reg 0x337) 0 13 r.2.length)
/-- RECCTL_GO, which a write of GO with BUSY clear brings about: the record is refused whole, or its first pass takes place; while streams are
skewed such an event is the second pass, with which BUSY clears (R225). -/
def execRecctlGo (s : State) : Host.Outcome State Fault Refusal :=
  let n := fld (s.reg 0x332) 0 13
  let base := localOf (s.reg 0x336) / 128 * 128
  let bytes := 512 + 32 * n
  if s.dev.recon.isEmpty then
    let d := s.engReads ((List.range ((bytes + 127) / 128)).map fun k => s.here (base + 128 * k))
    let x := packRegs 1024 (fun i => (d.2.1.getD i 0).toNat) d.2.1.length % 2 ^ (8 * bytes)
    let crc := bitsOf x 256 32
    .next (
      if d.2.2 ∨ bitsOf x 224 32 ≠ n ∨ (crc32c (x - crc * 2 ^ 256) bytes).toNat ≠ crc then d.1.setRecctl 2 0
      else if (List.range n).any (fun k => d.1.bytes (d.1.strEntry k + 0x15) 1 / 4 % 2 == 1) then d.1.setRecctl 3 0
      else d.1.reconcile x n)
  else .next ({ (s.dev.recon.foldl State.unskew s) with dev := { s.dev with recon := [] } }.setRecctl 1 s.dev.recon.length)

/-! Parity groups (R226 to R229). -/

def State.pgAt (s : State) (g : Nat) : Nat := s.baseAt 0x338 12 + 128 * g
def State.pgCount (s : State) : Nat := let l := fld (s.reg 0x338) 0 5; if l = 0 then 0 else 2 ^ l
/-- Field of a group's entry: n bytes at an offset. -/
def State.pgF (s : State) (g off n : Nat) : Nat := s.bytes (s.pgAt g + off) n
def State.setPg (s : State) (g off n v : Nat) : State := s.putMem (s.pgAt g + off) n v
def State.pgMemb (s : State) (g i : Nat) : W64 := BitVec.ofNat 64 (s.pgF g (0x10 + 8 * i) 8)
/-- PGCTL's STATUS (DEDUCED, log 94). -/
def State.setPgctl (s : State) (st : Nat) : State := s.setReg 0x33A (setFld (s.reg 0x33A) 8 8 st)
/-- PGCTL's operation has been checked. -/
def State.pgChecked (s : State) : State := s.setReg 0x33A (setFld (s.reg 0x33A) 63 1 0)
/-- The first spare of a group whose device is reachable. -/
def State.pgSpare (s : State) (g : Nat) : Option Nat :=
  (List.range 3).find? fun j => let a : W64 := BitVec.ofNat 64 (s.pgF g (0x50 + 8 * j) 8); a != 0 && s.reach a

/-- The extents of a record's ranges as its die would translate them now; none where a walk fails. -/
def State.extsNow (s : State) (die part : Nat) (r : Row) : List Extent := match (s.extentsOf die part r).2 with | .ok es => es | .error _ => []
/-- The commands with a task, running or saved, an engine command or a waiting entry whose extents meet a shard of a group. -/
def State.pgCmds (s : State) (g : Nat) : List Nat :=
  let len := 128 * s.pgF g 8 8
  let meets (e : Extent) : Bool := e.valid && (List.range 8).any fun i =>
    let b := (s.pgMemb g i).toNat
    decide (e.base.toNat < b + len) && decide (b < e.base.toNat + 128 * e.len)
  let running := s.ctxs.filterMap fun c => match c.2.task with | some t => if c.2.ext.any meets then some t.cmd else none | none => none
  let waiting := s.entries.filterMap fun e =>
    let es := if e.2.ext.isEmpty then s.extsNow (s.dieOfEntry e.2) (s.partOf e.2.group) e.2.trec else e.2.ext
    if es.any meets then (s.groups.find e.2.group).map (·.cmd) else none
  let saved := s.saves.filterMap fun v => if v.2.ext.any meets then some v.2.task.cmd else none
  let engs := (s.ctxs.flatMap fun c => c.2.engs) ++ s.cores.flatMap fun k => k.2.running.map (·.c) ++ k.2.prio
  (running ++ waiting ++ saved ++ (engs.filter fun c => c.ext.any meets).map (·.cmd)).eraseDups
/-- A group LOST: commands on its tensors complete GROUPLOST (R97, R229). -/
def State.pgLost (s : State) (g : Nat) : State :=
  let cmds := s.pgCmds g
  let s := s.setPg g 4 1 4
  cmds.foldl (fun s k => (s.endTasks k).finishCmd k 8) { s with dev := { s.dev with fills := s.dev.fills.del g } }
/-- The progress of a fill: its rows so far, also FILLROW (R228). -/
def State.setFill (s : State) (g : Nat) (f : Fill) : State :=
  { s with dev := { s.dev with fills := s.dev.fills.put g f } }.setPg g 0x78 4 (f.row % 2 ^ 32)
/-- The fill of a group onto spare j from row 0, on the members as they are now (R228, R229). -/
def State.fillFrom0 (s : State) (g j : Nat) : State := s.setFill g ⟨j, (List.range 8).map (s.pgMemb g), 0⟩
/-- A fill put on a spare, from row 0; with no spare reachable the group is LOST (R228). -/
def State.pgFill (s : State) (g : Nat) : State :=
  match s.pgSpare g with
  | some j => s.fillFrom0 g j
  | none => (s.pgLost g).setPgctl 3

/-- SEAL, PGCTL OP 1 on PGARG's group (R227). -/
def execSeal (s : State) : Host.Outcome State Fault Refusal :=
  let g := fld (s.reg 0x339) 0 32
  let s := s.pgChecked
  .next (if s.pgCount ≤ g ∨ s.pgF g 4 1 ≠ 1 then s.setPgctl 1 else (s.setPg g 4 1 2).setPgctl 0)
/-- LOST, PGCTL OP 2: a fill of a CLEAN group starts, a SEALING group is LOST (R227, R228). -/
def execLost (s : State) : Host.Outcome State Fault Refusal :=
  let g := fld (s.reg 0x339) 0 32
  let s := s.pgChecked
  .next (
    if s.pgCount ≤ g then s.setPgctl 1
    else
      match s.pgF g 4 1 with
      | 1 => ((((s.setPg g 5 1 (fld (s.reg 0x339) 32 3)).setPg g 0x68 8 (s.reg 0x302).toNat).setPg g 4 1 3).setPgctl 0).pgFill g
      | 2 => (s.pgLost g).setPgctl 2
      | _ => s.setPgctl 1)

/-- Row r rebuilt as the XOR of that row of some members: data and poison. -/
def State.pgXor (s : State) (g r : Nat) : List Nat → State × Row × Bool
  | [] => (s, 0, false)
  | i :: is =>
    let d := s.engRead (s.pgMemb g i + BitVec.ofNat 64 (128 * r))
    let t := d.1.pgXor g r is
    (t.1, d.2.1 ^^^ t.2.1, d.2.2 || t.2.2)
/-- A rebuilt row stored, poison with it; toward another device it leaves the keeper as a WRITE. -/
def State.pgPut (s : State) (x : W64) (row : Row) (poison : Bool) : State :=
  if s.mine (devOf x) then s.storeLocal (localOf x) row fullMask poison
  else s.sendCtl 0 (devOf x) (s.flit 0 0 0 0 0 x 0 1 false row 0)
/-- Rows of a shard rebuilt at an address, ascending from row k. -/
def State.pgRows (s : State) (g : Nat) (dst : W64) (members : List Nat) (k : Nat) : Nat → State
  | 0 => s
  | n + 1 =>
    let s := s.pgRows g dst members k n
    let d := s.pgXor g (k + n) members
    d.1.pgPut (dst + BitVec.ofNat 64 (128 * (k + n))) d.2.1 d.2.2

/-- SEAL_COMPLETE: every parity row recomputed, STEP written, the group CLEAN again (R227). `unit`: the group. Where STEP comes from is not
stated: a free value (log 10). -/
def execSealComplete (s : State) : Host.Outcome State Fault Refusal :=
  let g := s.unit
  .next (
    if s.pgCount ≤ g ∨ s.pgF g 4 1 ≠ 2 then s
    else
      let s := s.pgRows g (s.pgMemb g 7) (List.range 7) 0 (s.pgF g 8 8)
      let f := s.freshWord
      (f.1.setPg g 0x70 8 f.2.toNat).setPg g 4 1 1)
/-- Whether the address of a survivor's shard is another than the fill's rows were rebuilt from (R229). -/
def State.pgMoved (s : State) (g : Nat) (f : Fill) : Bool :=
  (List.range 8).any fun i => i != s.pgF g 5 1 && s.pgMemb g i != f.memb.getD i 0
/-- The end of a fill: the spare stands in the missing member's place, and the group is CLEAN again (R228). -/
def State.fillEnd (s : State) (g : Nat) (f : Fill) : State :=
  let s := (s.setPg g (0x10 + 8 * (s.pgF g 5 1 % 8)) 8 (s.pgF g (0x50 + 8 * f.spare) 8)).setPg g (0x50 + 8 * f.spare) 8 0
  let s := ((s.setPg g 0x78 4 (f.row % 2 ^ 32)).setPg g 5 1 0xFF).setPg g 4 1 1
  { s with dev := { s.dev with fills := s.dev.fills.del g } }
/-- PARITY_FILL_COMPLETE: the rows that a fill still wants are rebuilt, and it is complete (R228). With `arg` other than 0 it goes on by `arg` times 32 rows
only, and is complete if they are the last. A fill whose survivors have moved restarts (R229) (DESIGN CHOICE, log 93). `unit`: the group. -/
def execParityFillComplete (s : State) : Host.Outcome State Fault Refusal :=
  let g := s.unit
  .next (
    match s.dev.fills.find g with
    | none => s
    | some f =>
      if s.pgCount ≤ g ∨ s.pgF g 4 1 ≠ 3 then s
      else if s.pgMoved g f then s.fillFrom0 g f.spare
      else
        let m := s.pgF g 5 1 % 8
        let rows := s.pgF g 8 8
        let n := if s.arg = 0 then rows - f.row else min (32 * s.arg) (rows - f.row)
        let s := s.pgRows g (BitVec.ofNat 64 (s.pgF g (0x50 + 8 * f.spare) 8)) ((List.range 8).filter (· != m)) f.row n
        if f.row + n < rows then s.setFill g { f with row := f.row + n } else s.fillEnd g { f with row := f.row + n })

/-- What a new map does to the fills that run (R229): `gone` says whether a device is lost now, `chan` whether this device's second-tier channels
under a row are lost now. -/
def State.pgEvent (s : State) (gone : Nat → Bool) (chan : Nat → Bool) : State :=
  s.dev.fills.foldl (fun s e =>
    let g := e.1
    let m := s.pgF g 5 1
    let others := (List.range 8).filter (· != m)
    if s.pgF g 4 1 ≠ 3 then s
    else if others.any fun i => gone (devOf (s.pgMemb g i)) then (s.pgLost g).setPgctl 2
    else if gone (devOf (BitVec.ofNat 64 (s.pgF g (0x50 + 8 * e.2.spare) 8))) then s.pgFill g
    else if others.any fun i => let a := s.pgMemb g i; s.mine (devOf a) && (List.range 48).any fun k =>
        chan ((localOf a / 4096 - Config.tierBase / 4096 + k) % 48) && decide (4096 * k < 128 * s.pgF g 8 8 + localOf a % 4096) then s.fillFrom0 g e.2.spare
    else if s.pgMoved g e.2 then s.fillFrom0 g e.2.spare
    else s) s

end Sys2Proof.Machine
end

