-- ==== Sys2Proof/Machine/ResetMap.lean ====
section
/-! DEFINITION. Resets, self-test, power, and the resource map (R10 to R18, R25, R28, R36, R37, R65, R75, R97, R215, R229, R393). -/

namespace Sys2Proof.Machine

/-! Resets (R11). -/

/-- What no reset touches: the configuration image, host memory, what comes from outside, and the counter of free values. The device time base and the
cycle counts of the dies begin again at 0 at either reset: the spec is silent (DESIGN CHOICE, log 119). -/
def State.afterReset (s : State) : State :=
  { State.reset with
      dev := { Device.reset with image := s.dev.image, fresh := s.dev.fresh }
      hostMem := s.hostMem, agenda := s.agenda, unit := s.unit, arg := s.arg }
/-- COLD_RESET. -/
def execColdReset (s : State) : Host.Outcome State Fault Refusal := .next s.afterReset
/-- Whether an address lies in second-tier memory. -/
def inTier (a : Nat) : Bool := decide (Config.tierBase ≤ a) && decide (a < Config.tierBase + Config.tierBytes)
/-- The cells of a memory within [lo, hi). -/
def between (lo hi : Nat) : List Host.Cell → List Host.Cell
  | [] => []
  | (a, b) :: m => if a < lo then between lo hi m else if a < hi then (a, b) :: between lo hi m else []
/-- WARM_RESET: second-tier memory keeps its contents, with them the map version, the count of serial numbers, and of the journal how far its ring has
gone and which mapping rows its publishes stand in (R8, R13, R88, R95, R103; log 29). -/
def execWarmReset (s : State) : Host.Outcome State Fault Refusal :=
  let r := s.afterReset
  .next { r with
      dev := { r.dev with keptVersion := s.dev.keptVersion, jpos := s.dev.jpos, shown := s.dev.shown }
      mem := between Config.tierBase (Config.tierBase + Config.tierBytes) s.mem
      poison := s.poison.filter inTier
      serial := s.serial }

/-- IMAGE_CHECK: the signature and the power cap's range (R10, R11); the image then gives DEVID and the running plan. -/
def execImageCheck (s : State) : Host.Outcome State Fault Refusal :=
  let i := s.dev.image
  .next (
    if s.dev.rst ≠ .image then s
    else if Config.imageSignatureOk i.body i.sig && decide (2000 ≤ i.cap) && decide (i.cap ≤ 4400) then
      { s with dev := { s.dev with rst := .arrays, devid := i.devid }, planTx := i.tx, planRx := i.rx }
    else { s with dev := { s.dev with rst := .badImage } })
/-- NEW_IMAGE_ACCEPT: in BADIMAGE a new image is taken and the check runs again (DEDUCED, log 42). -/
def execNewImageAccept (img : Image) (s : State) : Host.Outcome State Fault Refusal :=
  .next (if s.dev.rst = .badImage then { s with dev := { s.dev with image := img, rst := .image } } else s)

/-! Bit vectors of units. -/

/-- The vector whose bit i says `f i`. -/
def vecOf (w : Nat) (f : Nat → Bool) : BitVec w := BitVec.ofNat w (packRegs 1 (fun i => if f i then 1 else 0) w)
/-- A vector with some bits cleared, or set. -/
def clearBits {w : Nat} (v : BitVec w) (ns : List Nat) : BitVec w := vecOf w fun i => v.getLsbD i && !(ns.contains i)
def setBits {w : Nat} (v : BitVec w) (ns : List Nat) : BitVec w := vecOf w fun i => v.getLsbD i || ns.contains i
/-- Closure under containment (R15). -/
def ResMap.close (m : ResMap) : ResMap :=
  let panels := vecOf 32 fun p => m.panels.getLsbD p && m.dies.getLsbD (dieOfPanel p)
  { m with
      panels := panels
      cores := vecOf 512 fun n => m.cores.getLsbD n && panels.getLsbD (panelOfCore n)
      hbms := vecOf 16 fun k => m.hbms.getLsbD k && m.dies.getLsbD (dieOfStack k)
      optch := vecOf 256 fun i => m.optch.getLsbD i && m.dies.getLsbD (slotDie i) }

/-! Self-test (R11, R12). -/

/-- More than 1 % of the rows of a scratchpad or a panel store. -/
def tooMany (f : ArrayFail) : Bool := decide ((if f.array = 6 then Config.spRows else Config.psRows) < 100 * f.rows)
/-- ARRAY_TEST: failing rows are retired; too many of them take a core or a panel (DESIGN CHOICE, log 97). -/
def execArrayTest (fails : List ArrayFail) (s : State) : Host.Outcome State Fault Refusal :=
  let cores := (fails.filter fun f => f.array == 6 && tooMany f).map (·.unit)
  let panels := (fails.filter fun f => f.array == 7 && tooMany f).map (·.unit)
  .next (
    if s.dev.rst ≠ .arrays then s
    else { s with
        map := { s.map with cores := clearBits s.map.cores cores, panels := clearBits s.map.panels panels }
        dev := { s.dev with
          rst := .cores
          retired := fails.foldl (fun m f => m.put (2 ^ 60 + f.array * 2 ^ 32 + f.unit) f.rows) s.dev.retired } })
/-- CORE_SELF_TEST. -/
def execCoreSelfTest (failed : List Nat) (s : State) : Host.Outcome State Fault Refusal :=
  .next (
    if s.dev.rst ≠ .cores then s
    else { s with map := { s.map with cores := clearBits s.map.cores failed }, dev := { s.dev with rst := .memory } })
/-- MEMORY_TEST. -/
def execMemoryTest (r : MemTest) (s : State) : Host.Outcome State Fault Refusal :=
  .next (
    if s.dev.rst ≠ .memory then s
    else { s with
        map := { s.map with
          hbms := clearBits s.map.hbms r.hbms, tierch := clearBits s.map.tierch r.chans
          stackCap := r.stackCap.foldl (fun m x => m.put x.1 x.2) s.map.stackCap
          tierCap := r.chanCap.foldl (fun m x => m.put x.1 x.2) s.map.tierCap }
        dev := { s.dev with rst := .links, retired := r.pages.foldl (fun m p => m.put p 1) s.dev.retired } })

/-! Publishing (R17, R18). -/

/-- f15 set in a context that has not acknowledged the version; its grace timer starts when f15 goes from clear to set (R18). -/
def Ctx.toldOf (c : Ctx) (v : W64) : Ctx :=
  if c.csr.ackver.toNat < v.toNat then
    { c.setFlags 0x8000 with grace := c.grace || !(c.f.getLsbD 15) }
  else c
/-- The map published as the next version (R16, R17). -/
def State.publish (s : State) (cause : Nat) : State :=
  let v := s.dev.keptVersion + 1
  let s := { s with
      map := { s.map with version := v, cause := BitVec.ofNat 16 cause, time := s.now }
      dev := { s.dev with keptVersion := v } }
  let told := (List.range 2048).map fun n => (n, (s.ctx n).toldOf v)
  { s with ctxs := told ++ s.ctxs.filter fun (c : Nat × Ctx) => decide (2048 ≤ c.1) }.setReg 0x302 v

/-- The dies outside the connected set that is kept: the largest, on a tie the one with the lowest live die (R25). -/
def State.cutOff (s : State) : List Nat :=
  let live := (List.range 8).filter s.dieLive
  let best := live.foldl (fun (b : List Nat) d => let c := s.within 8 [d]; if b.length < c.length then c else b) []
  live.filter fun d => !(best.contains d)
/-- Die-lost events for the cut-off dies, ascending. -/
def State.postCutOff (s : State) : State := s.cutOff.foldl (fun s d => s.post 0 0 (.mapEvent (.dieLost d))) s

/-- Whether the device may serve queues (R12). -/
def State.enough (s : State) (hostUp : Bool) : Bool :=
  s.map.cores != 0 && s.map.hbms != 0 && hostUp && decide (16 ≤ ((List.range 48).filter s.map.tierch.getLsbD).length)
/-- LINK_BRINGUP and MAP (R11 to R13, R28, R32, R81): the slots that lock, none if a peer announces another port than the one it is heard from;
then the first map of the reset, and READY or FAILED. -/
def execLinkBringup (r : LinkTest) (s : State) : Host.Outcome State Fault Refusal :=
  if s.dev.rst ≠ .links then .next s
  else
    let ok := r.heard.all fun h => s.rxPeer h.1 == h.2
    let s := if ok then r.locked.foldl (fun s i => s.setTx i { TxSlot.reset with locked := true }) s else s
    let s := if ok then r.rxLocked.foldl (fun s i => s.setRx i { RxSlot.reset with locked := true }) s else s
    let s := { s with
        map := ({ s.map with bridges := clearBits s.map.bridges r.bridges, optch := s.optchMask }).close
        dev := { s.dev with width := r.half, speed := r.slow } }
    let s := ({ s with map := { s.map with peers := s.peersMask } }).publish 1
    let up := s.enough r.hostUp
    let s := { s with dev := { s.dev with rst := if up then .ready else .failed } }
    .next (if up then s.postCutOff.post 0 0 .journalReplay else s)

/-! Power (R9, R10). -/

def stepDown (mhz : Nat) : Nat := if mhz = 2100 then 1800 else if mhz = 1800 then 1500 else 1200
def stepUp (mhz : Nat) : Nat := if mhz = 1200 then 1500 else if mhz = 1500 then 1800 else 2100
/-- The live die of highest power among those that can still step down; of equal ones the lowest number (DESIGN CHOICE, log 118: R10 names "the
highest-power die" and says nothing of one at 1,200 MHz already, nor of two with equal power). -/
def State.hottest (s : State) (watts : List Nat) : Option Nat :=
  leastBy (fun a b => decide (watts.getD b 0 < watts.getD a 0)) ((List.range 8).filter fun d => decide (1200 < s.map.clock d))
def sumOf (l : List Nat) : Nat := l.foldl (· + ·) 0
/-- POWER_MEASUREMENT: the 1 ms average over the last 100 measurements; step-downs at most every tenth one, a step-up after 1,000 that stayed
10 % under the cap. Which die steps up is free (log 8) (DEDUCED, log 95). -/
def execPowerMeasurement (watts : List Nat) (s : State) : Host.Outcome State Fault Refusal :=
  if s.serving = false then .next s
  else
    let hist := (sumOf watts :: s.dev.watts).take 100
    let passed := decide (s.dev.image.cap * hist.length < sumOf hist)
    let low := decide (10 * sumOf hist ≤ 9 * s.dev.image.cap * hist.length)
    let put (wait under : Nat) : State := { s with dev := { s.dev with watts := hist, downWait := wait, under := under } }
    if passed then
      if s.dev.downWait ≠ 0 then .next (put (s.dev.downWait - 1) 0)
      else
        match s.hottest watts with
        | some d => .next ((put 9 0).post 0 0 (.mapEvent (.clockStep d (stepDown (s.map.clock d)))))
        | none => .next (put 9 0)
    else if low = false then .next (put 0 0)
    else if s.dev.under < 999 then .next (put 0 (s.dev.under + 1))
    else
      let can := (List.range 8).filter fun d => decide (0 < s.map.clock d) && decide (s.map.clock d < 2100)
      match can[Config.stepUpChoice s.dev.fresh % can.length]? with
      | none => .next (put 0 0)
      | some d =>
        let s := put 0 0
        .next ({ s with dev := { s.dev with fresh := s.dev.fresh + 1 } }.post 0 0 (.mapEvent (.clockStep d (stepUp (s.map.clock d)))))
/-- THERMAL_LIMIT (R10). `unit`: the die, `arg`: its junction temperature in °C. Each event is one step down, or a death where the die runs at
1,200 MHz: how far apart the events come is the agenda's, with no spacing of 100 µs of the model's own (DESIGN CHOICE, log 117). -/
def execThermalLimit (s : State) : Host.Outcome State Fault Refusal :=
  let d := s.unit
  if s.serving = false ∨ s.dieLive d = false ∨ s.arg ≤ 105 then .next s
  else if 115 ≤ s.arg ∨ s.map.clock d ≤ 1200 then .next (s.post 0 0 (.mapEvent (.dieLost d)))
  else .next (s.post 0 0 (.mapEvent (.clockStep d (stepDown (s.map.clock d)))))

/-! Map events (R15, R16). -/

/-- The CAUSE of a report. -/
def causeOf : MapReport → Nat
  | .coreLost _ => 2
  | .panelLost _ => 3
  | .dieLost _ => 4
  | .stackLost _ | .stackCap _ _ => 5
  | .chanLost _ | .chanCap _ _ => 6
  | .bridgeLost _ => 7
  | .slotLost _ => 8
  | .clockStep _ _ => 9
  | .planLoaded => 10
  | .peers _ => 11
  | .returned _ _ _ _ => 12
/-- The cores a panel or a die contains. -/
def coresOfPanel (p : Nat) : List Nat := (List.range 512).filter fun n => panelOfCore n == p
def coresOfDie (d : Nat) : List Nat := (List.range 512).filter fun n => dieOfCore n == d
/-- A unit back in service (R409): kind as MAPSET numbers it, with the contained cores that passed and the capacity that is usable
(DEDUCED, log 96). -/
def ResMap.back (m : ResMap) (kind unit : Nat) (failed : List Nat) (cap : Nat) : ResMap :=
  let passed (ns : List Nat) : List Nat := ns.filter fun n => !(failed.contains n)
  match kind with
  | 0 => { m with cores := setBits m.cores [unit] }
  | 1 => { m with panels := setBits m.panels [unit], cores := setBits m.cores (passed (coresOfPanel unit)) }
  | 2 => { m with
      dies := setBits m.dies [unit], panels := setBits m.panels ((List.range 4).map (4 * unit + ·))
      cores := setBits m.cores (passed (coresOfDie unit)) }
  | 3 => { m with hbms := setBits m.hbms [unit], stackCap := m.stackCap.put unit cap }
  | 4 => { m with tierch := setBits m.tierch [unit], tierCap := m.tierCap.put unit cap }
  | 5 => { m with bridges := setBits m.bridges [unit] }
  | _ => { m with optch := setBits m.optch [unit] }
/-- What a report changes in the map, before closure. -/
def ResMap.report (m : ResMap) : MapReport → ResMap
  | .coreLost n => { m with cores := clearBits m.cores [n] }
  | .panelLost n => { m with panels := clearBits m.panels [n] }
  | .dieLost n => { m with dies := clearBits m.dies [n] }
  | .stackLost n => { m with hbms := clearBits m.hbms [n] }
  | .stackCap n c => { m with stackCap := m.stackCap.put n c }
  | .chanLost n => { m with tierch := clearBits m.tierch [n] }
  | .chanCap n c => { m with tierCap := m.tierCap.put n c }
  | .bridgeLost n => { m with bridges := clearBits m.bridges [n] }
  | .slotLost n => { m with optch := clearBits m.optch [n] }
  | .clockStep d c => { m with clocks := m.clocks.put d c }
  | .planLoaded => m
  | .peers p => { m with peers := p }
  | .returned k u f c => m.back k u f c
/-- The number of the unit that a report names: reports of one cycle are taken by CAUSE, then by it (R16). -/
def unitOf : MapReport → Nat
  | .coreLost n | .panelLost n | .dieLost n | .stackLost n | .chanLost n | .bridgeLost n | .slotLost n => n
  | .stackCap n _ | .chanCap n _ | .clockStep n _ => n
  | .planLoaded => 0
  | .peers _ => 0
  | .returned _ u _ _ => u
/-- Whether a report of the same cycle is taken before another (R16). -/
def repBefore (a b : MapReport) : Bool := decide (causeOf a < causeOf b) || (causeOf a == causeOf b && decide (unitOf a < unitOf b))
/-- Of a report and the ones that wait in the same cycle, up to the clock's next turn, the one to take first, and the turns with the others. -/
def firstReport (r : MapReport) : List Turn → MapReport × List Turn
  | [] => (r, [])
  | .clock :: ts => (r, .clock :: ts)
  | .event u a i :: ts =>
    match i with
    | .mapEvent q =>
      let x := if repBefore q r then firstReport q ts else firstReport r ts
      (x.1, .event u a (.mapEvent (if repBefore q r then r else q)) :: x.2)
    | i => let x := firstReport r ts; (x.1, .event u a i :: x.2)
/-- The report of its cycle that comes first, taken out of those that wait. -/
def State.takeFirst (s : State) (r : MapReport) : MapReport × State :=
  let x := firstReport r s.pend
  let y := firstReport x.1 s.agenda
  (y.1, { s with pend := x.2, agenda := y.2 })
/-- Whether two maps show the same fields. -/
def ResMap.same (a b : ResMap) : Bool := mapImageWith { a with version := 0, cause := 0, time := 0 } 0 0 ==
  mapImageWith { b with version := 0, cause := 0, time := 0 } 0 0

/-- The commands of which a part runs on a unit that is live in `old` and not now: a task on a lost core, a matrix or engine command that a lost core
runs or that waits there, a group at home on a lost die (R97). -/
def State.hitCmds (s : State) (old : ResMap) : List Nat :=
  let dead (n : Nat) : Bool := old.cores.getLsbD n && !(s.map.cores.getLsbD n)
  let ofCtx (n : Nat) : Option Nat := (s.ctx n).task.map (·.cmd)
  let tasks := s.ctxs.filterMap fun c => if c.1 < 2048 ∧ dead (c.1 / 4) = true then c.2.task.map (·.cmd) else none
  let runs := s.cores.flatMap fun k => if dead k.1 then
    (((match k.2.eng with | some w => [w.c] | none => []) ++ k.2.back.map (·.c) ++ k.2.q0 ++ k.2.q1).filterMap fun c => ofCtx c.ctx) else []
  let engs := (s.ctxs.flatMap fun c => if dead (if c.1 < 2048 then c.1 / 4 else c.1 - 2048) then c.2.engs.map (·.cmd) else []) ++
    s.cores.flatMap fun k => if dead k.1 then (k.2.running.map (·.c.cmd)) ++ k.2.prio.map (·.cmd) else []
  let groups := s.groups.filterMap fun g => if old.dies.getLsbD g.2.die && !(s.map.dies.getLsbD g.2.die) then some g.2.cmd else none
  (tasks ++ runs ++ engs ++ groups).eraseDups
/-- A core that is lost runs nothing any more; its engine is no longer suspect (R215). -/
def Core.lostNow (c : Core) : Core :=
  { c with
      run := none, q0 := [], q1 := [], eng := none, guarded := [], window := [], suspect := false, out := [], back := [], copyE := none, offE := none
      mainE := none, shadowE := none, recE := none, prio := [] }
/-- The slots whose OPTCH bit is cleared go out of service, their flits to the next slot of their list (R41). -/
def State.closeSlots (s : State) (old : ResMap) : State :=
  (List.range 256).foldl (fun s i =>
    let s := if s.dieLive (slotDie i) then s else s.setRx i { s.rx i with locked := false }
    if old.optch.getLsbD i && !(s.map.optch.getLsbD i) && (s.tx i).locked then s.vacate i else s) s
/-- The cores that are live in `old` and not now stop (DEDUCED, log 100). -/
def State.stopCores (s : State) (old : ResMap) : State :=
  { s with cores := s.cores.map fun (k : Nat × Core) => if old.cores.getLsbD k.1 && !(s.map.cores.getLsbD k.1) then (k.1, k.2.lostNow) else k }
/-- PEERS published when they no longer agree with the slots (R16, R36). -/
def State.postPeers (s : State) : State :=
  if s.wp.isNone && s.peersMask != s.map.peers then s.post 0 0 (.mapEvent (.peers s.peersMask)) else s
/-- What the device does after a version is published (R25, R37, R65, R75, R97, R229). -/
def State.afterMap (s : State) (old : ResMap) : State :=
  let s := ((((((s.hitCmds old).foldl State.rerun s).stopCores old).closeSlots old).checkQueued).voidRings).breakTrees
  let s := s.pgEvent (fun j => old.peers.getLsbD j && !(s.map.peers.getLsbD j)) fun k => old.tierch.getLsbD k && !(s.map.tierch.getLsbD k)
  (if s.map.dies == old.dies && s.map.bridges == old.bridges then s else s.postCutOff).postPeers
/-- A report acted on: no version if no field changes (R16). -/
def State.mapReport (s : State) (r : MapReport) : State :=
  let m := (s.map.report r).close
  if m.same s.map then s
  else
    let s := match r with
      | .returned 6 i _ _ => s.setTx i { s.tx i with locked := true, allow := [64, 64, 64, 64, 64, 64] }
      | _ => s
    ({ s with map := m }.publish (causeOf r)).afterMap s.map
/-- The end of a WPLAN: the new plan with its OPTCH and PEERS in one version, and queued traffic chosen again (R33, R80, R393). With no field
changed there is no version (DEDUCED from R16, log 43). -/
def State.planReport (s : State) (w : WpRun) : State :=
  let queued := s.queuedTx
  let peer (i : Nat) : Nat := s.txPeer i
  let t := s.clearTxQueues.installPlan w
  let m := { t.map with optch := t.optchMask, peers := t.peersMask }.close
  let t := if m.same s.map then t else { t with map := m }.publish 10
  (t.requeueAll queued peer).afterMap s.map
/-- The map agent acts on a report (R16). -/
def State.mapAct (s : State) (r : MapReport) : State :=
  match r with
  | .planLoaded => match s.wp with
    | some w => if w.relock then s.planReport w else s
    | none => s
  | r => s.mapReport r
/-- MAP_EVENT (R16): of the reports that arrive in this cycle, the one of lowest CAUSE and unit; the others wait in its place. -/
def execMapEvent (r : MapReport) (s : State) : Host.Outcome State Fault Refusal :=
  if s.serving = false then .next s
  else
    let x := s.takeFirst r
    .next (x.2.mapAct x.1)

end Sys2Proof.Machine
end

