-- ==== Sys2Proof/Machine/Mailbox.lean ====
section
/-! DEFINITION. The security mailbox: identity, attestation and link keys (R20, R39, R40). -/

namespace Sys2Proof.Machine

/-! SHA-256, which R20 names: its constants are fractions of roots of primes, and each block turns eight registers 64 times over a window of
sixteen message words. -/

/-- The greatest number of n bits above those of r whose k-th power is at most x, bit by bit from the top. -/
def rootBits (k x : Nat) : Nat → Nat → Nat
  | 0, r => r
  | n + 1, r => rootBits k x n (if (r + 2 ^ n) ^ k ≤ x then r + 2 ^ n else r)
/-- The first 32 bits of the fraction of the k-th root of p. -/
def fracRoot (k p : Nat) : W32 := BitVec.ofNat 32 (rootBits k (p * 2 ^ (32 * k)) 40 0)
/-- The first 64 primes: the numbers below 312 that no number from 2 to 17 divides properly. -/
def shaPrimes : List Nat :=
  (List.range 312).filter fun p => decide (2 ≤ p) && (List.range 16).all fun d => decide (p ≤ d + 2) || p % (d + 2) != 0
/-- The eight registers. -/
structure ShaRegs where
  a : W32
  b : W32
  c : W32
  d : W32
  e : W32
  f : W32
  g : W32
  h : W32
  deriving DecidableEq, Repr
def ShaRegs.words (r : ShaRegs) : List W32 := [r.a, r.b, r.c, r.d, r.e, r.f, r.g, r.h]
def ShaRegs.ofFn (w : Nat → W32) : ShaRegs := ⟨w 0, w 1, w 2, w 3, w 4, w 5, w 6, w 7⟩
/-- The sum modulo 2 of three rotations. -/
def spin (x : W32) (i j k : Nat) : W32 := (x.rotateRight i).xor ((x.rotateRight j).xor (x.rotateRight k))
/-- One turn with a constant and a message word. -/
def ShaRegs.turn (r : ShaRegs) (k w : W32) : ShaRegs :=
  let pick := r.g.xor (r.e.and (r.f.xor r.g))
  let most := (r.a.or r.b).and r.c |>.or (r.a.and r.b)
  let x := k + w + pick + spin r.e 6 11 25 + r.h
  { r with h := r.g, g := r.f, f := r.e, e := x + r.d, d := r.c, c := r.b, b := r.a, a := most + spin r.a 2 13 22 + x }
/-- The message word that enters a window of sixteen. -/
def shaNext (win : List W32) : W32 :=
  let far := win.getD 1 0
  let near := win.getD 14 0
  let small (x : W32) (i j k : Nat) : W32 := (x.rotateRight i).xor ((x.rotateRight j).xor (x.ushiftRight k))
  win.getD 0 0 + win.getD 9 0 + small far 7 18 3 + small near 17 19 10
/-- The turns of one block. -/
def shaTurns : List W32 → List W32 → ShaRegs → ShaRegs
  | [], _, r => r
  | k :: ks, win, r => shaTurns ks (win.drop 1 ++ [shaNext win]) (r.turn k (win.getD 0 0))
/-- The big-endian word of four bytes from place i on. -/
def beWord (m : List Byte) (i : Nat) : W32 := BitVec.ofNat 32 ((List.range 4).foldl (fun x k => 256 * x + (m.getD (4 * i + k) 0).toNat) 0)
/-- The blocks of a padded message, n of them, taken into the registers. -/
def shaAll (ks : List W32) : Nat → List Byte → ShaRegs → ShaRegs
  | 0, _, r => r
  | n + 1, m, r =>
    let t := shaTurns ks ((List.range 16).map (beWord m)) r
    shaAll ks n (m.drop 64) (.ofFn fun i => r.words.getD i 0 + t.words.getD i 0)
/-- What follows a message of n bytes: the byte 0x80, zeros, and the count of its bits in eight bytes, up to whole blocks. -/
def shaTail (n : Nat) : List Byte :=
  let len := (n + 72) / 64 * 64 - n
  (List.range len).map fun i => if i = 0 then 0x80 else if i + 8 < len then 0 else BitVec.ofNat 8 (8 * n / 256 ^ (len - 1 - i))
/-- The digest, most significant byte first. -/
def sha256 (m : List Byte) : List Byte :=
  let r := shaAll (shaPrimes.map (fracRoot 3)) ((m.length + 72) / 64) (m ++ shaTail m.length) (.ofFn fun i => fracRoot 2 (shaPrimes.getD i 0))
  r.words.flatMap fun w => (List.range 4).map fun i => BitVec.ofNat 8 (w.toNat / 256 ^ (3 - i))

/-! The buffer (R20). -/

def mbBase : Nat := Config.capBase + 0xC000
def State.mbGet (s : State) (off n : Nat) : List Byte := (List.range n).map fun i => s.byte (mbBase + off + i)
/-- Bytes stored in the buffer. -/
def bytesVal : List Byte → Nat
  | [] => 0
  | b :: bs => b.toNat + 256 * bytesVal bs
def State.mbPut (s : State) (off : Nat) (bs : List Byte) : State := s.putMem (mbBase + off) bs.length (bytesVal bs)
/-- The reset state as STATE and ATTEST give it (R19). -/
def rstCode : RState → Nat
  | .image => 0
  | .arrays => 1
  | .cores => 2
  | .memory => 3
  | .links => 4
  | .map => 5
  | .ready => 6
  | .badImage => 14
  | .failed => 15
/-- A mailbox command completes: MBSTAT, and BUSY clears. -/
def State.mbDone (s : State) (st : Nat) : State := { s with dev := { s.dev with mbstat := BitVec.ofNat 8 st, mbbusy := false } }
/-- A command served while BUSY is set: in BADIMAGE all but IDENT complete BADCMD. -/
def State.mbServe (s : State) (ident : Bool) (run : State → State) : State :=
  if !s.dev.mbbusy then s else if s.dev.rst = .badImage ∧ ident = false then s.mbDone 1 else run s

/-- IDENT. -/
def execIdent (s : State) : Host.Outcome State Fault Refusal :=
  .next (s.mbServe true fun s =>
    ((s.mbPut 0 ((List.range 384).map Config.identityModulus)).mbPut 0x180 ((List.range 4).map Config.identityExponent)).mbDone 0)
/-- ATTEST. -/
def execAttest (s : State) : Host.Outcome State Fault Refusal :=
  .next (s.mbServe false fun s =>
    let s := s.mbPut 0x40 (sha256 s.dev.image.body)
    let s := s.mbPut 0x60 [s.dev.devid.zeroExtend 8, BitVec.ofNat 8 (rstCode s.dev.rst), 0, 0, 0, 0, 0, 0]
    let msg := s.mbGet 0 0x68
    (s.mbPut 0x80 ((List.range 384).map (Config.identitySign msg))).mbDone 0)

/-- Whether a generation is the one selected for sending: it holds the key in use (R20, R40). A generation with no key sends nothing and is not
selected (DESIGN CHOICE, log 121). -/
def State.selected (s : State) (peer part g : Nat) : Bool :=
  s.gen peer part == g && (s.dev.keys.find (keyId 0 peer part g)).isSome
/-- A key installed with its counter at zero (R39, R40). A new transmit key is switched to at the next flit boundary (DEDUCED, log 44). -/
def State.installKey (s : State) (dir peer part g : Nat) (k : BitVec 256) : State :=
  { s with dev := { s.dev with
      keys := s.dev.keys.put (keyId dir peer part g) ⟨k, 0⟩
      curGen := if dir = 0 then s.dev.curGen.put (peer * 8 + part) (g == 1) else s.dev.curGen } }
/-- KEYWRAP. A record of another length than 48 B completes BADARG (DESIGN CHOICE, log 121). -/
def execKeywrap (s : State) : Host.Outcome State Fault Refusal :=
  .next (s.mbServe false fun s =>
    match Config.oaepDecrypt (s.mbGet 0 384) with
    | none => s.mbDone 2
    | some r =>
      let b (i : Nat) : Nat := (r.getD i 0).toNat
      if r.length ≠ 48 ∨ 63 < b 32 ∨ 7 < b 33 ∨ 1 < b 34 ∨ 1 < b 35 ∨ (r.drop 36).any (· != 0) = true then s.mbDone 3
      else if b 34 = 0 ∧ s.selected (b 32) (b 33) (b 35) = true then s.mbDone 4
      else (s.installKey (b 34) (b 32) (b 33) (b 35) (BitVec.ofNat 256 (bytesVal (r.take 32)))).mbDone 0)
/-- KEYRETIRE. A field out of range or nonzero padding completes BADARG, as R20 says of KEYWRAP only (DESIGN CHOICE, log 121). -/
def execKeyretire (s : State) : Host.Outcome State Fault Refusal :=
  .next (s.mbServe false fun s =>
    let r := s.mbGet 0 128
    let b (i : Nat) : Nat := (r.getD i 0).toNat
    if 63 < b 0 ∨ 7 < b 1 ∨ 1 < b 2 ∨ 1 < b 3 ∨ (r.drop 4).any (· != 0) = true then s.mbDone 3
    else ({ s with dev := { s.dev with keys := s.dev.keys.del (keyId (b 2) (b 0) (b 1) (b 3)) } }).mbDone 0)

/-- GO written with a command in MBCMD (R20): ignored while BUSY; an unknown command completes BADCMD. -/
def State.mbGo (s : State) : State :=
  if s.dev.mbbusy then s
  else
    let s := { s with dev := { s.dev with mbbusy := true } }
    match s.dev.mbcmd.toNat with
    | 1 => s.post 0 0 .ident
    | 2 => s.post 0 0 .attest
    | 3 => s.post 0 0 .keywrap
    | 4 => s.post 0 0 .keyretire
    | _ => s.mbDone 1

end Sys2Proof.Machine
end

