-- ==== Sys2Proof/Machine/Unpick.lean ====
section
/-! DEFINITION. UNPICK: gradient buffers, adjoints and the walk of the log (R374, R375, R378 to R384). -/

namespace Sys2Proof.Machine

/-! Gradient buffers (R378). -/

/-- Work on gradient buffers: the state, the core, the table copy, and the first poison met. -/
structure Uk where
  s : State
  core : Nat
  gm : List GEnt
  bad : Option (Nat × W64)
  deriving DecidableEq, Repr

/-- What a slot covers of a gradient buffer: the map entry, the first element or the buffer rows of its registers, and how many elements. -/
structure View where
  g : Nat
  first : Nat
  regs : Option (List Nat)
  n : Nat
  deriving DecidableEq, Repr

/-- The buffer's element that holds element n of the slot. -/
def View.at (v : View) (n : Nat) : Nat := match v.regs with | none => v.first + n | some l => 32 * l.getD (n / 32) 0 + n % 32
/-- The slot's element at an element of the buffer. -/
def View.inv (v : View) (b : Nat) : Option Nat :=
  match v.regs with
  | none => if v.first ≤ b ∧ b < v.first + v.n then some (b - v.first) else none
  | some l => (l.idxOf? (b / 32)).map fun k => 32 * k + b % 32
/-- The buffer's rows that the slot meets. -/
def View.rows (v : View) : List Nat :=
  match v.regs with
  | none => (List.range ((v.first + v.n + 31) / 32 - v.first / 32)).map (v.first / 32 + ·)
  | some l => l.eraseDups
/-- Where row k of a buffer lies. -/
def gAddr (core : Nat) (e : GEnt) (k : Nat) : Nat :=
  let row := fld e.gbuf 0 48 + k
  if bit e.gbuf 63 then psAddr (panelOfCore core) row else spAddr core row
def Uk.ent (u : Uk) (g : Nat) : GEnt := u.gm.getD g ⟨0, 0, 0, 0, 0, 0, 0⟩
def Uk.read (u : Uk) (g k : Nat) : Uk × Row × Bool :=
  let d := u.s.loadLocal (gAddr u.core (u.ent g) k)
  ({ u with s := d.1, bad := u.bad.orElse fun _ => d.2.2 }, d.2.1, d.2.2.isSome)
def Uk.write (u : Uk) (g k : Nat) (r : Row) (poison : Bool) : Uk :=
  { u with s := u.s.storeLocal (gAddr u.core (u.ent g) k) r fullMask poison }
/-- n rows of a buffer cleared. -/
def Uk.zeros (u : Uk) (g : Nat) : Nat → Uk
  | 0 => u
  | n + 1 => (u.zeros g n).write g n 0 false
/-- The first write to a buffer with Z clears it and sets TOUCHED, in the copy and in the table. -/
def Uk.touch (u : Uk) (g : Nat) : Uk :=
  let e := u.ent g
  if e.flags.getLsbD 0 && !(e.flags.getLsbD 1) then
    let u := u.zeros g e.grows.toNat
    { u with
        gm := u.gm.set g { e with flags := e.flags ||| 2 }
        s := u.s.putMem (spAddr u.core e.row + e.off + 0x15) 1 (e.flags ||| 2).toNat }
  else u
/-- One row of a slot's buffer: lanes for which `f` answers are written; `over` says that the old value is not read when all are. -/
def Uk.updRow (u : Uk) (v : View) (passed : Bool) (f : Nat → Nat → Option (Nat × Bool)) (k : Nat) : Uk :=
  let lanesOf (old : Row) : List (Option (Nat × Bool)) :=
    (List.range 32).map fun j => (v.inv (32 * k + j)).bind fun n => f n (lane old j)
  let blind := passed && (lanesOf 0).all Option.isSome
  let d := if blind then (u, (0 : Row), false) else u.read v.g k
  let ls := lanesOf d.2.1
  if ls.all Option.isNone then u
  else
    let p := d.2.2 || ls.any fun o => match o with | some x => x.2 | none => false
    let row := rowOf fun j => match ls.getD j none with | some x => x.1 | none => lane d.2.1 j
    d.1.write v.g k row p
def Uk.upd (u : Uk) (v : View) (passed : Bool) (f : Nat → Nat → Option (Nat × Bool)) : Uk :=
  if (List.range v.n).any fun n => (f n 0).isSome then v.rows.foldl (fun u k => u.updRow v passed f k) (u.touch v.g) else u
/-- += and := on the elements of a slot (R378). -/
def Uk.accum (u : Uk) (v : Option View) (f : Nat → Option (Nat × Bool)) : Uk :=
  match v with
  | none => u
  | some v => u.upd v false fun n old => (f n).map fun x => (canonNan (add32 old x.1), x.2)
def Uk.assign (u : Uk) (v : View) (f : Nat → Option (Nat × Bool)) : Uk := u.upd v true fun n _ => f n
/-- The elements of a slot's buffer as they stand, each with its row's poison. -/
def Uk.load (u : Uk) (v : View) : Uk × (Nat → Nat × Bool) :=
  let r := v.rows.foldl (fun (a : Uk × AMap (Row × Bool)) k => let d := a.1.read v.g k; (d.1, a.2.put k d.2)) (u, [])
  (r.1, fun n => let b := v.at n; match r.2.find (b / 32) with | some x => (lane x.1 (b % 32), x.2) | none => (0, false))

/-! Slots of an entry. -/

/-- The format of a slot's elements, 0 (FP32) where the slot holds FP32 values. -/
def slotFmt (h : Row) (i : Nat) : Nat :=
  let a := decX (enParcel h)
  if enQld h then 0
  else match enOp h, i with
    | 1, 1 | 2, 1 => a.fmtb.toNat
    | 1, _ | 2, _ | 4, _ | 5, _ | 10, _ => a.fmta.toNat
    | _, _ => 0
/-- The block bytes of a pleat format. -/
def blockBytes (fmt : Nat) : Option Nat := match fmt with | 5 => some 18 | 6 => some 12 | 7 => some 8 | _ => none
/-- The view of a slot: none without a GREF; an error where its first element is no whole number or it passes GROWS (R378). -/
def slotView (gm : List GEnt) (h : Row) (i : Nat) : Except Unit (Option View) :=
  match (if enSlot h i = 0 then none else gm[enGref h i]?) with
  | none => .ok none
  | some e =>
    let d := enSlot h i
    let loc := bitsOf d 0 38
    let k0 := fld e.key 0 48
    let n := enRows h i
    let v : Except Unit View :=
      match enSpace h i with
      | 2 => .ok ⟨enGref h i, 0, none, 32 * (if enOp h = 1 ∨ enOp h = 2 then n else 32)⟩
      | 3 => .ok ⟨enGref h i, 0, some ((descItems d).map (· - k0)), 32 * n⟩
      | _ =>
        match blockBytes (slotFmt h i) with
        | some sb =>
          if (loc - k0) * 128 % sb ≠ 0 then .error () else .ok ⟨enGref h i, (loc - k0) * 128 / sb * 16, none, n * 128 / sb * 16⟩
        | none =>
          let w := fmtWidth (slotFmt h i)
          .ok ⟨enGref h i, (loc - k0) * (1024 / w), none, n * (1024 / w)⟩
    match v with
    | .error e => .error e
    | .ok v => if v.rows.all fun k => decide (k < e.grows.toNat) then .ok (some v) else .error ()

/-- Rows of the copy that slot i of an entry holds (R375). -/
def enCopy (h : Row) (i : Nat) : Nat :=
  if enMode h i ≠ 1 ∨ enSpace h i = 5 then 0
  else if enSpace h i = 2 then 32
  else if i < 2 ∧ enQld h = false ∧ (enOp h = 1 ∨ enOp h = 2) then enRows h i + mxK (decX (enParcel h)).fmta.toNat * (if enOp h = 2 then 2 else 1)
  else enRows h i
/-- Where the copy of slot i begins, in rows from the header. -/
def enCopyAt (h : Row) (i : Nat) : Nat := 1 + ((List.range i).map (enCopy h)).foldl (· + ·) 0

/-- Row o of the log of a run. -/
def State.ukAt (s : State) (core : Nat) (r : RunCmd) (o : Nat) : EngAt :=
  let off : Int := ((128 * (fld r.csr.logb 0 48 + o) : Nat) : Int)
  if fld r.csr.logb 62 2 = 0 then s.engAt core r.ext 1 0 false off else s.engAt core r.ext 2 (fld r.csr.logb 58 4) false off
/-- n rows of the log from row o on. -/
def State.ukRows (s : State) (core : Nat) (r : RunCmd) (o n : Nat) : EngRows := s.engRows ((List.range n).map fun k => s.ukAt core r (o + k))

/-- Poison that an adjoint reads is consumed by the context it works for (R210), or reported to its saved task. -/
def State.ukPoison (s : State) (c : EngCmd) (p : Option (Nat × W64)) : State :=
  match p with
  | none => s
  | some p =>
    match (if 2048 ≤ c.ctx then some c.ctx else holderOf c.serial s.ctxs) with
    | some n => s.modCtx n fun k => { k with poisoned := some (k.poisoned.getD p) }
    | none => s.reportTask c.ctx c.serial 0x0D (if p.1 < 6 then BitVec.allOnes 64 else p.2)
/-- The first poison among rows of this device. -/
def State.firstPoison (s : State) (xs : List W64) : Option (Nat × W64) :=
  xs.findSome? fun x => if s.mine (devOf x) then s.poisonOf (localOf x) else none
/-- The rows of a K slot where they stand now: scratchpad rows or a tile. -/
def State.keptRows (s : State) (core : Nat) (h : Row) (i : Nat) : State × List Row × Option (Nat × W64) :=
  match enSpace h i with
  | 2 =>
    let t := bitsOf (enSlot h i) 0 38 % 8
    let k := s.core core
    (s, (List.range 32).map fun q => k.acc.get 0 (32 * t + q), if k.accPoison.getLsbD t then some (4, BitVec.ofNat 64 (core * 2 ^ 13 + 32 * t)) else none)
  | _ =>
    let xs := (descItems (enSlot h i)).map fun row => s.here (spAddr core row)
    let d := s.engReads xs
    (d.1, d.2.1, d.1.firstPoison xs)
/-- The rows of an S or K slot of an entry whose rows are at hand. -/
def State.slotRows (s : State) (core : Nat) (h : Row) (rows : List Row) (i : Nat) : State × List Row × Option (Nat × W64) :=
  match enMode h i with
  | 1 => (s, (rows.drop (enCopyAt h i)).take (if enSpace h i = 2 then 32 else enRows h i), none)
  | 2 => s.keptRows core h i
  | _ => (s, [], none)
/-- The tile a producer computes from its own copies, as R345 or R346. -/
def producerTile (h : Row) (A B M : List Row) : List Row :=
  let a := decX (enParcel h)
  let op := enOp h
  let K := mxK a.fmta.toNat
  let a' := joinRows A
  let b' := joinRows B
  let m' := joinRows M
  tileOf fun i j => (dotOf (piOf a.pi.toNat) K (if op = 2 then 2 * K else K) (prodAt op a a' b' m' i j) 0).1

/-- What the values of an entry turn out to be: a status, a pause, or the rows of slots 0 to 2. -/
inductive UkVals where
  | stop (s : State) (status : Nat)
  | pause
  | ok (s : State) (a b c : List Row)
  deriving DecidableEq, Repr
/-- Slots 0 to 2 of an entry none of which is in C mode. -/
def State.plainVals (s : State) (core : Nat) (c : EngCmd) (h : Row) (rows : List Row) : UkVals :=
  let x := s.slotRows core h rows 0
  let y := x.1.slotRows core h rows 1
  let z := y.1.slotRows core h rows 2
  match x.2.2.orElse fun _ => y.2.2.orElse fun _ => z.2.2 with
  | some p => .stop (z.1.ukPoison c (some p)) 0x08
  | none => .ok z.1 x.2.1 y.2.1 z.2.1
/-- The entry at row o: its header and all its rows. -/
def State.ukEntry (s : State) (core : Nat) (r : RunCmd) (o : Nat) : UkVals :=
  match s.ukRows core r o 1 with
  | .stop st => .stop s st
  | .pause => .pause
  | .ok xs =>
    let d := s.engReads xs
    if d.2.2 then .stop d.1 0x08
    else
      match d.1.ukRows core r o (enLen (d.2.1.headD 0)) with
      | .stop st => .stop d.1 st
      | .pause => .pause
      | .ok ys =>
        let e := d.1.engReads ys
        if e.2.2 then .stop (e.1.ukPoison r.c (e.1.firstPoison (ys.drop 1))) 0x08 else .ok e.1 e.2.1 [] []
/-- The values of an entry: copies, kept rows, and what a C slot's producer computes (R372, R383). -/
def State.ukVals (s : State) (core : Nat) (r : RunCmd) (h : Row) (rows : List Row) : UkVals :=
  match s.plainVals core r.c h rows with
  | .ok s a b c =>
    if enMode h 0 ≠ 3 then .ok s a b c
    else
      match s.ukEntry core r (trF h 0x40 8) with
      | .ok s prows _ _ =>
        (match s.plainVals core r.c (prows.headD 0) prows with
        | .ok s a b c => .ok s (producerTile (prows.headD 0) a b c) [] []
        | x => x)
      | x => x
  | x => x

/-! Adjoints (R379 to R382). -/

def gval (x : Nat) : FVal := decodeFp fp32 x
/-- The product of a gradient and an operand value, exact. -/
def gprod (g : Nat) (v : FVal) : FVal := (mulV (gval g) v).1
/-- A's value at expanded depth p of row i: +0 at a pruned position. -/
def aAt (op : Nat) (a : XArgs) (A M i p : Nat) : FVal :=
  let K := mxK a.fmta.toNat
  if op = 2 then (match sparseAt K M i p with | some q => mxElem a.fmta.toNat K A i q | none => .fin false 0 0) else mxElem a.fmta.toNat K A i p
/-- The expanded position of stored element q of row i. -/
def posOf (K M i q : Nat) : Option Nat := (List.range (2 * K)).find? fun p => sparseAt K M i p == some q
/-- TMUL and TMULS (R380): r rows of the gradient, then A's blocks, then B's. -/
def Uk.adjMul (u : Uk) (h : Row) (v0 v1 : Option View) (v3 : View) (A B M : List Row) : Uk :=
  let a := decX (enParcel h)
  let op := enOp h
  let K := mxK a.fmta.toNat
  let D := if op = 2 then 2 * K else K
  let r := enRows h 3
  let a' := joinRows A
  let b' := joinRows B
  let m' := joinRows M
  let l := u.load v3
  let g (i j : Nat) : Nat := (l.2 (32 * i + j)).1
  let p := (List.range r).any fun i => (l.2 (32 * i)).2
  let u := l.1.accum v0 fun n =>
    let i := n / K
    let k := if op = 2 then posOf K m' i (n % K) else some (n % K)
    if r ≤ i then none
    else k.map fun k => ((chunkSum ((List.range 32).map fun j => gprod (g i j) (mxElem a.fmtb.toNat D b' j k))).1, p)
  let u := u.accum v1 fun n =>
    some ((chunkSum ((List.range r).map fun i => gprod (g i (n / D)) (aAt op a a' m' i (n % D)))).1, p)
  if a.acc then u else u.assign v3 fun n => if n / 32 < r then some (0, false) else none

/-- fprime of TACT (R381). -/
def fprime (fn x : Nat) : Nat :=
  let one := one32
  match fn with
  | 0 => match gval x with | .nan _ => 0 | v => if v.neg || v.isZero then 0 else one
  | 1 => let s := (fnUnit .sigm x).1; mul32 s (add32 one (mul32 x (sub32 one s)))
  | 2 => let y := (fnUnit .tanh x).1; sub32 one (mul32 y y)
  | 3 => let y := (fnUnit .sigm x).1; mul32 y (sub32 one y)
  | _ => (fnUnit .exp x).1
/-- TNORM's row adjoint (R381). -/
def normAdj (fn eps : Nat) (x dt : Nat → Nat) (j : Nat) : Nat :=
  let g := normG fn eps x
  let y (j : Nat) : Nat := mul32 (normD fn x j) g
  let p := mul32 (treeSum fun j => mul32 (dt j) (y j)) inv32
  let m := if fn = 0 then 0 else mul32 (treeSum dt) inv32
  mul32 g (sub32 (sub32 (dt j) m) (mul32 (y j) p))
/-- The lowest index that attains the maximum of x, none when it is NaN (R379). -/
def argMax (x : Nat → Nat) : Option Nat :=
  let m := treeMax x
  if (gval m).isNan then none else (List.range 32).find? fun j => x j == m
/-- The adjoint of TRED: the part of dR that [i][j] receives. -/
def redAdj (fn : Nat) (x : Nat → Nat → Nat) (dr : Nat → Nat × Bool) (i j : Nat) : Option (Nat × Bool) :=
  match fn with
  | 0 => some (dr i)
  | 1 => some (dr j)
  | 2 => if argMax (fun q => x i q) = some j then some (dr i) else none
  | 3 => if argMax (fun q => x q j) = some i then some (dr j) else none
  | _ => some (mul32 (mul32 0x40000000 (x i j)) (dr i).1, (dr i).2)

/-- The adjoint of a matrix command's entry (R379). `v3` is its destination's buffer; A, B and M are the values of slots 0 to 2. -/
def Uk.adjoint (u : Uk) (h : Row) (v0 v1 : Option View) (v3 : View) (A B M : List Row) : Uk :=
  let a := decX (enParcel h)
  let fn := a.fn.toNat
  let l := u.load v3
  let w := l.1
  let g := l.2
  let all (f : Nat → Nat × Bool) (n : Nat) : Option (Nat × Bool) := some (f n)
  let clear (u : Uk) : Uk := u.assign v3 fun _ => some (0, false)
  let same := bitsOf (enSlot h 0) 0 38 == bitsOf (enSlot h 3) 0 38
  let anyP (f : Nat → Nat) : Bool := (List.range 32).any fun q => (g (f q)).2
  match enOp h with
  | 1 | 2 => u.adjMul h v0 v1 v3 A B M
  | 3 => clear u
  | 4 | 7 => let w := w.accum v0 (all g); if a.acc then w else clear w
  | 5 | 6 => clear (w.accum v0 (all g))
  | 8 => w.accum v0 (all g)
  | 9 => w.assign v3 fun n =>
      some (scaleBy (g n).1 (h.toNat / 2 ^ (8 * (0x60 + if a.s.toNat / 32 % 2 = 1 then n % 32 else n / 32)) % 256), (g n).2)
  | 10 => w.accum v0 fun n =>
      if 32 ≤ n then none
      else if fn % 2 = 1 then some (treeSum fun j => (g (32 * n + j)).1, anyP fun j => 32 * n + j)
      else some (treeSum fun i => (g (32 * i + n)).1, anyP fun i => 32 * i + n)
  | 11 => w.assign v3 fun n => some (mul32 (g n).1 (fprime fn (tl A (n / 32) (n % 32))), (g n).2)
  | 12 => clear (w.accum v0 fun n => redAdj fn (tl A) g (n / 32) (n % 32))
  | 13 =>
    let t (n : Nat) : Nat × Bool := g (32 * (n % 32) + n / 32)
    if same then w.assign v3 (all t) else clear (w.accum v0 (all t))
  | 14 => w.assign v3 fun n =>
      some (normAdj fn (enScal h) (tl A (n / 32)) (fun j => (g (32 * (n / 32) + j)).1) (n % 32), (g n).2)
  | 15 => if same then u else clear (w.accum v0 (all g))
  | _ => u

/-! The QLD adjoint (R382). -/

/-- Whether a coordinate was replaced by clamping. −0 was not. -/
def quClamped (x : Nat) : Bool :=
  match gval x with
  | .nan _ => true
  | .inf _ => true
  | .fin neg m _ => if m = 0 then false else neg || decide (0x3F800000 ≤ x)
/-- c_k,d: the product over the other dimensions, ascending, negated when bit d of k is 0. -/
def quDeriv (k d : Nat) (ps : List (Nat × Nat)) : Nat :=
  let p := (List.range ps.length).foldl (fun w e => if e = d then w else mul32 w (quShare (ps.getD e (0, 0)).2 (k / 2 ^ e % 2 == 1))) one32
  if k / 2 ^ d % 2 = 1 then p else if p < 2 ^ 31 then p + 2 ^ 31 else p - 2 ^ 31
/-- The adds of one corner to its gradient entry, here or at another device (R336). -/
def State.quAdd (s : State) (core part : Nat) (conf : Bool) (x : W64) (byte : Nat) (vs : List W32) : State :=
  let i := byte % 128 / 4
  if s.mine (devOf x) then s.addLocal (localOf x) i vs
  else
    let row := x &&& ~~~127
    (s.inject core (devOf x)
      (s.flit 3 2 core 0 part row (engTag .record) 1 conf (atomRow 1 i (packRegs 32 (fun k => (vs.getD k 0).toNat) vs.length) 0 false false vs.length) 0)).getD s
/-- The whole adjoint, once every row is at hand: `table` and `grad` give the address of a row offset. -/
def Uk.adjQld (u : Uk) (part : Nat) (h : Row) (coords : List Row) (d : BitVec 2048) (v0 : Option View) (v3 : View)
    (table : Nat → Row) (grad : Nat → W64) (conf : W64 → Bool) : Uk :=
  let lv := (decM (enParcel h)).ext.toNat
  let n := (quNl d lv).getD 1
  let lanes := lanesOn (enScal h)
  let l := u.load v3
  let dF (f i : Nat) : Nat := (l.2 (32 * f + i)).1
  let bad := (List.range (quF d)).any fun f => (l.2 (32 * f)).2
  let u := l.1
  let u := lanes.foldl (fun (u : Uk) i =>
    (quCorners d n coords i).foldl (fun (u : Uk) c =>
      let b := quGrad d lv c.2
      { u with s := u.s.quAdd u.core part (conf (grad (b / 128))) (grad (b / 128)) b ((List.range (quF d)).map fun f => BitVec.ofNat 32 (mul32 c.1 (dF f i))) }) u) u
  let share (i dim : Nat) : Nat :=
    let ps := quLane d n coords i
    let cs := quCorners d n coords i
    (List.range cs.length).foldl (fun t k =>
      let e := quEntry d lv (cs.getD k (0, 0)).2
      (List.range (quF d)).foldl (fun t f =>
        add32 t (mul32 (mul32 (dF f i) (quFeature d (table (e / 128)) e f)) (quDeriv k dim ps))) t) 0
  let u := u.accum v0 fun m =>
    let i := m % 32
    let dim := m / 32
    if lanes.contains i = false ∨ quD d ≤ dim ∨ quClamped (lane (coords.getD dim 0) i) = true then none
    else some (mul32 (share i dim) (ofNat32 n), bad)
  u.assign v3 fun _ => some (0, false)

/-! The walk (R383, R384). -/

/-- The context a walk works for keeps its registers where its task is: CSR words of the context, or of the saved image. -/
def State.setRec (s : State) (c : EngCmd) (f : W64 → W64) (g : W64 → W64) : State :=
  match s.cmdCtx c with
  | some n => s.modCtx n fun k => { k with csr := { k.csr with recst := f k.csr.recst, logh := g k.csr.logh } }
  | none =>
    match savedOf c.serial s.saves with
    | some v =>
      let a := v.addr + 0x40780
      let s := s.putMem (a + 40) 8 (f (BitVec.ofNat 64 (s.bytes (a + 40) 8))).toNat
      s.putMem (a + 24) 8 (g (BitVec.ofNat 64 (s.bytes (a + 24) 8))).toNat
    | none => s
/-- An UNPICK whose checks on its context have passed reads the newest entry: it is refused, or UNP is set and the walk stands at that entry. Over a
revoked extent it waits, at no entry yet (R369, R383). -/
def State.unpickOpen (s : State) (core : Nat) (r : RunCmd) : State × RunCmd :=
  let last := fld r.csr.recst 16 48
  match s.ukRows core r last 1 with
  | .stop st => (s, { r with status := some st })
  | .pause => (s.setRec r.c (fun w => setFld w 3 1 1) id, { r with prog := noEntry, paused := true })
  | .ok xs =>
    let d := s.engReads xs
    if d.2.2 then (d.1, { r with status := some 0x08 })
    else if enSeq (d.2.1.headD 0) < aF r 0x10 8 then (d.1, { r with status := some 0x1C })
    else
      let s := d.1.setRec r.c (fun w => setFld w 3 1 1) id
      if aF r 0x18 1 % 2 = 0 then (s, { r with prog := last })
      else
        let s := r.gm.foldl (fun s e => s.putMem (spAddr core e.row + e.off + 0x15) 1 (e.flags &&& 0xFD).toNat) s
        (s, { r with prog := last, gm := r.gm.map fun e => { e with flags := e.flags &&& 0xFD } })
/-- An UNPICK at acceptance: refused while recording is open or with an empty log, else opened with the table copied (R371, R383). -/
def State.unpickStart (s : State) (core : Nat) (r : RunCmd) : State × RunCmd :=
  match s.cmdCtx r.c with
  | none => (s, { r with status := some 0x1C })
  | some n =>
    let c := s.ctx n
    let q1 := match c.task with | some t => decide (r.c.ctx < 2048 ∧ 4 ≤ t.prio) | none => false
    let r := { r with csr := c.csr, gm := s.gmapRead n, side := if q1 then 1 else 0 }
    if bit c.csr.recst 0 ∨ logLast c = noEntry then (s, { r with status := some 0x1C }) else s.unpickOpen core r
/-- A walk that ends with a status clears UNP. -/
def State.unpickEnd (s : State) (core : Nat) (r : RunCmd) (st : Nat) : State :=
  (s.setRec r.c (fun w => setFld w 3 1 0) id).setEng core .record (some { r with status := some st })
/-- After an entry: on to PREV, or the end, with POP (R383). -/
def State.unpickNext (s : State) (core : Nat) (r : RunCmd) (h : Row) : State :=
  if enSeq h ≤ aF r 0x10 8 ∨ trF h 0x18 8 = 2 ^ 64 - 1 then
    let s := if aF r 0x18 1 / 2 % 2 = 1 then
        s.setRec r.c (fun w => setFld w 16 48 (enPrev h)) (fun w => setFld w 0 48 r.prog) else s
    s.unpickEnd core r 0
  else s.setEng core .record (some { r with prog := enPrev h })
/-- What the ownership check says of a walk's adjoint: go on, wait, or trap (R184, R384). -/
inductive UkOwn where
  | go (s : State)
  | wait
  | trap (ctx tval : Nat)
  deriving DecidableEq, Repr
def State.ukOwn (s : State) (core : Nat) (r : RunCmd) (h : Row) : UkOwn :=
  if enQld h ∨ (enOp h ≠ 1 ∧ enOp h ≠ 2) ∨ 2048 ≤ r.c.ctx then .go s
  else
    match holderOf r.c.serial s.ctxs with
    | none => if bit (s.core core).accown 63 && fld (s.core core).accown 0 48 == r.c.serial % 2 ^ 48 then .go s else .wait
    | some n =>
      if (s.core core).run.isSome ∨ (s.ctx n).reports.any (fun x => x.cause == 0x08) = true then .wait
      else if s.accuse n then .trap n (bitsOf (enSlot h 3) 0 38 % 8 + if (s.ctx n).tileMark then 2 ^ 8 else 0)
      else .go (s.claimFor n)

/-- The entry's adjoint run and the walk moved on; poison met in a buffer stops it after the entry. -/
def State.ukDone (core : Nat) (r : RunCmd) (h : Row) (u : Uk) : State :=
  let r := { r with count := r.count + 1, gm := u.gm }
  if u.bad.isSome then (u.s.ukPoison r.c u.bad).unpickEnd core r 0x08 else u.s.unpickNext core r h
/-- The rows of a table and of a gradient table that a QLD entry needs. -/
def State.ukQld (s : State) (core : Nat) (r : RunCmd) (h : Row) (rows : List Row) (v0 : Option View) (v3 : View) : State :=
  let dim := enCopy h 0
  let coords := (rows.drop 1).take dim
  let d : BitVec 2048 := (rows.getD (1 + dim) 0).zeroExtend 2048 ||| ((rows.getD (2 + dim) 0).zeroExtend 2048 <<< 1024)
  let lv := (decM (enParcel h)).ext.toNat
  let n := (quNl d lv).getD 1
  let reads := quRows d lv n coords (enScal h)
  let writes := (((lanesOn (enScal h)).map fun i => (quCorners d n coords i).map fun c => quGrad d lv c.2 / 128).flatten).eraseDups
  let at' (ext : Nat) (w : Bool) (os : List Nat) : EngRows := s.engRows (os.map fun o => s.engAt core r.ext 2 ext w ((128 * o : Nat) : Int))
  match at' (quText d) false reads, at' (quGext d) true writes with
  | .stop st, _ => s.unpickEnd core r st
  | _, .stop st => s.unpickEnd core r st
  | .ok xs, .ok ys =>
    let t := s.engReads xs
    if t.2.2 then (t.1.ukPoison r.c (t.1.firstPoison xs)).unpickEnd core r 0x08
    else
      let table (o : Nat) : Row := match reads.idxOf? o with | some k => t.2.1.getD k 0 | none => 0
      let grad (o : Nat) : W64 := match writes.idxOf? o with | some k => ys.getD k 0 | none => 0
      State.ukDone core r h ((Uk.mk t.1 core r.gm none).adjQld r.c.part h coords d v0 v3 table grad fun x => { Ctx.reset with ext := r.ext }.confAt x)
  | _, _ => s.setEng core .record (some { r with paused := true })
/-- The adjoint commands of an entry: one for each 32 × 32 block of dA and of dB (R380). -/
def adjCmds (h : Row) : Nat :=
  let k := mxK (decX (enParcel h)).fmta.toNat / 32
  match enOp h with
  | 1 => 2 * k
  | 2 => 4 * k
  | _ => 0
/-- An adjoint command of a walk, which uses no tile (R142, R380). -/
def State.adjCmd (s : State) (core : Nat) (r : RunCmd) : MxCmd :=
  ⟨16, noXArgs, r.c.ctx, r.side == 1, 0, [], 0, 0, none, core, none, [], s.dev.mxIds, s.dev.mxIds, r.c.ctx, r.c.serial, 0, 0, [], none, none, false, 0⟩
/-- The next adjoint command of the walk's entry enters its queue, once the one before it is complete and the queue has room. -/
def State.adjPush (s : State) (core : Nat) (r : RunCmd) : State :=
  let c := s.adjCmd core r
  if r.adjId.any (s.core core).mxHas || s.mxFull c then s
  else (s.mxPush c).setEng core .record (some { r with adj := r.adj + 1, adjId := some c.id })
/-- One entry, its rows at hand (R383). -/
def State.ukOne (s : State) (core : Nat) (r : RunCmd) (rows : List Row) : State :=
  let h := rows.headD 0
  match slotView r.gm h 0, (if enQld h then .ok none else slotView r.gm h 1), slotView r.gm h 3 with
  | _, _, .ok none => s.unpickNext core { r with count := r.count + 1 } h
  | .ok v0, .ok v1, .ok (some v3) =>
    if enQld h then s.ukQld core r h rows v0 v3
    else
      match s.ukVals core r h rows with
      | .stop s st => s.unpickEnd core r st
      | .pause => s.setEng core .record (some { r with paused := true })
      | .ok s a b c =>
        match s.ukOwn core r h with
        | .wait => s
        | .trap n tval => s.report n 0x08 (BitVec.ofNat 64 tval)
        | .go s =>
          if adjCmds h ≤ r.adj ∧ r.adjId.all (fun id => !(s.core core).mxHas id) = true then
            State.ukDone core { r with adj := 0, adjId := none } h ((Uk.mk s core r.gm none).adjoint h v0 v1 v3 a b c)
          else s.adjPush core r
  | _, _, _ => s.unpickEnd core r 0x1C
/-- UNPICK_ENTRY. `unit`: the core. No entry is taken while the launch is halted (R369) (DESIGN CHOICE, log 81) (DEDUCED, log 99). -/
def execUnpickEntry (s : State) : Host.Outcome State Fault Refusal :=
  let core := s.unit
  match (s.core core).recE with
  | none => .next s
  | some r =>
    if r.status.isSome ∨ s.haltedCmd r.c = true then .next s
    else if r.prog = noEntry then
      let x := s.unpickOpen core r
      .next (match x.2.status with | some st => x.1.unpickEnd core x.2 st | none => x.1.setEng core .record (some x.2))
    else
      match s.ukEntry core r r.prog with
      | .stop s st => .next (s.unpickEnd core r st)
      | .pause => .next (s.setEng core .record (some { r with paused := true }))
      | .ok s rows _ _ => .next (s.ukOne core { r with paused := false } rows)

end Sys2Proof.Machine
end

