-- ==== Sys2Proof/Machine/EngRun.lean ====
section
/-! DEFINITION. Engines at work: acceptance, chunks, LIVE bounds of a loop, and completion (R69, R76, R77, R146, R164, R356, R357, R369). -/

namespace Sys2Proof.Machine

/-! Acceptance (R76, R146, R356). -/

/-- What an XCHG that names peers by a tree finds at acceptance (R70); of a tree of another device it is free (log 34). -/
def State.xchgTree (s : State) (r : RunCmd) : State × RunCmd :=
  let h := lnrF r.lnr 0x1C 4
  if lnDspace r.lnr ≠ 3 ∨ h = 0 then (s, r)
  else if s.mine (hOwner (BitVec.ofNat 32 h)) = false then
    match s.farRef r.c.part (BitVec.ofNat 32 h) with
    | .tree e => (s.freed true, { r with ent := e.truncate 1024, aux := BitVec.ofNat 64 s.dev.fresh })
    | .stale => ((s.freed true).treeFault r.c h, { r with status := some 3 })
  else match s.treeRef r.c.part (BitVec.ofNat 32 h) with
    | .tree _ => (s, r)
    | .stale => (s.treeFault r.c h, { r with status := some 3 })
/-- The mapping row of a command with PUBLISH, loaded if it has not been (R166). -/
def State.pairUp (s : State) (core : Nat) (r : RunCmd) : State × RunCmd := if r.unpaired then s.loadPair core r else (s, r)
/-- What each command does when it starts, its checks passed. -/
def State.startOp (s : State) (core : Nat) (r : RunCmd) : State × RunCmd :=
  if r.status.isSome then (s, r)
  else match r.c.op with
    | 5 => s.postStart core r
    | 1 | 2 | 3 => s.pairUp core r
    | 6 => let x := s.xchgTree r; x.1.pairUp core x.2
    | 7 => s.esendStart r
    | 9 => s.unpickStart core r
    | 0x0A => (s, { r with prog := (s.reg 0x302).toNat, aux := s.now })
    | 0x0E => let t := s.treeCmd core r; (t.1, { r with status := some t.2.1 })
    | 0x14 => s.wplanStart core r
    | _ => (s, r)
/-- An engine begins a command. -/
def State.beginCmd (s : State) (core : Nat) (e : Eng) (c : EngCmd) : State :=
  let x := s.startRun c
  let x := (x.1.markIrrev c).startOp core x.2
  x.1.setEng core e (some x.2)
/-- A priority collective that waited for its stores moved into the 4-deep FIFO of the shadow set. -/
def State.fillPrio (s : State) (core : Nat) : State :=
  if 4 ≤ (s.core core).prio.length then s
  else match s.pickPrio core with
    | some (key, c) => (s.takeHead core .shadow key c).modCore core fun k => { k with prio := k.prio ++ [c] }
    | none => s
/-- The shadow set takes the head of the FIFO. -/
def State.startPrio (s : State) (core : Nat) : State :=
  if (s.core core).shadowE.isSome then s
  else match (s.core core).prio with
    | c :: rest => (s.modCore core fun k => { k with prio := rest }).beginCmd core .shadow c
    | [] => s
/-- ENGINE_ACCEPT. A core under a dead map bit accepts nothing. -/
def execEngineAccept (core : Nat) (e : Eng) (s : State) : Host.Outcome State Fault Refusal :=
  if !(s.map.cores.getLsbD core) then .next s
  else match e with
    | .shadow => .next ((s.fillPrio core).startPrio core)
    | e =>
      if ((s.core core).engine e).isSome then .next s
      else match s.pickHead core e with
        | some (key, c) => .next ((s.takeHead core e key c).beginCmd core e c)
        | none => .next s

/-! Chunks (R68, R77). -/

/-- A walk's next piece: its mapping row first, if it is still to be loaded (R166), then LIVE bounds, read after every transfer of the run before has
performed (R69), then a transfer. -/
def State.walkChunk (s : State) (core : Nat) (e : Eng) (r : RunCmd) (n : Nest) : State :=
  let x := s.pairUp core r
  let s := x.1.setEng core e (some x.2)
  let r := x.2
  if r.unpaired ∨ r.status.isSome ∨ (n.await.isSome = true ∧ s.engOut core e = true) then s
  else
    let w := s.walkLive n 64
    let r := { r with nest := some w.2 }
    let s := w.1.setEng core e (some r)
    if w.2.done ∨ w.2.await.isSome then s
    else match r.c.op with
      | 2 => s.offlStep core r w.2
      | 3 => s.onldStep core r w.2
      | _ => s.walkStep core e r w.2
/-- A command's next piece of work: nothing when it has its status or its launch is halted (R188). -/
def State.chunk (s : State) (core : Nat) (e : Eng) (r : RunCmd) : State :=
  if r.status.isSome ∨ s.haltedCmd r.c = true then s
  else match r.c.op, r.nest with
    | 5, _ => s.postChunk core e r 16
    | 7, _ => s.esendChunk core r
    | 0x0B, _ => s.drainGo core r
    | _, some n => s.walkChunk core e r n
    | _, none => s
def State.chunkOf (s : State) (core : Nat) (e : Eng) : State :=
  match (s.core core).engine e with | some r => s.chunk core e r | none => s
/-- CHUNK_BOUNDARY. `unit`: the core; `arg`: 0 its collective engine, 1 its copy engine, 2 its offload engine. The shadow set goes before
the main one while it can inject. -/
def execChunkBoundary (s : State) : Host.Outcome State Fault Refusal :=
  let core := s.unit
  match s.arg with
  | 0 =>
    let t := s.chunkOf core .shadow
    .next (if (t.core core).shadowE = (s.core core).shadowE then s.chunkOf core .main else t)
  | 1 => .next (s.chunkOf core .copy)
  | _ => .next (s.chunkOf core .offload)

/-- LIVE_BOUND_READ: the bound that the loop of a context waits for (R69, R147). `unit`: the context. -/
def execLiveBoundRead (s : State) : Host.Outcome State Fault Refusal := .next (s.liveAsk s.unit)

/-! Completion (R164, R357). -/

/-- The mapping rows of an XCHG's further peers (log 36). -/
def State.morePairs (s : State) (core : Nat) (r : RunCmd) : List W64 :=
  (r.peers.filter fun p => lnDspace r.lnr == 3 && p.1 != firstPeer r.lnr).filterMap fun p =>
    match s.pairRow core r p.1 with | .ok (x :: _) => some x | _ => none
/-- The end of a walk, with its PUB. -/
def State.walkEnd (s : State) (core : Nat) (r : RunCmd) : Option (State × Nat × Nat) :=
  match r.nest with
  | some n =>
    if n.done = false ∨ r.unpaired = true then none
    else if lnPub r.lnr then (s.pubAt core r (s.pairRow core r (firstPeer r.lnr)) (s.morePairs core r) none (lnrF r.lnr 3 1)).map fun x => (x.1, x.2.1, r.count)
    else some (s, 0, r.count)
  | none => none
/-- A command's end: state, status and COUNT, if it can end now. TREE.FREEZE, carried out at acceptance, and TREE.SAVE wait until every flit sent
toward a seam of the tree has landed (R62). -/
def State.endOf (s : State) (core : Nat) (r : RunCmd) : Option (State × Nat × Nat) :=
  let quiet := s.treeQuiet (treePart r) (treeHandle r)
  match r.status with
  | some st =>
    if r.c.op = 0x0E ∧ st = 0 ∧ quiet = false then none
    else some ({ s with posted := s.posted.filter fun p => p.cmd != r.c.id || r.c.op != 5 }, st, r.count)
  | none =>
    match r.c.op with
    | 1 | 2 | 3 | 6 => s.walkEnd core r
    | 4 => s.pubAt core r (s.engRows [s.engAt core r.ext (aF r 0x10 1) (aF r 0x11 1) true (128 * ((aF r 0x18 8 : Nat) : Int))]) [] (some (aF r 0x12 1)) (aF r 0x13 1)
    | 5 => s.postEnd r
    | 7 => s.esendEnd r
    | 8 => s.dictEnd core r
    | 9 => none
    | 0x0A => s.ckptEnd core r
    | 0x0B => s.drainEnd r
    | 0x14 => if r.prog = 1 ∧ s.wp = none then some (s, 0, 0) else none
    | 0x15 => some (s.etabEnd r)
    | 0x0F => if quiet then some (s.treeCmd core r) else none
    | _ => some (s.treeCmd core r)
/-- The status record's 16 bytes. -/
def statusRec (st count : Nat) (now : W64) : Nat := st % 256 + 2 ^ 8 + 2 ^ 16 * (count % 2 ^ 48) + 2 ^ 64 * now.toNat
/-- The status record, then the flag, while the task lives; a handler's command always has both (R173, R357). -/
def State.tellEnd (s : State) (core : Nat) (c : EngCmd) (st count : Nat) : State :=
  if c.ctx < 2048 ∧ holderOf c.serial s.ctxs = none ∧ savedOf c.serial s.saves = none then s
  else
    let s := s.storeMem (spAddr core c.row) (BitVec.ofNat 1024 (statusRec st count s.now)) (BitVec.ofNat 1024 (2 ^ 128 - 1)) false
    if c.a.flag = 15 then s
    else if 2048 ≤ c.ctx then s.setFlag c.ctx c.a.flag.toNat
    else s.setTaskFlag c.serial c.a.flag.toNat false 0
/-- ENGINE_COMMAND_COMPLETE. A command whose rows another device has not acknowledged goes on; when another engine of
the core still waits for such an answer, so does this one. -/
def execEngineCommandComplete (core : Nat) (e : Eng) (s : State) : Host.Outcome State Fault Refusal :=
  match (s.core core).engine e with
  | none => .next s
  | some r =>
    if s.engOut core e = true ∨ s.haltedCmd r.c = true then .next s
    else match s.endOf core r with
      | none => .next s
      | some x =>
        if x.1.engOut core e then .next (x.1.setEng core e (some { r with status := some x.2.1, count := x.2.2 }))
        else .next (((x.1.tellEnd core r.c x.2.1 x.2.2).setEng core e none).tryFinish r.c.cmd)

end Sys2Proof.Machine
end

