-- ==== Sys2Proof/Machine/Sched.lean ====
section
/-! DEFINITION. The die schedulers: translation, placement, dispatch and resumption of tasks, pre-emption, the watchdog and XCTL (R18, R93, R100,
R102 to R104, R107, R111, R112, R114 to R122, R148, R181 to R186). -/

namespace Sys2Proof.Machine

/-! Translation and parking (R117, R119). -/

/-- RESMASK's bits in a table (R93). -/
def markRes (mask : BitVec 16) (es : List Extent) : List Extent :=
  (List.range es.length).map fun i => let e := (es[i]?).getD Extent.none; { e with res := e.valid && mask.getLsbD i }
/-- The fault record of a parked entry (R119): `va`, range and kind of the failed walk. -/
def State.faultRecord (s : State) (e : Entry) (f : WalkFault) (i va : Nat) : Nat :=
  match s.groups.find e.group with
  | none => 0
  | some g =>
    let c := s.cmds.find g.cmd
    let q := match c with | some c => c.queue | none => 0
    let seq := match c with | some c => enSEQ c.entry | none => 0
    let cont := e.kind == .cont || (match s.saves.find e.slot with | some v => e.kind == .resumed && v.task.cont | none => false)
    va + 2 ^ 64 * f.code + 2 ^ 72 * s.partOf e.group + 2 ^ 80 * i + 2 ^ 88 * q + 2 ^ 96 * g.idx + 2 ^ 128 * seq +
      (if e.kind = .new then 0 else 2 ^ 192 * e.rank + 2 ^ 203) + (if cont then 2 ^ 204 else 0)
/-- An entry parked, once the fault ring has room (DEDUCED, log 111). -/
def State.park (s : State) (key : Nat) (e : Entry) (f : WalkFault) (i va : Nat) : State :=
  let n := 2 ^ fld (s.reg 0x316) 0 5
  let p := (s.reg 0x317).toNat
  if n ≤ (p + 2 ^ 64 - (s.reg 0x318).toNat) % 2 ^ 64 then s
  else
    let s' := s.putMem (s.baseAt 0x316 12 + p % n * 32) 32 (s.faultRecord e f i va)
    let s' := s'.setReg 0x317 (BitVec.ofNat 64 (p + 1))
    let vec := match (s.groups.find e.group).bind fun g => s.cmds.find g.cmd with | some c => (s.hq c.queue).vec | none => 0
    { s' with entries := s'.entries.put key { e with st := .parked }, dev := { s'.dev with msix := s'.dev.msix ++ [vec] } }
/-- TRANSLATION_COMPLETE (R114, R117). `unit`: the scheduler entry. -/
def execTranslationComplete (s : State) : Host.Outcome State Fault Refusal :=
  match s.entries.find s.unit with
  | none => .next s
  | some e =>
    if e.st ≠ .translating then .next s
    else
      let mask := match s.groups.find e.group with | some g => g.resmask | none => 0
      match s.extentsOf (s.dieOfEntry e) (s.partOf e.group) e.trec with
      | (s, .ok es) => .next { s with
          entries := s.entries.put s.unit { e with st := .ready, ext := markRes mask es, order := maxOrder s.entries + 1 } }
      | (s, .error (f, i, va)) => .next (s.park s.unit e f i va)

/-! Placement (R100, R102). -/

/-- What an image's placement requirements ask for (R98, R100). -/
abbrev Needs := Nat × Nat × Nat
/-- The requirements of the image at an address: dies, panels per die, live cores per panel, from its section of TYPE 9, whose form is not given: a free
function of the section's bytes (log 128). An image without such a section asks for none. -/
def State.needs (s : State) (a : Nat) : Needs :=
  match s.sectionOf a 9 with
  | some x => Config.placementNeeds (s.bytes (a + x.2.1) (min x.2.2.1 128)) x.2.2.1
  | none => (0, 0, 0)
/-- The requirements under which a command's groups are placed. -/
def State.needsOf (s : State) (cmd : Nat) : Needs := match s.launchOf cmd with | some l => s.needs (l.image.toNat % 2 ^ 58) | none => (0, 0, 0)
def State.liveOf (s : State) (ns : List Nat) : List Nat := ns.filter s.map.cores.getLsbD
/-- Live cores of a panel, ascending. -/
def State.panelCores (s : State) (p : Nat) : List Nat := s.liveOf (coresOfPanel p)
/-- The panels of a die with enough live cores, in logical order (R100). -/
def State.panelsOn (s : State) (nd : Needs) (d : Nat) : List Nat :=
  ((List.range 4).map (4 * d + ·)).filter fun p => let n := (s.panelCores p).length; decide (0 < n) && decide (nd.2.2 ≤ n)
/-- The live dies with enough such panels, in logical order (R100). -/
def State.diesFor (s : State) (nd : Needs) : List Nat := (List.range 8).filter fun d => s.dieLive d && decide (nd.2.1 ≤ (s.panelsOn nd d).length)
/-- The cores of a die's logical panels, and of the device's, in logical order. -/
def State.dieCores (s : State) (nd : Needs) (d : Nat) : List Nat := (s.panelsOn nd d).flatMap s.panelCores
def State.allCores (s : State) (nd : Needs) : List Nat := (s.diesFor nd).flatMap (s.dieCores nd)
/-- The units of a group level on a home die, in logical order, each as its live cores. A level-0 group's unit is a core's context. -/
def State.unitsOn (s : State) (nd : Needs) (level die : Nat) : List (List Nat) :=
  (match level with
  | 0 | 1 => (s.dieCores nd die).map fun n => [n]
  | 2 => (s.panelsOn nd die).map s.panelCores
  | 3 => [s.dieCores nd die]
  | _ => [s.allCores nd]).filter fun u => !u.isEmpty
/-- The cores among which a task is placed again when its own is dead: its unit's (R102) (DEDUCED, log 57). -/
def State.unitOf (s : State) (nd : Needs) (level core : Nat) : List Nat :=
  match level with
  | 0 | 3 => s.dieCores nd (dieOfCore core)
  | 1 => s.liveOf [core]
  | 2 => s.panelCores (panelOfCore core)
  | _ => s.allCores nd
/-- Whether a free context may be taken for an entry: not one held for something else (R90, R115). -/
def State.ctxFree (s : State) (key cmd n : Nat) : Bool :=
  let c := s.ctx n
  c.task.isNone && (match c.held with
    | none => true
    | some (false, k) => k == key || (s.entries.find k).isNone
    | some (true, k) => k == cmd || (match s.cmds.find k with | some d => d.st != .accepted | none => true))
/-- T tasks on the cores of a unit: task r on core r mod C, each in the lowest free context (R102). -/
def State.placeOn (s : State) (key cmd : Nat) (cores : List Nat) : Nat → Option (List Nat)
  | 0 => some []
  | r + 1 =>
    match s.placeOn key cmd cores r with
    | none => none
    | some taken =>
      match cores[r % cores.length]? with
      | none => none
      | some n => (((List.range 4).map (4 * n + ·)).find? fun c => s.ctxFree key cmd c && !(taken.contains c)).map fun c => taken ++ [c]
/-- The core a continuation or a resumed task runs on, if there is one. -/
def State.homeCore (s : State) (g : Group) (e : Entry) : Option Nat :=
  if s.map.cores.getLsbD e.core then some e.core
  else let u := s.unitOf (s.needsOf g.cmd) g.level e.core; if u.isEmpty then none else u[e.lcore % u.length]?
/-- A saved task may come back once its queued accesses have performed (R181, R183; log 48), a continuation once no piece of its frame waits for a REMAP
(R120). -/
def State.slotQuiet (s : State) (e : Entry) : Bool :=
  match e.kind with
  | .resumed => match s.saves.find e.slot with | some v => v.q.isEmpty | none => false
  | .cont => s.frameIs { Ctx.reset with ext := e.ext } e.trec != .waits
  | .new => true
/-- The units an entry may be placed on, and its number of tasks. -/
def State.unitsFor (s : State) (g : Group) (e : Entry) : List (List Nat) × Nat :=
  match e.kind with
  | .new => (s.unitsOn (s.needsOf g.cmd) g.level g.die, g.size)
  | _ => (match s.homeCore g e with | some n => [[n]] | none => [], 1)
/-- Where an entry can be dispatched now: the contexts of its tasks, by rank. -/
def State.place (s : State) (key : Nat) (e : Entry) : Option (List Nat) :=
  match s.groups.find e.group with
  | none => none
  | some g =>
    let u := s.unitsFor g e
    if s.slotQuiet e then u.1.findSome? fun cores => s.placeOn key g.cmd cores u.2 else none

/-! Dispatch (R18, R103, R111, R112, R115, R148). -/

/-- PDL from PDLTAB for a class (R115, R123). -/
def State.pdlOf (s : State) (cls : Nat) : W64 := BitVec.ofNat 64 (2 ^ fld (s.reg 0x311) (5 * cls) 5)
/-- Place of x in a list. -/
def placeIn (x : Nat) (l : List Nat) : Nat := (l.idxOf? x).getD 0
/-- The logical place of a core: core of its panel, panel of its die, die (R100), and core of its group's unit (R102) (DEDUCED, log 58). -/
def State.logical (s : State) (nd : Needs) (level core : Nat) : Nat × Nat × Nat × Nat :=
  let d := dieOfCore core
  (placeIn core (s.panelCores (panelOfCore core)), placeIn (panelOfCore core) (s.panelsOn nd d), placeIn d (s.diesFor nd),
    placeIn core (s.unitOf nd level core))
/-- The core at a logical place (R100). -/
def State.placedCore (s : State) (nd : Needs) (die panel core : Nat) : Option Nat :=
  match (s.diesFor nd)[die]? with
  | none => none
  | some d => match (s.panelsOn nd d)[panel]? with
    | none => none
    | some p => (s.panelCores p)[core]?
/-- A group's task as it stands on a context. -/
def State.taskOn (s : State) (g : Group) (e : Entry) (rank n : Nat) : TaskRun :=
  let l := s.logical (s.needsOf g.cmd) g.level (n / 4)
  ⟨e.serial + (if e.kind = .new then rank else 0), e.kind == .cont, s.partOf e.group, trSet e.trec 0x1A 2 (trF e.trec 0x1A 2 / 2 ^ 11 * 2 ^ 11 + rank),
    e.group, g.idx, rank, g.size, g.level, trPrio e.trec, g.cmd, g.resmask, l.1, l.2.1, l.2.2.1, if e.kind = .new then l.2.2.2 else e.lcore⟩
/-- DICTB and DICTL from the core's region table (R148). -/
def State.dictFor (s : State) (core : Nat) (r : Row) : W64 × W64 :=
  match (s.core core).regionOf (trDict r) with
  | some x => (BitVec.ofNat 64 (x.1 % 2 ^ 14), BitVec.ofNat 64 (x.2 % 2 ^ 15))
  | none => (0, 0)
/-- A context as a task finds it at its first dispatch (R112). What earlier tasks still have on the way stays with the context (DEDUCED, log 76). -/
def State.freshCtx (s : State) (n : Nat) (t : TaskRun) : Ctx :=
  let c := s.ctx n
  let d := s.dictFor (n / 4) t.trec
  { Ctx.reset with
      csr := { Csrs.reset with
        tvec := c.csr.tvec, rdvto := c.csr.rdvto, pdl := s.pdlOf t.prio, dictb := d.1, dictl := d.2, extbase := s.here (extTable n)
        ackver := s.reg 0x302 }
      pc := trEntry t.trec, next := trEntry t.trec, task := some t, last := t.serial, q := c.q, past := c.engs, ops := c.ops, esend := c.esend
      goneAt := c.goneAt }
/-- A launch starts when its first task runs (R90) (DEDUCED, log 110). -/
def State.startLaunch (s : State) (cmd : Nat) : State :=
  match s.cmds.find cmd with
  | some c => if c.st = .accepted then let d := c.startedNow; { s with cmds := s.cmds.put cmd d }.writeRec d else s
  | none => s
/-- A task set up on a context with its extents. -/
def State.seat (s : State) (n : Nat) (t : TaskRun) (es : List Extent) : State :=
  ((s.setCtx n (s.freshCtx n t)).setExt n es).startLaunch t.cmd

/-! Continuations (R111). -/

/-- Row i of the frame, as the context that continues reads it, with its poison. -/
def State.frameRow (s : State) (n : Nat) (r : Row) (i : Nat) : Row × Option (Nat × W64) :=
  match frameAddr (s.ctx n) r (trSsptr r + 128 * i) with
  | some x => (s.peek x, if s.mine (devOf x) then s.poisonOf (localOf x) else none)
  | none => (0, none)
/-- k words of w bits from rows `lo` on of a frame, as a table. -/
def frameTable (w per : Nat) (row : Nat → Row) (lo n : Nat) : AMap Nat :=
  (List.range n).map fun i => (i, (row (lo + i / per)).toNat / 2 ^ (w * (i % per)) % 2 ^ w)
def tableOf {α : Type} (f : Nat → α) (m : AMap Nat) : AMap α := (m.filter fun x => x.1 != 0).map fun x => (x.1, f x.2)
/-- The saved registers of a continuation. A frame that REMAP has refused meanwhile traps EXTREVOKED at the first boundary (R120; DESIGN CHOICE, log 31)
(DEDUCED, log 62). -/
def State.loadFrame (s : State) (n : Nat) (t : TaskRun) : State :=
  let r := t.trec
  let m := trSsmask r
  let row (i : Nat) : Row := (s.frameRow n r i).1
  let row0 := row 0
  let rrb : W64 := keepFields 0 (BitVec.ofNat 64 (trF row0 64 8)) [(0, 10)]
  let regs := if trNv r = 0 then [] else rangeRegs (frameRanges row0 (trNv r))
  let used := 0 :: ((if m % 2 = 1 then [1, 2, 3, 4] else []) ++ (if m / 2 % 2 = 1 then [5] else []) ++
    (if m / 8 % 2 = 1 then (List.range 8).map (6 + ·) else []) ++ (List.range regs.length).map (14 + ·))
  let bad := used.findSome? fun i => (s.frameRow n r i).2
  s.modCtx n fun c => { c with
      csr := { c.csr with rrb := rrb }
      f := if m / 4 % 2 = 1 then BitVec.ofNat 16 (trF row0 72 2 % 2 ^ 15) else 0
      s := if m % 2 = 1 then tableOf (BitVec.ofNat 64) (frameTable 64 16 row 1 64) else []
      g := if m / 2 % 2 = 1 then tableOf (BitVec.ofNat 33) (frameTable 64 16 row 5 16) else []
      k := if m / 8 % 2 = 1 then tableOf (BitVec.ofNat 256) (frameTable 256 4 row 6 32) else []
      reports := match s.frameIs c r with | .trap cause tval => [⟨cause, BitVec.ofNat 64 tval, 0, none⟩] | _ => []
      v := (List.range regs.length).foldl (fun v i => v.put (physV rrb (regs.getD i 0)) (row (14 + i))) []
      poisoned := bad }

/-! Resumption (R181 to R183, R186). -/

/-- Byte fields of an image. -/
def State.im (s : State) (a off n : Nat) : Nat := s.bytes (a + off) n
/-- Vector registers of an image. -/
def State.imVecs (s : State) (a : Nat) : AMap Row :=
  (List.range 2048).filterMap fun p => let r := s.rawRow (a + 128 * p); if r = 0 then none else some (p, r)
/-- n registers of w bits in 8 B or 32 B places. -/
def State.imRegs {α : Type} (s : State) (a off bytes lo n : Nat) (f : Nat → α) : AMap α :=
  (List.range n).filterMap fun i => if i < lo then none else
    let v := s.im a (off + bytes * i) bytes
    if v = 0 then none else some (i, f v)
/-- The kind of a landing-buffer entry by its code. -/
def lkindOf (n : Nat) : LKind :=
  match n with
  | 1 => .scalar
  | 2 => .guard
  | 3 => .scale
  | 4 => .row
  | _ => .vec
/-- The CSR row of an image over a context's CSRs: reserved bits read 0 (R6). -/
def State.imCsrs (s : State) (a : Nat) (old : Csrs) : Csrs :=
  let w (i : Nat) : W64 := BitVec.ofNat 64 (s.im a (0x40780 + 8 * i) 8)
  let t (i : Nat) : W64 := BitVec.ofNat 64 (s.im a (0x40800 + 8 * i) 8)
  let f (v : W64) (fs : List (Nat × Nat)) : W64 := keepFields 0 v fs
  { old with
      rrb := f (BitVec.ofNat 64 (s.im a 0x40308 8)) [(0, 10)], fpstat := f (w 0) [(0, 6)], fpmode := f (w 1) [(0, 3), (8, 6)]
      logb := f (w 2) [(0, 48), (58, 4), (62, 2)], logh := f (w 3) [(0, 48)], logl := f (w 4) [(0, 48)], recst := f (w 5) [(0, 1), (3, 1), (16, 48)]
      gmap := f (w 6) [(0, 15), (16, 9)], rngsel := f (w 7) [(0, 12)], tvec := f (w 8) [(0, 49)], dictb := f (w 10) [(0, 14), (16, 14)]
      dictl := f (w 11) [(0, 15), (16, 15)], rdvto := f (w 13) [(0, 32)], ackver := w 14
      tcause := f (t 0) [(0, 8)], tval := t 1, tpc := f (t 2) [(0, 48)], tframe := f (t 3) [(0, 2), (28, 24), (56, 8)] }
/-- The landing buffer of an image (R182, R183): an entry as the save kept it, with the data that stands in its row; one that is not the save's own has
its metadata and its whole row (DESIGN CHOICE, log 130). -/
def State.imLand (s : State) (a schc : Nat) (kept : List LandEntry) : List LandEntry :=
  (List.range 96).filterMap fun i =>
    let w := s.im a (0x40D00 + 8 * i) 8
    let at' := a + 0x41000 + 128 * i
    let own := kept[i]?.bind fun e => if imgLand schc e = w then some e else none
    if w / 2 ^ 63 = 0 then none
    else match own with
      | some e => some (if e.got then { e with data := s.rawRow at', poison := if s.isPoison at' then e.poison.orElse fun _ => s.poisonOf at' else none } else e)
      | none => some ⟨lkindOf (w / 2 ^ 60 % 8), w % 2 ^ 11, schc + w / 2 ^ 48 % 2 ^ 9, schc, gsBit, 0, s.rawRow at', fullMask, 0, s.poisonOf at', true, none, 0,
          none, 0⟩
/-- The loop of an image: its body expanded again, its bounds read again from the record (R147, R182). -/
def State.imLoop (s : State) (n a : Nat) : State × Option LoopSt :=
  if s.im a 0x4034B 1 = 0 then (s, none)
  else
    let body : CodeAddr := BitVec.ofNat 48 (s.im a 0x40340 8)
    let len := s.im a 0x40348 1
    let pos := s.im a 0x40349 1
    let at' := s.im a 0x4034C 8
    let read := s.bodyFrom n 0 body len
    let buf := read.2
    let rec' : BitVec 2048 := (s.rawRow at').zeroExtend 2048 ||| ((s.rawRow (at' + 128)).zeroExtend 2048 <<< 1024)
    let nest := { nestOf rec' with
      idx := (List.range 6).map fun i => s.im a (0x40310 + 4 * i) 4
      run := (List.range 6).map fun i => s.im a (0x40328 + 4 * i) 4
      await := none, done := false }
    (read.1, some ⟨buf, (match buf.getLast? with | some e => e.next | none => body), if pos = len then 0 else pos, pos == len, nest,
      (at' - Config.spBase) / 128 % Config.spRows, body, none⟩)
/-- The engine queue of an image, with numbers of its own. -/
def State.imEngs (s : State) (n a : Nat) (t : TaskRun) (es : List Extent) : List EngCmd :=
  (List.range 16).filterMap fun i =>
    let w := s.im a (0x40C80 + 8 * i) 8
    if w / 2 ^ 63 = 0 then none
    else
      let p := w % 2 ^ 32
      some ⟨p % 64, decE p, w / 2 ^ 32 % 2 ^ 15, n, t.serial, t.part, t.cmd, false, s.dev.mxIds + i, es, 0, 0⟩
/-- Spilled extents copied back to where their pieces lie now (R93). -/
def State.unspill (s : State) (es : List Extent) (spill : List (Nat × Nat × Nat)) : State :=
  spill.foldl (fun s x => match es[x.1]? with | some e => s.copyRows x.2.2 (localOf e.base) x.2.1 | none => s) s
/-- Matrix commands of a saved task go back to their queue, to be fetched from row 0 (R181). -/
def State.requeueMx (s : State) (n : Nat) (cs : List MxCmd) : State :=
  cs.foldl (fun s c => s.mxPush { c with
    ctx := n, tgt := n, home := n / 4, id := s.dev.mxIds, entered := s.dev.mxIds, rows := [], bad := none, asked := none, stopped := false
    ready := s.cyc n + 3, ops := 0 }) s
/-- A saved task comes back to a context, where a load that was stopped part-way goes on as after RESUME (R180, R183; DEDUCED, log 130). -/
def State.restore (s : State) (n key : Nat) (v : Saved) (es : List Extent) : State :=
  let a := v.addr
  let old := v.ctx / 4 == n / 4
  let l := s.logical (s.needsOf v.task.cmd) v.task.level (n / 4)
  let t := { v.task with lcore := l.1, lpanel := l.2.1, ldie := l.2.2.1 }
  let s := s.unspill es v.spill
  let c := s.freshCtx n t
  let csr := s.imCsrs a c.csr
  let csr := if old then csr else { csr with dictb := c.csr.dictb, dictl := c.csr.dictl }
  let oldB := s.im a 0x40354 2
  let oldL := s.im a 0x40356 2
  let held := old && (s.core (n / 4)).region.any fun r => r.2.2.1 == oldB && r.2.2.2 == oldL
  let same := BitVec.ofNat 64 (s.im a 0x40008 8) == s.reg 0x302
  let f : BitVec 16 := BitVec.ofNat 16 (s.im a 0x40300 2 % 2 ^ 15)
  let pc : CodeAddr := BitVec.ofNat 48 (s.im a 0x40028 8)
  let c := { c with
    v := s.imVecs a, s := s.imRegs a 0x40080 8 1 64 (BitVec.ofNat 64), g := s.imRegs a 0x40280 8 1 16 (BitVec.ofNat 33)
    k := s.imRegs a 0x40380 32 0 32 (BitVec.ofNat 256), f := if same then f else f ||| 0x8000, grace := !same
    ix := (List.range 6).map fun i => BitVec.ofNat 32 (s.im a (0x40310 + 4 * i) 4)
    csr := if same then { csr with ackver := s.reg 0x302 } else csr, pc := pc, next := pc, schc := s.im a 0x40020 8
    land := s.imLand a (s.im a 0x40020 8) v.land, reports := v.reports, cap := v.cap, hold := v.hold
    oldBase := oldB, oldLen := if held then oldL else 0, owed := s.im a 0x40358 1
    tileMark := s.im a 0x4003C 1 / 4 % 2 == 1 || s.im a 0x40005 1 == 0xFF
    ops := (v.land.map fun (e : LandEntry) => e.op).foldl max c.ops }
  let es' := s.imEngs n a t es
  let s := s.setCtx n { c with eq := c.eq ++ es' }
  let s := { s with dev := { s.dev with mxIds := s.dev.mxIds + 16 }, saves := s.saves.del key }
  let s := (s.setExt n es).modCtx n fun c => { c with gmapT := if bit c.csr.recst 0 then s.gmapRead n else [] }
  let l := s.imLoop n a
  let s := l.1.modCtx n fun c => { c with lp := l.2 }
  let r := BitVec.ofNat 64 (s.im a 0x407B8 8)
  let s := if bit r 63 then s.bindRng n (fld r 0 12) else s
  ((s.requeueMx n v.mx).goOn n).startLaunch t.cmd

/-! The dispatch decision (R114, R115). -/

/-- An entry dispatched to contexts, by rank. -/
def State.dispatch (s : State) (key : Nat) (e : Entry) (ctxs : List Nat) : State :=
  match s.groups.find e.group with
  | none => s
  | some g =>
    let s := { s with entries := s.entries.del key }
    match e.kind with
    | .new => (List.range ctxs.length).foldl (fun s r => let n := ctxs.getD r 0; s.seat n (s.taskOn g e r n) e.ext) s
    | .cont =>
      let n := ctxs.headD 0
      let t := s.taskOn g e e.rank n
      (s.seat n t e.ext).loadFrame n t
    | .resumed => match s.saves.find e.slot with | some v => s.restore (ctxs.headD 0) e.slot v e.ext | none => s
/-- Class, then age. -/
def entryLt (a b : Nat × Entry) : Bool :=
  decide (trPrio a.2.trec < trPrio b.2.trec) || (trPrio a.2.trec == trPrio b.2.trec && decide (a.2.order < b.2.order))
/-- Of some contexts the ones to pre-empt so that `need` of them are free, in the order of `sort`, which leaves out those that may not be; none if they are
too few. -/
def State.lacking (s : State) (key cmd need : Nat) (sort : List Nat → List Nat) (ctxs : List Nat) : Option (List Nat) :=
  let lack := need - (ctxs.filter (s.ctxFree key cmd)).length
  let l := sort ctxs
  if l.length < lack then none else some (l.take lack)
/-- The contexts to pre-empt on the cores of a unit for `size` tasks, or none if it cannot be made to hold them (R115): of a level-0 group's unit, a
die, any context will do; else task r needs one of core r mod C. -/
def State.victims (s : State) (key cmd size : Nat) (any : Bool) (sort : List Nat → List Nat) (cores : List Nat) : Option (List Nat) :=
  if any then s.lacking key cmd size sort (cores.flatMap ctxsOf)
  else (List.range cores.length).foldl (fun acc j =>
    match acc with
    | none => none
    | some l => (s.lacking key cmd ((List.range size).filter fun r => r % cores.length == j).length sort (ctxsOf (cores.getD j 0))).map (l ++ ·)) (some [])
/-- The contexts, of those listed, whose tasks are of a class greater than c, the greatest class first (R115). -/
def State.byClass (s : State) (c : Nat) (ns : List Nat) : List Nat :=
  let cls (x : Nat) : Nat := match (s.ctx x).task with | some t => t.prio | none => 0
  let can := ns.filter fun x => (s.ctx x).task.isSome && !(s.ctx x).req && decide (c < cls x)
  (List.range 8).reverse.flatMap fun k => can.filter fun x => cls x == k
/-- The contexts, of those listed, that run work less urgent than a tier and deadline, or any work in a share decision, the least urgent first (R90). -/
def State.byUrgency (s : State) (urg : Nat × Nat) (share : Bool) (ns : List Nat) : List Nat :=
  let can := ns.filter fun x => (s.ctx x).task.isSome && !(s.ctx x).req && (share || pairLt urg (s.ctxUrg (s.ctx x)))
  sortBy (fun a b => pairLt (s.ctxUrg (s.ctx b)) (s.ctxUrg (s.ctx a))) can
/-- The units that may be made to hold an entry: for a level-0 group its home die, whose contexts it may all take. -/
def State.preqUnits (s : State) (g : Group) (e : Entry) : List (List Nat) × Nat × Bool :=
  let u := s.unitsFor g e
  if e.kind = .new ∧ g.level = 0 then ([s.dieCores (s.needsOf g.cmd) g.die], u.2, true) else (u.1, u.2, false)
/-- The shortest of some lists, the first on a tie. -/
def shortest : List (List Nat) → Option (List Nat)
  | [] => none
  | x :: xs => match shortest xs with | some y => some (if y.length < x.length then y else x) | none => some x
/-- PREQ for an entry that cannot be placed, once (R115). -/
def State.preqEntry (s : State) (key : Nat) (e : Entry) : State :=
  match s.groups.find e.group with
  | none => s
  | some g =>
    if s.ctxs.any fun c => c.2.held == some (false, key) then s
    else
      let u := s.preqUnits g e
      match shortest (u.1.filterMap (s.victims key g.cmd u.2.1 u.2.2 (s.byClass (trPrio e.trec)))) with
      | some l => l.foldl (fun s n => s.raiseReq n (some (false, key))) s
      | none => s
/-- PREQ for the first group of a chosen launch, whose home die and tasks are given, unless it can be placed (R90). -/
def State.preqLaunch (s : State) (cmd : Nat) (c : Cmd) (l : Launch) (die size : Nat) : State :=
  let nd := s.needsOf cmd
  let units := s.unitsOn nd l.level die
  if units.any fun cores => (s.placeOn (2 ^ 200) cmd cores size).isSome then s
  else
    let any := l.level == 0
    let sort := s.byUrgency (enF c.entry 0x10 1, entDeadline c.entry) l.share
    match shortest ((if any then [s.dieCores nd die] else units).filterMap (s.victims (2 ^ 200) cmd size any sort)) with
    | some ns => ns.foldl (fun s n => s.raiseReq n (some (true, cmd))) s
    | none => s
/-- Whether a task cannot come back: its unit has no live core, or the tiles it owns were on a core that is dead (R102, R184). -/
def State.stranded (s : State) (e : Entry) : Bool :=
  match s.groups.find e.group with
  | none => false
  | some g =>
    e.kind != .new && !(s.map.cores.getLsbD e.core) &&
      ((s.homeCore g e).isNone ||
        (e.kind == .resumed && bit (s.core e.core).accown 63 && fld (s.core e.core).accown 0 48 == e.serial % 2 ^ 48))
/-- TASK_DISPATCH (R114). `unit`: the die. -/
def execTaskDispatch (s : State) : Host.Outcome State Fault Refusal :=
  let mine := s.entries.filter fun e => e.2.st == .ready && s.dieOfEntry e.2 == s.unit
  match mine.find? fun e => s.stranded e.2 with
  | some e => .next (match s.groups.find e.2.group with | some g => s.rerun g.cmd | none => s)
  | none =>
    let hit := leastBy entryLt (mine.filter fun e => (s.place e.1 e.2).isSome)
    let t := match hit with
      | some e => s.dispatch e.1 e.2 ((s.place e.1 e.2).getD [])
      | none => s
    .next ((List.range 7).foldl (fun t c =>
      match leastBy entryLt (mine.filter fun e => trPrio e.2.trec == c) with
      | some e => if (s.place e.1 e.2).isSome then t else t.preqEntry e.1 e.2
      | none => t) t)

/-! The watchdog (R122). -/

/-- WATCHDOG_PREEMPT. `unit`: the context. REQMS = 0 disables the watchdog; in debug halt the residence timer stands (R188). -/
def execWatchdogPreempt (s : State) : Host.Outcome State Fault Refusal :=
  let c := s.ctx s.unit
  if c.task.isSome ∧ c.watch = 0 ∧ c.halted = false ∧ fld (s.reg 0x312) 0 16 ≠ 0 then
    .next ((s.raiseReq s.unit none).modCtx s.unit fun c => { c with watch := 1 })
  else .next s
/-- WATCHDOG_KILL: the command completes KILLED, its tasks end; the residence timer stands in debug halt (R122, R188). `unit`: the context; `arg`:
nonzero where the hardware stops the context but does not get it free, which no other step can say (log 49). -/
def execWatchdogKill (s : State) : Host.Outcome State Fault Refusal :=
  let n := s.unit
  let c := s.ctx n
  match c.task with
  | some t =>
    if c.watch = 1 ∧ c.halted = false ∧ fld (s.reg 0x312) 0 16 ≠ 0 ∧ c.hold ≠ .stuck then
      let s := (s.killTask n 7).modCtx n fun c => { c with watch := 2 }
      .next (if s.arg = 0 then s else s.modCtx n fun c => { c with task := some t, hold := .stuck })
    else .next s
  | none => .next s
/-- WATCHDOG_FENCE: the core of a killed context that is still not free is marked dead. `unit`: the context. -/
def execWatchdogFence (s : State) : Host.Outcome State Fault Refusal :=
  let c := s.ctx s.unit
  if c.watch = 2 ∧ c.task.isSome ∧ fld (s.reg 0x312) 0 16 ≠ 0 then
    .next ((s.modCtx s.unit fun c => { c with watch := 0, task := none, hold := .none }).mapReport (.coreLost (s.unit / 4)))
  else .next s

/-! XCTL (R120). -/

def State.xPart (s : State) : Nat := fld (s.reg 0x313) 4 3
def State.xLo (s : State) : Nat := (s.reg 0x314).toNat
def State.xHi (s : State) : Nat := (s.reg 0x314).toNat + (s.reg 0x315).toNat
/-- Whether an operation is the one that runs. -/
def State.xOn (s : State) (op : Nat) : Bool := bit (s.reg 0x313) 63 && fld (s.reg 0x313) 0 4 == op
def State.xDone (s : State) : State := s.setReg 0x313 0
/-- The caches of every die with some entries dropped. -/
def State.dropTc (s : State) (drop : TcEnt → Bool) : State :=
  { s with dies := s.dies.map fun (d : Nat × Die) => (d.1, { d.2 with tc := d.2.tc.filter fun t => !(drop t) }) }
def TcEnt.bytes (t : TcEnt) : Nat := if t.big then 2 ^ 30 else 2 ^ 21
/-- INVAL. -/
def execInval (s : State) : Host.Outcome State Fault Refusal :=
  if s.xOn 1 then
    .next ((s.dropTc fun t => t.part == s.xPart && overlap (t.page * t.bytes) t.bytes s.xLo (s.xHi - s.xLo)).xDone)
  else .next s
/-- A change made to every extent of a partition: of contexts, of engine commands, of scheduler entries and of saved tasks. -/
def State.mapExts (s : State) (part : Nat) (f : Extent → Extent) : State :=
  let cmd (c : EngCmd) : EngCmd := if c.part = part then { c with ext := c.ext.map f } else c
  let run (r : Option RunCmd) : Option RunCmd := r.map fun r => if r.c.part = part then { r with c := cmd r.c, ext := r.ext.map f } else r
  let mine := s.ctxs.filterMap fun c => match c.2.task with | some t => if t.part = part ∧ c.1 < 2048 then some c.1 else none | none => none
  let s := { s with
    ctxs := mapVals (fun c => c.mapEngs cmd) s.ctxs
    cores := mapVals (fun k => { k with
      copyE := run k.copyE, offE := run k.offE, mainE := run k.mainE, shadowE := run k.shadowE, recE := run k.recE, prio := k.prio.map cmd }) s.cores
    entries := s.entries.map fun (e : Nat × Entry) => (e.1, if s.partOf e.2.group = part then { e.2 with ext := e.2.ext.map f } else e.2)
    saves := mapVals (fun v => if v.task.part = part then { v with ext := v.ext.map f } else v) s.saves }
  mine.foldl (fun s n => s.setExt n ((s.ctx n).ext.map f)) s
/-- Whether an extent's rows meet the physical range. -/
def Extent.meets (e : Extent) (lo hi : Nat) : Bool := e.valid && decide (e.base.toNat < hi) && decide (lo < e.base.toNat + 128 * e.len)
/-- Whether accesses of a partition to a range are on the way: queued, sent, written by an engine to another device, or fetched. -/
def State.outIn (s : State) (part lo hi : Nat) : Bool :=
  let hit (x : W64) : Bool := decide (lo ≤ x.toNat / 128 * 128 + 127) && decide (x.toNat / 128 * 128 < hi)
  let acc (q : QAcc) : Bool := !q.ext && q.st != .dead && (match q.what with
    | .mark => false
    | .qld _ _ _ _ rows => rows.any fun r => hit r.1
    | _ => hit q.addr)
  let flit (f : Flit) : Bool := (f.kind == 0 || f.kind == 1 || f.kind == 3) && f.srcDev == s.dev.devid && f.part.toNat == part && hit f.addr
  let asked (m : MxCmd) : Bool := m.asked.isSome && s.holderPart m.tgt == part
  s.ctxs.any (fun c => s.holderPart c.1 == part && c.2.q.any acc) || s.saves.any (fun v => v.2.task.part == part && v.2.q.any acc) ||
    s.flitOut flit || s.cores.any fun k => k.2.q0.any asked || k.2.q1.any asked
/-- REVOKE: the marking at once; BUSY clears once what was issued before has performed (DEDUCED, log 55). -/
def execRevoke (s : State) : Host.Outcome State Fault Refusal :=
  if s.xOn 2 then
    let lo := s.xLo
    let hi := s.xHi
    let t := s.mapExts s.xPart fun e => if e.meets lo hi && !e.revoked then { e with revoked := true, refused := false } else e
    let t := t.dropTc fun e => e.part == s.xPart && (let a := (leafAddr e.pte e.big 0).toNat; overlap a e.bytes lo (hi - lo))
    .next (if t.outIn s.xPart lo hi then t else t.xDone)
  else .next s
/-- A revoked extent walked again (R120): its new place, or refused. -/
def State.walkAgain (s : State) (part : Nat) (e : Extent) : Extent :=
  if !(e.valid && e.revoked) then e
  else match (s.pieces 0 part e.va (128 * e.len) false [] (e.len / 2 ^ 14 + 2)).2 with
    | .ok [p] => if p.rows = e.len ∧ p.w = e.w ∧ p.c = e.conf then { e with base := p.base, revoked := false, refused := false } else { e with refused := true }
    | _ => { e with refused := true }
/-- REMAP. The walks go by the page tables, not by the caches. -/
def execRemap (s : State) : Host.Outcome State Fault Refusal :=
  if s.xOn 3 then .next ((s.mapExts s.xPart (({ s with dies := [] } : State).walkAgain s.xPart)).xDone) else .next s
/-- RETRY. -/
def execRetry (s : State) : Host.Outcome State Fault Refusal :=
  if s.xOn 4 then
    let mine := s.entries.filter fun e => e.2.st == .parked && s.partOf e.2.group == s.xPart
    .next ((mine.foldl (fun (s : State) e =>
      { s with entries := s.entries.put e.1 { e.2 with st := .translating } }.post e.1 0 .translationComplete) s).xDone)
  else .next s
/-- A parked entry ended: a new group whole, a single task or continuation without its group triggering (R109, R119). -/
def State.endParked (s : State) (key : Nat) (e : Entry) : State :=
  match s.groups.find e.group with
  | none => { s with entries := s.entries.del key }
  | some g =>
    let s := ({ s with entries := s.entries.del key, saves := if e.kind == EKind.resumed then s.saves.del e.slot else s.saves }).failLaunch g.cmd
    if e.kind = .new ∨ g.live ≤ 1 then { s with groups := s.groups.del e.group }.tryFinish g.cmd
    else { s with groups := s.groups.put e.group { g with live := g.live - 1, never := true } }
/-- FAILPARK: XARG0 holds the SEQ of the launch. -/
def execFailpark (s : State) : Host.Outcome State Fault Refusal :=
  if s.xOn 5 then
    let mine := s.entries.filter fun e => e.2.st == .parked && s.partOf e.2.group == s.xPart &&
      (match (s.groups.find e.2.group).bind fun g => s.cmds.find g.cmd with | some c => enSEQ c.entry == (s.reg 0x314).toNat | none => false)
    .next ((mine.foldl (fun (s : State) e => s.endParked e.1 e.2) s).xDone)
  else .next s

end Sys2Proof.Machine
end

