-- ==== Sys2Proof/Machine/HostCmd.lean ====
section
/-! DEFINITION. The commands of the host queues (R86, R93, R94, R98 to R102, R104, R107 to R110, R181, R183, R186, R409). -/

namespace Sys2Proof.Machine

/-- A started command of an opcode: its entry. -/
def State.running (s : State) (k op : Nat) : Option Cmd :=
  match s.cmds.find k with
  | some c => if c.st = .started ∧ entOp c.entry = op then some c else none
  | none => none
/-- NOP_COMMAND. `unit`: the command. -/
def execNopCommand (s : State) : Host.Outcome State Fault Refusal :=
  .next (match s.running s.unit 0 with | some _ => s.finishCmd s.unit 0 | none => s)

/-! LAUNCH (R100 to R102, R104, R107, R108). -/

/-- The most tasks of a group of each level. -/
def maxTasks (level : Nat) : Nat := [1, 4, 64, 256, 2048].getD level 0
/-- Whether a die holds a unit that can run a group of T tasks. -/
def State.dieHolds (s : State) (nd : Needs) (level t die : Nat) : Bool := (s.unitsOn nd level die).any fun u => decide (t ≤ 4 * u.length)
/-- The home die of group g: logical die g mod D (R100, R102); a level-4 group's is the first one (DEDUCED, logs 59 and 60). -/
def State.homeDie (s : State) (nd : Needs) (level t g : Nat) : Option Nat :=
  let live := (List.range 8).filter s.dieLive
  if (s.diesFor nd).length < nd.1 then none
  else if level = 4 then (if t ≤ 4 * (s.allCores nd).length then (s.diesFor nd).head? else none)
  else ((s.diesFor nd).filter (s.dieHolds nd level t))[g % live.length]?
/-- Whether every group of a launch has a home. -/
def State.homesOk (s : State) (nd : Needs) (level t count : Nat) : Bool :=
  (List.range (min count 8)).all fun g => (s.homeDie nd level t g).isSome
/-- The status with which a LAUNCH is refused (R98, R100, R101, R104, R107): BADCMD, then PLACEMENT. -/
def State.launchRefused (s : State) (l : Launch) (idx : Nat) : Option Nat :=
  let a := l.image.toNat % 2 ^ 58
  if s.imageOk a = false then some 1
  else match s.template a idx with
    | none => some 1
    | some r =>
      let t := trRank r + 1
      if trOk r = false ∨ maxTasks l.level < t then some 1
      else
        let nd := s.needs a
        let homes := (List.range (min l.count 8)).filterMap (s.homeDie nd l.level t)
        if homes.any fun d => s.log2mb d == 0 then some 1
        else if s.homesOk nd l.level t l.count then none else some 4
/-- A launch's next group created (R101, R104, R108); before its first one, contexts are asked for where its units are not free (R90). -/
def State.nextGroup (s : State) (k : Nat) (c : Cmd) (l : Launch) : State :=
  let fail (s : State) : State := (s.failLaunch k).tryFinish k
  match s.template (l.image.toNat % 2 ^ 58) (enF c.entry 0x28 4) with
  | none => fail s
  | some r =>
    let t := trRank r + 1
    match s.homeDie (s.needsOf k) l.level t l.next with
    | none => fail s
    | some d =>
      let s := if l.next = 0 then s.preqLaunch k c l d t else s
      let args := s.bytes (enF c.entry 0x38 8 % 2 ^ 58 + 24 * l.next) 24
      let r := trSet (trFor r l.next l.level) 0x60 24 args
      match s.makeGroup k l.next l.level t d (enF c.entry 0x2E 2) r with
      | .full => s
      | .refused => fail s
      | .ok s =>
        let l := { l with next := l.next + 1 }
        let s := { s with cmds := s.cmds.put k { c with launch := some l } }
        if l.next < l.count then s.post k 0 .launch else s
/-- LAUNCH (R101). `unit`: the command. Its checks come first, then one group at a time: creation waits while a pool is full. -/
def execLaunch (s : State) : Host.Outcome State Fault Refusal :=
  let k := s.unit
  .next (match s.cmds.find k with
  | none => s
  | some c =>
    match c.launch with
    | none => s
    | some l =>
      if c.st = .done ∨ l.failed = true ∨ l.count ≤ l.next then s
      else if l.spawn = 0 then
        match s.launchRefused l (enF c.entry 0x28 4) with
        | some st => s.finishCmd k st
        | none => { s with cmds := s.cmds.put k { c with launch := some { l with spawn := l.count } } }.post k 0 .launch
      else s.nextGroup k c l)

/-! COPYH. -/

/-- A row of device memory as COPYH reads it; what a poisoned row gives is free (log 27). -/
def State.copyRow (s : State) (x : W64) : State × Row :=
  if devOf x = s.dev.devid.toNat then
    let r := s.loadLocal (localOf x)
    (r.1.freed r.2.2.isSome, if r.2.2.isSome then Config.farRow x.toNat r.1.dev.fresh else r.2.1)
  else (s.freed true, s.peek x)
/-- n rows from host memory to the device. -/
def State.copyIn (s : State) (src dst : Nat) : Nat → State
  | 0 => s
  | n + 1 =>
    let s := s.copyIn src dst n
    s.storeFabric 0 0 (BitVec.ofNat 64 (dst + 128 * n)) (BitVec.ofNat 1024 (getBytes (src + 128 * n) 128 s.hostMem)) fullMask false false
/-- n rows from the device to host memory. -/
def State.copyOut (s : State) (src dst : Nat) : Nat → State
  | 0 => s
  | n + 1 =>
    let r := (s.copyOut src dst n).copyRow (BitVec.ofNat 64 (src + 128 * n))
    { r.1 with hostMem := putBytes (dst + 128 * n) 128 r.2.toNat r.1.hostMem }
/-- COPYH. `unit`: the command. Every row is copied at once. -/
def execCopyh (s : State) : Host.Outcome State Fault Refusal :=
  .next (match s.running s.unit 2 with
  | none => s
  | some c =>
    let e := c.entry
    let n := enF e 0x30 8 / 128
    let src := enF e 0x20 8 / 128 * 128
    let dst := enF e 0x28 8 / 128 * 128
    (if enF e 0x38 1 = 0 then s.copyIn src dst n else s.copyOut src dst n).finishCmd s.unit 0)

/-! CTXSAVE (R93, R181, R186). -/

/-- The saves of a save area, and their keys (DESIGN CHOICE, log 64). -/
def areaKey (area i : Nat) : Nat := 2 ^ 80 + area * 2 ^ 16 + i
def State.areaSaves (s : State) (area : Nat) : List (Nat × Saved) :=
  s.saves.filter fun v => decide (areaKey area 0 ≤ v.1) && decide (v.1 < areaKey (area + 1) 0)
def State.imageLen (s : State) (a : Nat) : Nat := 272 * 1024 + if s.im a 0x40005 1 = 0xFF then 32 * 1024 else 0
/-- The key and the address of the next image of an area: images follow one another. -/
def State.areaNext (s : State) (area : Nat) : Nat × Nat :=
  (s.areaSaves area).foldl (fun (m : Nat × Nat) v => (max m.1 (v.1 + 1), max m.2 (v.2.addr + s.imageLen v.2.addr))) (areaKey area 0, area)
/-- Whether a task owns its core's accumulator store. -/
def Core.ownedBy (k : Core) (t : TaskRun) : Bool := bit k.accown 63 && fld k.accown 0 48 == t.serial % 2 ^ 48
/-- The eight tiles after an image, rows in order; the store then has no owner and CLAIMTRAP set (R186). -/
def State.putTiles (s : State) (core a : Nat) : State :=
  let k := s.core core
  let s := (List.range 256).foldl (fun (s : State) i => s.putRow (a + 128 * i) (k.acc.get 0 i).toNat (k.accPoison.getLsbD (i / 32))) s
  s.modCore core fun k => { k with accown := setFld (setFld k.accown 63 1 0) 61 1 1 }
/-- One context saved to a save area. -/
def State.saveArea (s : State) (n area : Nat) : State :=
  match (s.ctx n).task with
  | none => s
  | some t =>
    let at' := s.areaNext area
    let owns := (s.core (n / 4)).ownedBy t
    let s := s.saveTo n t at'.1 at'.2 0xC0 (if owns then 0xFF else 0)
    if owns then s.putTiles (n / 4) (at'.2 + 272 * 1024) else s
/-- The contexts of a launch that CTXSAVE saves: a task that ends goes on ending. -/
def State.toSave (s : State) (target : Nat) : List Nat :=
  (ctxsOfCmd target s.ctxs).filter fun n => match (s.ctx n).hold with | .ending _ => false | _ => true
/-- A context stopped for CTXSAVE at its bundle boundary. -/
def Ctx.stopSave (c : Ctx) : Ctx :=
  match c.hold with
  | .save 0xC0 _ | .rollback => c
  | h => { c with hold := .save 0xC0 h.eng }
/-- CTXSAVE. `unit`: the command. Every context of the launch stops; the step saves one that may be saved, until none is left. -/
def execCtxsave (s : State) : Host.Outcome State Fault Refusal :=
  let k := s.unit
  .next (match s.running k 3 with
  | none => s
  | some c =>
    let ns := s.toSave (cmdKey c.queue (enF c.entry 0x20 8))
    let s := ns.foldl (fun (s : State) n => s.modCtx n Ctx.stopSave) s
    match ns with
    | [] => s.finishCmd k 0
    | _ =>
      match ns.find? fun n => (match (s.ctx n).hold with | .save 0xC0 _ => true | _ => false) && s.canSave n 0xC0 with
      | none => s
      | some n => (s.saveArea n (enF c.entry 0x28 8 % 2 ^ 58)).post k 0 .ctxsave)

/-! CTXLOAD (R100, R183). -/

/-- The saved tasks of the images that lie one after another from an address on, each with the image it is restored from: the tasks of CTXSAVE that their
TASKID names, wherever those were saved to (DESIGN CHOICE, log 130). -/
def State.areaLoads (s : State) (a : Nat) : Nat → List (Nat × Saved)
  | 0 => []
  | fuel + 1 =>
    if s.im a 0x40000 4 ≠ 1 then []
    else
      (match s.saves.find? fun v => decide (areaKey 0 0 ≤ v.1) && v.2.task.serial % 2 ^ 48 == s.im a 0x40010 6 with
      | some v => [(v.1, { v.2 with addr := a })]
      | none => []) ++ s.areaLoads (a + s.imageLen a) fuel
/-- Where a saved task is restored: its own core under the same map version, else by its logical place. -/
def State.loadCore (s : State) (v : Saved) : Option Nat :=
  if BitVec.ofNat 64 (s.im v.addr 0x40008 8) = s.reg 0x302 then some (v.ctx / 4)
  else s.placedCore (s.needsOf v.task.cmd) v.task.ldie v.task.lpanel v.task.lcore
/-- A saved task put back among the scheduler's entries, unless it stands there already. -/
def State.loadOne (s : State) (x : Nat × Saved) : State :=
  let key := savedEntry x.1
  match s.entries.find key, s.loadCore x.2 with
  | none, some n =>
    let t := x.2.task
    let e : Entry := ⟨.resumed, .translating, t.group, t.rank, t.serial, t.trec, x.1, n, t.ucore, maxOrder s.entries + 1, []⟩
    { s with entries := s.entries.put key e, saves := s.saves.put x.1 x.2 }.post key 0 .translationComplete
  | _, _ => s
/-- Contexts asked for, where a saved task's core has none free (R90). -/
def State.preqLoad (s : State) (k : Nat) (c : Cmd) (x : Nat × Saved) : State :=
  match s.loadCore x.2 with
  | none => s
  | some n => match s.lacking (2 ^ 200) k 1 (s.byUrgency (enF c.entry 0x10 1, entDeadline c.entry) false) (ctxsOf n) with
    | some ns => ns.foldl (fun s n => s.raiseReq n (some (true, k))) s
    | none => s
/-- CTXLOAD. `unit`: the command. It completes once every task of the area has been restored; an area that holds no save completes FAULT
(DEDUCED, log 65). -/
def execCtxload (s : State) : Host.Outcome State Fault Refusal :=
  let k := s.unit
  .next (match s.running k 4 with
  | none => s
  | some c =>
    let vs := s.areaLoads (enF c.entry 0x20 8 % 2 ^ 58) 2048
    let begun := vs.any fun v => (s.entries.find (savedEntry v.1)).isSome
    if vs.isEmpty then s.finishCmd k (if c.launch.isSome then 0 else 5)
    else if !begun && vs.any fun v => (s.loadCore v.2).isNone then s.finishCmd k 4
    else
      let s := { s with cmds := s.cmds.put k { c with launch := some ⟨0, 0, 0, 0, false, false, false, 0, 0, c.queue, BitVec.ofNat 64 (enSEQ c.entry), false⟩ } }
      let s := if begun then s else vs.foldl (fun s x => s.preqLoad k c x) s
      vs.foldl State.loadOne s)

/-! VARIANT (R99). -/

/-- VARIANT. `unit`: the command. It stays until every earlier LAUNCH of the image has completed. -/
def execVariant (s : State) : Host.Outcome State Fault Refusal :=
  let k := s.unit
  .next (match s.running k 5 with
  | none => s
  | some c =>
    let image := enF c.entry 0x20 8
    let a := image % 2 ^ 58
    let v := enF c.entry 0x28 2
    let old := s.variants.get 0 a
    if s.cmds.any fun d => entOp d.2.entry == 1 && d.2.st != .done && enF d.2.entry 0x20 8 == image && accLt d (k, c) then s
    else if s.imageOk a = false ∨ ((s.sections a).any fun x => x.1 == 6 && x.2.2.2 == v) = false then s.finishCmd k 1
    else if Config.planFits a old v s.dev.fresh then { s with variants := s.variants.put a v }.finishCmd k 0
    else s.finishCmd k 3)

/-! MAPSET (R409). -/

/-- The report of a unit's loss. -/
def lossOf (kind unit : Nat) : MapReport :=
  match kind with
  | 0 => .coreLost unit
  | 1 => .panelLost unit
  | 2 => .dieLost unit
  | 3 => .stackLost unit
  | 4 => .chanLost unit
  | 5 => .bridgeLost unit
  | _ => .slotLost unit
/-- Whether a unit is live in a map. -/
def ResMap.unitLive (m : ResMap) (kind unit : Nat) : Bool :=
  match kind with
  | 0 => m.cores.getLsbD unit
  | 1 => m.panels.getLsbD unit
  | 2 => m.dies.getLsbD unit
  | 3 => m.hbms.getLsbD unit
  | 4 => m.tierch.getLsbD unit
  | 5 => m.bridges.getLsbD unit
  | _ => m.optch.getLsbD unit
/-- MAPSET with action 0. `unit`: the command. -/
def execMapsetRemove (s : State) : Host.Outcome State Fault Refusal :=
  .next (match s.running s.unit 6 with
  | none => s
  | some c => if enF c.entry 0x24 1 = 0 then (s.mapReport (lossOf (enF c.entry 0x20 1) (enF c.entry 0x22 2))).finishCmd s.unit 0 else s)
/-- MAPSET with action 1: at once for a unit that is live, else the re-test begins. `unit`: the command. -/
def execMapsetReturn (s : State) : Host.Outcome State Fault Refusal :=
  .next (match s.running s.unit 6 with
  | none => s
  | some c => if enF c.entry 0x24 1 = 1 ∧ s.map.unitLive (enF c.entry 0x20 1) (enF c.entry 0x22 2) = true then s.finishCmd s.unit 0 else s)
/-- MAPSET_RETEST_DONE: what the re-test found; a unit that would not be live stays dead. -/
def execMapsetRetestDone (cmd : Nat) (fault : Bool) (failed : List Nat) (cap : Nat) (s : State) : Host.Outcome State Fault Refusal :=
  .next (match s.running cmd 6 with
  | none => s
  | some c =>
    let kind := enF c.entry 0x20 1
    let unit := enF c.entry 0x22 2
    let r : MapReport := .returned kind unit failed cap
    if enF c.entry 0x24 1 = 0 then s
    else if fault = true ∨ ((s.map.report r).close.unitLive kind unit) = false then s.finishCmd cmd 5
    else (s.mapReport r).finishCmd cmd 0)

/-! SIGNAL, WAITV, FENCE. -/

/-- SIGNAL (R94): once per command. `unit`: the command. A word of another device is reached by an ATOMIC flit (log 41). -/
def execSignal (s : State) : Host.Outcome State Fault Refusal :=
  let k := s.unit
  .next (match s.running k 7 with
  | none => s
  | some c =>
    if s.pubDone k 255 then s.finishCmd k 0
    else
      let x : W64 := BitVec.ofNat 64 (enF c.entry 0x20 8)
      let v : W64 := BitVec.ofNat 64 (enF c.entry 0x30 8)
      let dec := enF c.entry 0x28 1 == 1
      let s' :=
        if devOf x = s.dev.devid.toNat then (if dec then s.syCount (localOf x) else s.syStore (localOf x) v)
        else s.sendCtl 0 (devOf x) (s.flit 3 2 0 0 0 (x &&& ~~~127) 0 1 false (atomRow (if dec then 12 else 9) (fld x 3 4) v.toNat 0 true false 1) 0)
      (s'.setPub k 255).finishCmd k 0)
/-- The 64-bit word at an address, as WAITV reads it: another device's is free (log 20); an absent sync word's read is recorded (R105). -/
def State.word64 (s : State) (x : W64) : State × W64 :=
  let a := localOf x / 8 * 8
  if devOf x ≠ s.dev.devid.toNat then (s, BitVec.ofNat 64 (Config.farRow x.toNat s.dev.fresh).toNat)
  else match homeOf a with
    | .sync _ => (if s.syPresent a then s else s.syRefuse a, s.syLoad a)
    | .desc => (s, BitVec.ofNat 64 ((s.descRow (a - Config.capBase)).toNat / 2 ^ (8 * (a % 128))))
    | _ => (s, BitVec.ofNat 64 ((s.rawRow a).toNat / 2 ^ (8 * (a % 128))))
/-- The compare of a WAITV. -/
def waitHolds (cmp : Nat) (w v : W64) : Bool := if cmp = 0 then decide (v.toNat ≤ w.toNat) else if cmp = 1 then w == v else w != v
/-- One poll of a WAITV; each poll of another device's word reads anew. -/
def State.pollWait (s : State) (k : Nat) : State :=
  match s.running k 8 with
  | none => s
  | some c =>
    let r := s.word64 (BitVec.ofNat 64 (enF c.entry 0x20 8))
    let hit := waitHolds (enF c.entry 0x28 1) r.2 (BitVec.ofNat 64 (enF c.entry 0x30 8))
    let s := r.1.freed true
    if hit then s.finishCmd k 0 else s
/-- WAITV. `unit`: the command. -/
def execWaitv (s : State) : Host.Outcome State Fault Refusal := .next (s.pollWait s.unit)
/-- WAITV_POLL: every 2 µs. `unit`: the command. -/
def execWaitvPoll (s : State) : Host.Outcome State Fault Refusal := .next (s.pollWait s.unit)
/-- FENCE of a queue or of all queues. `unit`: the command. It stays until every command accepted before it has completed. -/
def execFenceCommand (s : State) : Host.Outcome State Fault Refusal :=
  let k := s.unit
  .next (match s.running k 9 with
  | none => s
  | some c =>
    if s.cmds.any fun d => accLt d (k, c) && d.2.st != .done && (enF c.entry 0x20 1 == 1 || d.2.queue == c.queue) then s else s.finishCmd k 0)

end Sys2Proof.Machine
end

