-- ==== Sys2Proof/Machine/Dict.lean ====
section
/-! DEFINITION. The dictionary registers and the debug operations (R151, R187 to R189), streams that arrive (R206) and code fetch (R231 to R234). -/

namespace Sys2Proof.Machine

/-! DICTCTL (R151). -/

def State.dCore (s : State) : Nat := fld (s.reg 0x342) 0 9
def State.dBase (s : State) : Nat := fld (s.reg 0x342) 16 14
def State.dCount (s : State) : Nat := fld (s.reg 0x342) 32 15
def State.dId (s : State) : Nat := fld (s.reg 0x342) 48 16
/-- DICTCTL idle with a STATUS. -/
def State.setDictctl (s : State) (st : Nat) : State := s.setReg 0x340 (BitVec.ofNat 64 (2 ^ 8 * st))
/-- The refusals of LOAD and BIND: 4 ABSENT, then 1 OVERLAP. -/
def State.dictRefused (s : State) : Option Nat :=
  if s.map.cores.getLsbD s.dCore = false ∨ Config.dictEntries < s.dBase + s.dCount then some 4
  else if s.regionBusy s.dCore s.dBase s.dCount then some 1
  else none
/-- The id bound, or 3 FULL. -/
def State.dictBind (s : State) : State :=
  match s.bindId s.dCore s.dId s.dBase s.dCount with
  | some s => s.setDictctl 0
  | none => s.setDictctl 3
/-- LOAD. -/
def execLoad (s : State) : Host.Outcome State Fault Refusal :=
  .next (match s.dictRefused with
  | some st => s.setDictctl st
  | none =>
    let src := localOf (s.reg 0x341) / 16 * 16
    let r := s.writeEntries s.dCore s.dBase (fun i => s.bytes (src + 48 * i) 48) s.dCount
    if r.2.2 then r.1.dictBind else r.1.setDictctl 2)
/-- BIND. -/
def execBind (s : State) : Host.Outcome State Fault Refusal :=
  .next (match s.dictRefused with
  | some st => s.setDictctl st
  | none => s.dictBind)
/-- UNBIND. -/
def execUnbind (s : State) : Host.Outcome State Fault Refusal :=
  let k := s.core s.dCore
  .next (
    if s.map.cores.getLsbD s.dCore = false ∨ (k.regionOf s.dId).isNone = true then s.setDictctl 4
    else (s.setCore s.dCore { k with region := k.region.filter fun e => e.2.1 != s.dId }).setDictctl 0)

/-! Debug (R187 to R189). -/

/-- The command whose contexts DBGCTL and DBGSEQ name. -/
def State.dbgCmd (s : State) : Nat := cmdKey (fld (s.reg 0x330) 8 6) (s.reg 0x331).toNat
/-- Whether a context runs a task of the target launch. -/
def State.isTarget (s : State) (n : Nat) : Bool := match (s.ctx n).task with | some t => t.cmd == s.dbgCmd | none => false
/-- In halt and step mode the contexts of the target launch stop at a bundle boundary. -/
def State.stopTarget (s : State) (core : Nat) : State :=
  if (s.core core).mode = 0 then s
  else (ctxsOf core).foldl (fun (s : State) n => if s.isTarget n then s.modCtx n fun c => { c with halted := true } else s) s
/-- MODE written, 3 as 0: a step that waits is cancelled; in run mode the halted contexts go on. -/
def State.setMode (s : State) (core mode : Nat) : State :=
  let m := if mode = 1 ∨ mode = 2 then mode else 0
  let s := s.modCore core fun k => { k with dbgcfg := setFld (setFld k.dbgcfg 0 2 m) 9 1 0 }
  if m = 0 then (ctxsOf core).foldl (fun (s : State) n => s.modCtx n fun c => { c with halted := false }) s else s.stopTarget core
/-- The cores that run contexts of the target launch. -/
def State.dbgCores (s : State) : List Nat := (List.range 512).filter fun k => (ctxsOf k).any s.isTarget
/-- DBGCFG_MODE_WRITE. -/
def execDbgcfgModeWrite (core mode : Nat) (s : State) : Host.Outcome State Fault Refusal := .next (s.heard (s.setMode core mode))
/-- HALT (DEDUCED, log 103). -/
def execHalt (s : State) : Host.Outcome State Fault Refusal := .next (s.dbgCores.foldl (fun s k => s.setMode k 1) s)
/-- RESUME: GO on every core of the launch. -/
def execResume (s : State) : Host.Outcome State Fault Refusal := .next (s.dbgCores.foldl (fun s k => s.setMode k 0) s)
/-- GO. `unit`: the core. -/
def execGo (s : State) : Host.Outcome State Fault Refusal := .next (s.setMode s.unit 0)
/-- STEP. `unit`: the core. In step mode the head bundle of SCTX may issue once: DBGCFG's bit 9, which reads 0, says so until then. -/
def execStep (s : State) : Host.Outcome State Fault Refusal :=
  .next (if (s.core s.unit).mode = 2 then s.modCore s.unit fun k => { k with dbgcfg := setFld k.dbgcfg 9 1 1 } else s)
/-- HALTED: the contexts of the target launch among some have stopped; 0 where there is none, as at reset. -/
def State.allHalted (s : State) (ns : List Nat) : Bool := let ts := ns.filter s.isTarget; !ts.isEmpty && ts.all fun n => (s.ctx n).halted

/-! Streams and code (R206, R231 to R234). -/

/-- STREAM_ENTRY_ARRIVAL. `unit`: the context. -/
def execStreamEntryArrival (s : State) : Host.Outcome State Fault Refusal :=
  let n := s.unit
  let c := s.ctx n
  let e := s.strEntry (fld c.csr.rngsel 0 12)
  .next (if c.rngWait then s.setCtx n { c with rngKey := BitVec.ofNat 64 (s.bytes e 8), rngCtr := BitVec.ofNat 64 (s.bytes (e + 8) 8), rngWait := false } else s)
/-- CODE_FETCH: the next bundle of a running context enters its queue, while it has room; with `arg` 1 or 2 the first or second row of the last one in the
queue is read only now (R234). `unit`: the context, or 2048 + core (DEDUCED, log 71). -/
def execCodeFetch (s : State) : Host.Outcome State Fault Refusal :=
  let n := s.unit
  let runs := if n < 2048 then (s.ctx n).task.isSome else (s.core (n - 2048)).run.isSome
  .next (if runs = true ∧ (s.ctx n).lp = none ∧ (match (s.ctx n).hold with | .ending _ => false | _ => true) = true then
      (if s.arg = 0 then s.fetchOne n else s.fetchRow n (s.arg - 1)) else s)

end Sys2Proof.Machine
end

