-- ==== Sys2Proof/Machine/Quant.lean ====
section
/-! DEFINITION. The SQ slot: scale registers and pleat blocks (R337 to R339). -/

namespace Sys2Proof.Machine

/-- The scratchpad row of SCLD and SCST: s[base] + the signed 10-bit offset. -/
def State.scRow (s : State) (a : QArgs) : Nat :=
  (s.rdS (BitVec.ofNat 6 (a.field 11 6)) + BitVec.ofInt 64 (sextNat (a.field 17 10) 10)).toNat % Config.spRows
/-- The part p of a row: bytes 32p to 32p + 31. -/
def qPart (a : QArgs) : Nat := a.field 27 2

/-- SCLD: 32 bytes of a row as a timed load at c + 2, into kN after 3 ticks (R338). -/
def execScld (a : QArgs) (s : State) : Host.Outcome State Fault Refusal :=
  let n := s.newOp
  let e : LandEntry := ⟨.scale, a.k.toNat, s.me.schc + 3, s.me.schc, 8, 0, 0, BitVec.ofNat 1024 (2 ^ 256 - 1), BitVec.ofNat 6 (qPart a), none,
    false, none, n.2, none, 0⟩
  .next ((n.1.modMe fun c => { c with land := c.land ++ [e] }).time ⟨s.clk + 2, false, 0, s.coreNo, s.scRow a, s.act, n.2, 0, 0, 0, false, s.clk⟩)

/-- SCST: kN into those bytes at c + 2, after the bundle's SS store of the row (R338). -/
def execScst (a : QArgs) (s : State) : Host.Outcome State Fault Refusal :=
  let sh := 256 * (qPart a)
  .next (s.time ⟨s.clk + 2, true, s.storePrio, s.coreNo, s.scRow a, s.act, 0, 0, BitVec.ofNat 1024 ((s.rdK a.k).toNat * 2 ^ sh),
    BitVec.ofNat 1024 ((2 ^ 256 - 1) * 2 ^ sh), false, s.clk⟩)

/-- SCMOV to a scale register: bytes 0 to 31 of vM (R338). -/
def execScmov (a : QArgs) (s : State) : Host.Outcome State Fault Refusal :=
  .next (s.enter .scale a.k.toNat 2 8 0 ⟨(s.rdV (a.field 11 11)).toNat % 2 ^ 256, 2 ^ 256 - 1, 0⟩)
/-- SCMOV to a vector register: lanes 0 to 7, the others unwritten (R338). -/
def execScmovToVector (a : QArgs) (s : State) : Host.Outcome State Fault Refusal :=
  .next (s.enter .vec (s.phys (a.field 11 11)) 2 8 0 ⟨(s.rdK a.k).toNat, 2 ^ 256 - 1, 0⟩)

/-- The 16 FP32 words of block b of a register. -/
def blockWords (r : Row) (b : Nat) : List Nat := (List.range 16).map fun i => lane r (16 * b + i)
/-- The exponents of both blocks, in byte positions j and j + 1 of a scale register, with their mask (R339). -/
def scaleOf (r : Row) (j : Nat) : Built :=
  ⟨(pleatExp (blockWords r 0) + 256 * pleatExp (blockWords r 1)) * 2 ^ (8 * j), 65535 * 2 ^ (8 * j), 0⟩
/-- Mantissa bits and block size of a QCVT or QSTEP parcel: 1 P7, 2 P4, 3 P2 (R337). -/
def qMant (a : QArgs) : Nat := let m := a.field 26 2; if m = 1 then 7 else if m = 2 then 4 else 2
/-- Both blocks quantised with exponents e0 and e1, at bytes 2sq of the destination (R339). -/
def blocksOf (a : QArgs) (r : Row) (e0 e1 : Nat) : Built :=
  let m := (qMant a)
  let n := pleatBytes m
  let b0 := pleatWith m e0 (blockWords r 0)
  let b1 := pleatWith m e1 (blockWords r 1)
  let sh := 8 * (2 * n * a.field 29 3)
  ⟨(b0.1 + b1.1 * 2 ^ (8 * n)) * 2 ^ sh, (2 ^ (16 * n) - 1) * 2 ^ sh, orN b0.2 b1.2⟩
/-- The byte index j of a parcel. -/
def qByte (a : QArgs) : Nat := 2 * a.field 22 4

/-- QMAX: the exponents of both blocks into bytes j and j + 1 of kN (R339). -/
def execQmax (a : QArgs) (s : State) : Host.Outcome State Fault Refusal :=
  .next (s.enter .scale a.k.toNat 6 8 0 (scaleOf (s.rdV (a.field 11 11)) (qByte a)))

/-- QCVT: both blocks quantised with the exponents held in kN, into v[M + 1] (R339). -/
def execQcvt (a : QArgs) (s : State) : Host.Outcome State Fault Refusal :=
  let k := (s.rdK a.k).toNat / 2 ^ (8 * (qByte a))
  .next (s.enter .vec (s.phys (a.field 11 11 + 1)) 4 8 0 (blocksOf a (s.rdV (a.field 11 11)) (k % 256) (k / 256 % 256)))

/-- QCVT.DEC: the two blocks at those bytes of vM decoded exactly into v[M + 1] (R339). -/
def execQcvtDec (a : QArgs) (s : State) : Host.Outcome State Fault Refusal :=
  let n := pleatBytes (qMant a)
  let x := (s.rdV (a.field 11 11)).toNat / 2 ^ (8 * (2 * n * a.field 29 3))
  .next (s.enter .vec (s.phys (a.field 11 11 + 1)) 4 8 0 (build 32 (fun _ => true) (fun l =>
    (pleatDecode (qMant a) (x / 2 ^ (8 * n * (l / 16)) % 2 ^ (8 * n)) (l % 16), 0)) 32))

/-- QSTEP: QMAX fused with QCVT: the exponents land in kN at 2 ticks, the blocks at 4 (R339). -/
def execQstep (a : QArgs) (s : State) : Host.Outcome State Fault Refusal :=
  let r := s.rdV (a.field 11 11)
  .next ((s.enter .scale a.k.toNat 2 8 0 (scaleOf r (qByte a))).enter .vec (s.phys (a.field 11 11 + 1)) 4 8 1
    (blocksOf a r (pleatExp (blockWords r 0)) (pleatExp (blockWords r 1))))

end Sys2Proof.Machine
end

