-- ==== Sys2Proof/Machine/Regs.lean ====
section
/-! DEFINITION. CSRs and device registers: their numbers, who may access them, what they read, and what a write does (R17 to R20, R38, R46,
R82, R88, R103, R115, R120, R121, R123, R130, R145, R151, R174 to R176, R184, R187, R199, R205, R206, R212, R213, R215, R216, R225, R227, R270 to
R272, R285, R290, R291, R370, R371). -/

namespace Sys2Proof.Machine

/-! Numbers (R270, R271). -/

/-- Whether a number names a register. -/
def csrListed (n : Nat) : Bool :=
  decide (n ≤ 0x11) || (decide (0x100 ≤ n) && decide (n ≤ 0x10A)) || (decide (0x200 ≤ n) && decide (n ≤ 0x205)) ||
    (decide (0x300 ≤ n) && decide (n ≤ 0x305)) || (decide (0x308 ≤ n) && decide (n ≤ 0x318)) || (decide (0x320 ≤ n) && decide (n ≤ 0x33A)) ||
    (decide (0x340 ≤ n) && decide (n ≤ 0x342)) || (decide (0x400 ≤ n) && decide (n ≤ 0x451)) || (decide (0x460 ≤ n) && decide (n ≤ 0x46F)) ||
    (decide (0x480 ≤ n) && decide (n ≤ 0x48F))
/-- What an access to a number traps: PRIV with the number outside a handler, then ILLEGAL. -/
def State.csrTrap (s : State) (i : Instr) (num : Nat) : Option (Nat × Nat) :=
  if 0x100 ≤ num ∧ num < 0x500 ∧ s.hidden = false then some (0x03, slotTval i + 2 ^ 16 * num)
  else if csrListed num then none
  else some (0x01, slotTval i)

/-! Reads. -/

/-- RNGSEL as it reads: V is set once the entry has arrived (R206) (DEDUCED, log 68). -/
def Ctx.rngselW (c : Ctx) : W64 := if c.rngWait then setFld (setFld c.csr.rngsel 63 1 0) 62 1 0 else c.csr.rngsel
/-- PREQ (R121). -/
def Ctx.preqW (c : Ctx) : W64 := BitVec.ofNat 64 ((if c.req then 1 else 0) + 2 ^ 32 * c.remain)
/-- A user CSR of context n. -/
def State.readUser (s : State) (n num : Nat) : W64 :=
  let c := s.ctx n
  match num with
  | 0x000 => BitVec.ofNat 64 (s.dev.devid.toNat * 2 ^ 11 + n)
  | 0x001 => match c.task with | some t => taskidW t | none => 0
  | 0x002 => BitVec.ofNat 64 c.schc
  | 0x003 => c.csr.rrb
  | 0x004 => c.f.zeroExtend 64
  | 0x005 => match c.task with | some t => grpW t | none => 0
  | 0x006 => c.csr.ackver
  | 0x007 => c.preqW
  | 0x008 => c.csr.fpstat
  | 0x009 => c.csr.fpmode
  | 0x00A => s.here Config.capBase
  | 0x00B => BitVec.ofNat 64 (s.cyc n)
  | 0x00C => c.csr.logb
  | 0x00D => c.csr.logh
  | 0x00E => c.csr.logl
  | 0x00F => c.csr.recst
  | 0x010 => c.csr.gmap
  | _ => c.rngselW
/-- A privileged CSR of context n. -/
def State.readPriv (s : State) (n num : Nat) : W64 :=
  let c := s.ctx n
  match num - 0x100 with
  | 0 => c.csr.tvec
  | 1 => c.csr.tcause
  | 2 => c.csr.tval
  | 3 => c.csr.tpc
  | 4 => c.tframeW
  | 5 => c.csr.pdl
  | 6 => c.csr.extbase
  | 7 => c.csr.dictb
  | 8 => c.csr.dictl
  | 9 => match c.task with | some t => BitVec.ofNat 64 t.prio | none => 0
  | _ => c.csr.rdvto
/-- DBGCFG as it reads: STEP and GO are write-only. -/
def State.dbgcfgW (s : State) (core : Nat) : W64 :=
  BitVec.ofNat 64 (fld (s.core core).dbgcfg 0 2 + 4 * (if s.allHalted (ctxsOf core) then 1 else 0) + 2 ^ 10 * fld (s.core core).dbgcfg 10 2)
/-- A core CSR. -/
def State.readCore (s : State) (core num : Nat) : W64 :=
  let k := s.core core
  match num - 0x200 with
  | 0 => k.accown
  | 1 => k.accdirty
  | 2 => k.katcfg
  | 3 => k.migcfg
  | 4 => s.dbgcfgW core
  | _ => k.errlog
/-- A device register. -/
def State.readDev (s : State) (num : Nat) : W64 :=
  if num = 0x313 then setFld (s.reg 0x313) 0 63 0
  else if num = 0x330 then setFld (s.reg 0x330) 2 1 (if s.allHalted (List.range 2048) then 1 else 0)
  else s.reg num
/-- The trap window on context n (R174). -/
def State.readWindow (s : State) (n num : Nat) : W64 :=
  let c := s.ctx n
  let sel := (s.core (n / 4)).lbsel
  if num < 0x440 then (if num = 0x400 then 0 else c.s.get 0 (num - 0x400))
  else if num < 0x450 then (if num = 0x440 then allTrue.zeroExtend 64 else (c.g.get 0 (num - 0x440)).zeroExtend 64)
  else if num = 0x450 then BitVec.ofNat 64 sel
  else if num = 0x451 then (match c.land[sel]? with | some e => BitVec.ofNat 64 (imgLand c.schc e) | none => 0)
  else if num < 0x470 then (match c.land[sel]? with | some e => BitVec.ofNat 64 (e.data.toNat / 2 ^ (64 * (num - 0x460))) | none => 0)
  else BitVec.ofNat 64 (capHeader c (c.cap.toList ++ s.mxStopped n) / 2 ^ (64 * (num - 0x480)))
/-- The value of a CSR or device register, as context n of its core sees it. -/
def State.readReg64 (s : State) (n num : Nat) : W64 :=
  if num < 0x100 then s.readUser n num
  else if num < 0x200 then s.readPriv n num
  else if num < 0x300 then s.readCore (n / 4) num
  else if num < 0x400 then s.readDev num
  else s.readWindow n num

/-! Writes of context CSRs. -/

/-- A CSR word of context n changed. -/
def State.modCsr (s : State) (n : Nat) (f : Csrs → Csrs) : State := s.modCtx n fun c => { c with csr := f c.csr }
/-- Whether the log's registers may not be written: ON or UNP is set (R370). -/
def Ctx.logHeld (c : Ctx) : Bool := bit c.csr.recst 0 || bit c.csr.recst 3
/-- A write to RNGSEL (R206): the stream is unbound, then the named one claimed unless UNBIND is written; its entry arrives later. -/
def State.writeRngsel (s : State) (n : Nat) (v : W64) : State :=
  let s := s.unbindRng n
  if bit v 16 then s else s.bindRng n (fld v 0 12)
/-- A write to FPSTAT: the flags of results that landed at this tick stay (R199). -/
def State.writeFpstat (s : State) (n v : Nat) : State :=
  let a := (s.ctx n).fpAt
  let now : BitVec 6 := if a.1 = s.act ∧ a.2.1 = s.me.schc then a.2.2 else 0
  s.modCsr n fun c => { c with fpstat := BitVec.ofNat 64 v ||| now.zeroExtend 64 }
/-- A write to a user CSR; `win` says that it comes through a handler's window (R173) (DEDUCED, log 66). -/
def State.writeUser (s : State) (n num : Nat) (v : W64) (win : Bool) : State :=
  let low (k : Nat) : W64 := BitVec.ofNat 64 (fld v 0 k)
  let held := (s.ctx n).logHeld
  match num with
  | 0x003 => s.modCsr n fun c => { c with rrb := low 10 }
  | 0x004 => s.modCtx n fun c => { c.clearFlags 0x7FFF with f := (c.clearFlags 0x7FFF).f ||| (v.truncate 16 &&& 0x7FFF) }
  | 0x006 => if win then s.modCsr n fun c => { c with ackver := v } else s
  | 0x008 => s.writeFpstat n (fld v 0 6)
  | 0x009 => s.modCsr n fun c => { c with fpmode := BitVec.ofNat 64 ((if 4 < fld v 0 3 then 0 else fld v 0 3) + 2 ^ 8 * fld v 8 6) }
  | 0x00C => if held then s else s.modCsr n fun c => { c with
      logb := BitVec.ofNat 64 (fld v 0 48 + 2 ^ 58 * fld v 58 4 + 2 ^ 62 * (if 1 < fld v 62 2 then 0 else fld v 62 2)) }
  | 0x00D => if held then s else s.modCsr n fun c => { c with logh := low 48 }
  | 0x00E => s.modCsr n fun c => { c with logl := low 48 }
  | 0x00F => if held then s else s.modCsr n fun c => { c with recst := keepFields c.recst v [(16, 48)] }
  | 0x010 => if held then s else s.modCsr n fun c => { c with gmap := BitVec.ofNat 64 (fld v 0 15 + 2 ^ 16 * min 256 (fld v 16 9)) }
  | 0x011 => s.writeRngsel n v
  | _ => s
/-- A write to a privileged CSR. -/
def State.writePriv (s : State) (n num : Nat) (v : W64) : State :=
  let low (k : Nat) : W64 := BitVec.ofNat 64 (fld v 0 k)
  match num - 0x100 with
  | 0 => s.modCsr n fun c => { c with tvec := low 49 }
  | 3 => s.modCsr n fun c => { c with tpc := low 48 }
  | 4 => s.modCsr n fun c => { c with tframe := keepFields c.tframe v [(50, 2)] }
  | 5 => s.modCsr n fun c => { c with pdl := BitVec.ofNat 64 (max 1024 (fld v 0 31)) }
  | 7 => s.modCsr n fun c => { c with dictb := BitVec.ofNat 64 (fld v 0 14 + 2 ^ 16 * fld v 16 14) }
  | 8 => s.modCsr n fun c => { c with dictl := BitVec.ofNat 64 (min 16384 (fld v 0 15) + 2 ^ 16 * min 16384 (fld v 16 15)) }
  | 10 => s.modCsr n fun c => { c with rdvto := low 32 }
  | _ => s

/-! Writes of core CSRs. -/

/-- A write to ACCOWN: every tile +0, DIRTY clear, and the tile mark of the task it names cleared (R184, R186). -/
def State.writeAccown (s : State) (core : Nat) (v : W64) : State :=
  let s := s.modCore core fun k => { k.clearTiles with accown := keepFields 0 v [(0, 50), (61, 3)] }
  if bit v 63 then
    { s with ctxs := s.ctxs.map fun (c : Nat × Ctx) =>
        (c.1, match c.2.task with | some t => if t.serial % 2 ^ 48 = fld v 0 48 then { c.2 with tileMark := false } else c.2 | none => c.2) }
  else s
/-- A write to KATCFG: GUARD and RETRY; a suspect engine starts commands again (R215). -/
def State.writeKatcfg (s : State) (core : Nat) (v : W64) : State :=
  s.modCore core fun k => { k with katcfg := keepFields k.katcfg v [(0, 5)], suspect := false }
/-- A write to DBGCFG (R187): SCTX, then MODE, then GO or STEP as events. -/
def State.writeDbgcfg (s : State) (core : Nat) (v : W64) : State :=
  let s := (s.modCore core fun k => { k with dbgcfg := keepFields k.dbgcfg v [(10, 2)] }).setMode core (fld v 0 2)
  let s := if bit v 8 then s.post core 0 .go else s
  if bit v 9 then s.post core 0 .step else s
/-- A write to a core CSR. -/
def State.writeCore (s : State) (core num : Nat) (v : W64) : State :=
  match num - 0x200 with
  | 0 => s.writeAccown core v
  | 1 => s.modCore core fun k => { k with accdirty := k.accdirty &&& ~~~(v &&& 0xFF) }
  | 2 => s.writeKatcfg core v
  | 3 => s.modCore core fun k => { k with migcfg := BitVec.ofNat 64 (fld v 0 2 + 2 ^ 8 * max 1 (min 8 (fld v 8 4))) }
  | 4 => s.writeDbgcfg core v
  | 5 => s.modCore core fun k => { k with errlog := BitVec.ofNat 64 (fld v 0 48) }
  | _ => s

/-! Writes of device registers. -/

def clampTo (lo hi v : Nat) : Nat := max lo (min hi v)
/-- A base field from bit lo up, and a field of 5 bits at 0. -/
def baseLog (v : W64) (lo log : Nat) : W64 := BitVec.ofNat 64 (v.toNat / 2 ^ lo * 2 ^ lo + log)
/-- A write to EINJC (R213): FIRED clears where a 1 is written; an array that cannot be named, or a register of a dead core, clears ARM. -/
def State.writeEinjc (s : State) (v : W64) : State :=
  let old := s.reg 0x301
  let array := fld v 12 4
  let dead := 12 ≤ array ∨ (array < 6 ∧ s.map.cores.getLsbD (fld (s.reg 0x300) 13 9) = false)
  let fired := bit old 62 && !(bit v 62)
  s.setReg 0x301 (BitVec.ofNat 64 (fld v 0 16 + (if fired then 2 ^ 62 else 0) + (if bit v 63 ∧ ¬dead then 2 ^ 63 else 0)))
/-- PDLTAB with every code within 10 to 30 (R123). -/
def pdltab (v : W64) : W64 := BitVec.ofNat 64 (packRegs 5 (fun c => clampTo 10 30 (fld v (5 * c) 5)) 8)
/-- JCFG (R88): ignored while a queue is enabled; once it names a journal, that one is replayed (R95) (DEDUCED, log 67). -/
def State.writeJcfg (s : State) (v : W64) : State :=
  if s.queues.any fun q => q.2.en then s
  else
    let l := fld v 0 5
    let s := s.setReg 0x310 (baseLog v 20 (if l = 0 then 0 else clampTo 10 20 l))
    if s.dev.replayed then s else s.post 0 0 .journalReplay
/-- The event of an XCTL operation (R120). -/
def xctlOp (op : Nat) : Option Instr :=
  match op with
  | 1 => some .inval
  | 2 => some .revoke
  | 3 => some .remap
  | 4 => some .retry
  | 5 => some .failpark
  | _ => none
/-- A write to XCTL: ignored while BUSY, or for an OP that is none. -/
def State.writeXctl (s : State) (v : W64) : State :=
  match xctlOp (fld v 0 4) with
  | some i => if bit (s.reg 0x313) 63 then s else (s.setReg 0x313 (BitVec.ofNat 64 (fld v 0 7 + 2 ^ 63))).post 0 0 i
  | none => s
/-- DICTCTL's operation of an OP (R151). -/
def dictOp (op : Nat) : Option Instr :=
  match op with
  | 1 => some .load
  | 2 => some .bind
  | 3 => some .unbind
  | _ => none
/-- A write to DICTCTL: ignored while BUSY, or for OP 0. -/
def State.writeDictctl (s : State) (v : W64) : State :=
  match dictOp (fld v 0 2) with
  | some i => if bit (s.reg 0x340) 63 then s else (s.setReg 0x340 (setFld (s.reg 0x340) 63 1 1)).post 0 0 i
  | none => s
/-- PGCTL's operation of an OP (R227). -/
def pgOp (op : Nat) : Option Instr := if op = 1 then some .seal else if op = 2 then some .lost else none
/-- A write to PGCTL: ignored for an OP that is none, and while BUSY (DESIGN CHOICE, log 112). -/
def State.writePgctl (s : State) (v : W64) : State :=
  match pgOp (fld v 0 2) with
  | some i => if bit (s.reg 0x33A) 63 then s else (s.setReg 0x33A (setFld (s.reg 0x33A) 63 1 1)).post 0 0 i
  | none => s
/-- A write to DBGCTL (R187). -/
def State.writeDbgctl (s : State) (v : W64) : State :=
  let s := s.setReg 0x330 (BitVec.ofNat 64 (2 ^ 8 * fld v 8 6))
  let s := if bit v 0 then s.post 0 0 .halt else s
  if bit v 1 then s.post 0 0 .resume else s
/-- STRTAB (R205): ignored while a stream is bound. -/
def State.writeStrtab (s : State) (v : W64) : State :=
  if (List.range (fld (s.reg 0x332) 0 13)).any fun k => s.bytes (s.strEntry k + 0x15) 1 / 4 % 2 == 1 then s
  else s.setReg 0x332 (baseLog v 17 (min 4096 (fld v 0 13)))
/-- Registers 0x300 to 0x318. -/
def State.writeDevLow (s : State) (num : Nat) (v : W64) : State :=
  match num with
  | 0x300 => s.setReg num v
  | 0x301 => s.writeEinjc v
  | 0x304 => s.setReg num (BitVec.ofNat 64 (clampTo 100 1000000 (fld v 0 32)))
  | 0x305 => s.setReg num (BitVec.ofNat 64 (fld v 0 6))
  | 0x310 => s.writeJcfg v
  | 0x311 => s.setReg num (pdltab v)
  | 0x312 => s.setReg num (BitVec.ofNat 64 (fld v 0 48))
  | 0x313 => s.writeXctl v
  | 0x314 | 0x315 | 0x318 => s.setReg num v
  | 0x316 => s.setReg num (baseLog v 12 (clampTo 4 16 (fld v 0 5)))
  | _ => if 0x308 ≤ num ∧ num < 0x310 then s.writeTtab (num - 0x308) v else s
/-- Registers 0x320 to 0x342. SOVF and PTBASE stand while a task of the die or the partition exists (R123). -/
def State.writeDevHigh (s : State) (num : Nat) (v : W64) : State :=
  match num with
  | 0x330 => s.writeDbgctl v
  | 0x331 => s.setReg num v
  | 0x332 => s.writeStrtab v
  | 0x333 => s.setReg num (baseLog v 12 (clampTo 6 16 (fld v 0 5)))
  | 0x335 => s.setReg num v
  | 0x336 => s.setReg num (BitVec.ofNat 64 (v.toNat / 128 * 128))
  | 0x337 => if bit v 32 ∧ bit (s.reg num) 63 = false then (s.setReg num (setFld (s.reg num) 63 1 1)).post 0 0 .recctlGo else s
  | 0x338 => s.setReg num (baseLog v 12 (min 16 (fld v 0 5)))
  | 0x339 => s.setReg num (BitVec.ofNat 64 (fld v 0 35))
  | 0x33A => s.writePgctl v
  | 0x340 => s.writeDictctl v
  | 0x341 => s.setReg num (BitVec.ofNat 64 (v.toNat / 16 * 16))
  | 0x342 => s.setReg num (keepFields 0 v [(0, 9), (16, 14), (32, 15), (48, 16)])
  | _ =>
    if num < 0x328 then (if s.dieIdle (num - 0x320) then s.setReg num (baseLog v 20 (let l := fld v 0 5; if l = 0 then 0 else clampTo 9 10 l)) else s)
    else if num < 0x330 then (if s.partIdle (num - 0x328) then s.setReg num (baseLog v 12 (fld v 0 1)) else s) else s
/-- A write to a device register. -/
def State.writeDev (s : State) (num : Nat) (v : W64) : State :=
  if csrListed num then (if num < 0x320 then s.writeDevLow num v else s.writeDevHigh num v) else s

/-- A write to the trap window on context n (R174). -/
def State.writeWindow (s : State) (n num : Nat) (v : W64) : State :=
  if 0x400 < num ∧ num < 0x440 then s.modCtx n fun c => { c with s := c.s.put (num - 0x400) v }
  else if 0x440 < num ∧ num < 0x450 then s.modCtx n fun c => { c with g := c.g.put (num - 0x440) (v.truncate 33) }
  else if num = 0x450 then s.modCore (n / 4) fun k => { k with lbsel := fld v 0 7 }
  else s
/-- A write to a CSR or device register, by its map. -/
def State.writeReg64 (s : State) (n num : Nat) (v : W64) (win : Bool) : State :=
  if num < 0x100 then s.writeUser n num v win
  else if num < 0x200 then s.writePriv n num v
  else if num < 0x300 then s.writeCore (n / 4) num v
  else if num < 0x400 then s.writeDev num v
  else s.writeWindow n num v

/-! Registers beyond the CSR space, which only the host writes. Their numbers are the model's (log 50): 0x1000 + 8q + r is register r of queue q's
set (R82), 0x2014 MBCTL and 0x2018 MBCMD (R20). -/

/-- A write to QCTL (R82, R84): while EN is set only EN is written. -/
def State.writeQctl (s : State) (q : Nat) (v : W64) : State :=
  let h := s.hq q
  if h.en then (if bit v 0 then s else s.queueOff q)
  else
    let w : W64 := BitVec.ofNat 64 (2 * fld v 1 5 + 2 ^ 8 * clampTo 6 16 (fld v 8 5) + 2 ^ 16 * fld v 16 11)
    let s := s.setHq q { h with qctl := w }
    if bit v 0 then s.queueOn q else s
/-- A write to register r of a queue's set. -/
def State.writeQueue (s : State) (q r : Nat) (v : W64) : State :=
  let h := s.hq q
  match r with
  | 0 => s.setHq q { h with qbase := v }
  | 1 => s.setHq q { h with qtaila := v, tail := h.qhead }
  | 2 => s.setHq q { h with qdone := v }
  | 3 => if h.en then s else s.setHq q { h with qseq := v }
  | 5 => s.writeQctl q v
  | 7 => s.setHq q { h with qcdone := v }
  | _ => s
/-- What register r of a queue's set reads (R82). -/
def State.readQueue (s : State) (q r : Nat) : W64 :=
  let h := s.hq q
  match r with
  | 0 => h.qbase
  | 1 => h.qtaila
  | 2 => h.qdone
  | 3 => h.qseq
  | 4 => h.qhead
  | 5 => h.qctl
  | 6 => h.qstat
  | _ => h.qcdone
/-- REGISTER_WRITE (R270), of a CSR of context `ctx`, a device register or a queue's register, which BADIMAGE ignores (R11), or, through configuration
space, the mailbox's. -/
def execRegisterWrite (ctx num : Nat) (v : W64) (s : State) : Host.Outcome State Fault Refusal :=
  .next (
    if num < 0x1000 then s.heard (s.writeReg64 ctx num v false)
    else if num < 0x1200 then s.heard (s.writeQueue ((num - 0x1000) / 8) (num % 8) v)
    else if num = 0x2014 then (if bit v 0 then s.mbGo else s)
    else if num = 0x2018 then { s with dev := { s.dev with mbcmd := v.truncate 8 } }
    else s)

/-! The DVSEC (R19, R20), as configuration space shows it. -/

/-- LOCATOR: AREAOFF, 13 zero bits, and a BAR index of 0 to 5. -/
def locatorW : W32 := BitVec.ofNat 32 (Config.areaOffset.toNat * 2 ^ 16 + Config.areaBar % 6)
/-- STATUS: SPEED, WIDTH and the reset state. -/
def State.statusW (s : State) : W32 :=
  BitVec.ofNat 32 ((if s.dev.speed then 2 ^ 12 else 0) + (if s.dev.width then 2 ^ 8 else 0) + rstCode s.dev.rst)
/-- MBCTL: MBSTAT and BUSY; GO reads 0. -/
def State.mbctlW (s : State) : W32 := BitVec.ofNat 32 (s.dev.mbstat.toNat * 2 ^ 8 + if s.dev.mbbusy then 2 else 0)
/-- The dword at an offset of the DVSEC. The header is that of a designated vendor-specific extended capability of PCI Express (PRESUMED, log 120): ID
0x0023 and version 1; vendor, revision 0 and length; DVSEC ID 0x0001. -/
def State.dvsec (s : State) (off : Nat) : W32 :=
  match off with
  | 0x00 => BitVec.ofNat 32 (0x10023 + Config.dvsecNext.toNat * 2 ^ 20)
  | 0x04 => BitVec.ofNat 32 (Config.dvsecVendor.toNat + 0x1C * 2 ^ 20)
  | 0x08 => 1
  | 0x0C => locatorW
  | 0x10 => s.statusW
  | 0x14 => s.mbctlW
  | 0x18 => s.dev.mbcmd.zeroExtend 32
  | _ => 0

/-! The host's memory accesses (R81, R153). -/

/-- Eight bytes that the host reads from the description area through the BAR: the capability list, the map image, queue registers, device
registers and the mailbox buffer (R14, R20, R22, R82, R270). -/
def State.hostRead (s : State) (off : Nat) : W64 :=
  if 0xC000 ≤ off ∧ off < 0xD000 then BitVec.ofNat 64 (s.bytes (Config.capBase + off / 8 * 8) 8)
  else if 0x4000 ≤ off ∧ off < 0x5000 then s.readQueue ((off - 0x4000) / 64) (off / 8 % 8)
  else if 0x6000 ≤ off ∧ off < 0x6800 then s.readDev (0x300 + (off - 0x6000) / 8)
  else BitVec.ofNat 64 ((s.descRow off).toNat / 2 ^ (64 * (off / 8 % 16)))

/-- Eight bytes that the host stores in the description area, through the BAR (R20, R82, R270): a word of the mailbox buffer, a queue's register or
a device register; the capability list, the map image and the rest ignore them. -/
def State.hostWord (s : State) (off : Nat) (v : W64) : State :=
  if 0xC000 ≤ off ∧ off < 0xD000 then s.putMem (Config.capBase + off / 8 * 8) 8 v.toNat
  else if 0x4000 ≤ off ∧ off < 0x5000 then s.writeQueue ((off - 0x4000) / 64) (off / 8 % 8) v
  else if 0x6000 ≤ off ∧ off < 0x6800 then s.writeDev (0x300 + (off - 0x6000) / 8) v
  else s
/-- A store of 64 B there, word by word. -/
def State.hostWords (s : State) (off : Nat) (data : BitVec 512) : State :=
  (List.range 8).foldl (fun s i => s.hostWord (off / 64 * 64 + 8 * i) (data.extractLsb' (64 * i) 64)) s
/-- HOST_MEMORY_ACCESS: 64 B of HBM4E or second-tier memory, or of the description area; no other memory is exposed. In BADIMAGE the device does not
answer (R11) (DESIGN CHOICE, log 116). -/
def execHostMemoryAccess (addr : Nat) (store : Bool) (data : BitVec 512) (s : State) : Host.Outcome State Fault Refusal :=
  let half := addr / 64 % 2
  if s.mute then .next s
  else match homeOf addr with
  | .hbm _ | .tier _ =>
    .next (if store then
        s.storeLocal addr (BitVec.ofNat 1024 (data.toNat * 2 ^ (512 * half))) (BitVec.ofNat 1024 ((2 ^ 512 - 1) * 2 ^ (512 * half))) false
      else (s.loadLocal addr).1)
  | .desc =>
    if addr < Config.capBase + 65536 then .next (if store then s.hostWords (addr - Config.capBase) data else s) else .fault (.absentAddress addr)
  | _ => .fault (.absentAddress addr)

/-! Register writes with behaviour of their own. -/

/-- EINJC_WRITE. -/
def execEinjcWrite (v : W64) (s : State) : Host.Outcome State Fault Refusal := .next (s.heard (s.writeEinjc v))
/-- ACCOWN_WRITE. -/
def execAccownWrite (core : Nat) (v : W64) (s : State) : Host.Outcome State Fault Refusal := .next (s.heard (s.writeAccown core v))
/-- KATCFG_WRITE. -/
def execKatcfgWrite (core : Nat) (v : W64) (s : State) : Host.Outcome State Fault Refusal := .next (s.heard (s.writeKatcfg core v))
/-- RNGSEL_WRITE. -/
def execRngselWrite (ctx : Nat) (v : W64) (s : State) : Host.Outcome State Fault Refusal := .next (s.heard (s.writeRngsel ctx v))

/-! CSRR and CSRW (R290). -/

/-- CSRR: the value at issue lands after 1 tick; in a handler the CSRs are the trapped context's (R173). -/
def execCsrr (r : BitVec 6) (csr : BitVec 12) (s : State) : Host.Outcome State Fault Refusal :=
  issue s (s.csrTrap (.csrr r csr) csr.toNat) (s.landS 0 0 r 1 (s.readReg64 s.cur csr.toNat))
/-- CSRW. -/
def execCsrw (r : BitVec 6) (csr : BitVec 12) (s : State) : Host.Outcome State Fault Refusal :=
  issue s (s.csrTrap (.csrw r csr) csr.toNat) (s.writeReg64 s.cur csr.toNat (s.rdS r) s.hidden)

end Sys2Proof.Machine
end

