-- ==== Sys2Proof/Machine/Dispatch.lean ====
section
/-! DEFINITION. The dispatch: one arm per constructor of Instr, each one direct call of its meaning. -/

namespace Sys2Proof.Machine

def exec (i : Instr) (s : State) : Host.Outcome State Fault Refusal :=
  match i with
  | .newImageAccept img => Sys2Proof.Machine.execNewImageAccept img s
  | .arrayTest fails => Sys2Proof.Machine.execArrayTest fails s
  | .coreSelfTest failed => Sys2Proof.Machine.execCoreSelfTest failed s
  | .memoryTest r => Sys2Proof.Machine.execMemoryTest r s
  | .linkBringup r => Sys2Proof.Machine.execLinkBringup r s
  | .powerMeasurement watts => Sys2Proof.Machine.execPowerMeasurement watts s
  | .mapEvent r => Sys2Proof.Machine.execMapEvent r s
  | .flitArbitration l => Sys2Proof.Machine.execFlitArbitration l s
  | .write rx f => Sys2Proof.Machine.execWrite rx f s
  | .read rx f => Sys2Proof.Machine.execRead rx f s
  | .atomic rx f => Sys2Proof.Machine.execAtomic rx f s
  | .resp rx f => Sys2Proof.Machine.execResp rx f s
  | .mapnote rx f => Sys2Proof.Machine.execMapnote rx f s
  | .credit rx f => Sys2Proof.Machine.execCredit rx f s
  | .nak rx f => Sys2Proof.Machine.execNak s rx f
  | .drainAnswer rx f => Sys2Proof.Machine.execDrainAnswer s rx f
  | .drainMarker rx f => Sys2Proof.Machine.execDrainMarker rx f s
  | .slotLock slot allow => Sys2Proof.Machine.execSlotLock slot allow s
  | .treeup seam f => Sys2Proof.Machine.execTreeup seam f s
  | .refill seam f => Sys2Proof.Machine.execRefill seam f s
  | .refillAnswer seam handle ans => Sys2Proof.Machine.execRefillAnswer seam handle ans s
  | .slotInstall seam handle => Sys2Proof.Machine.execSlotInstall seam handle s
  | .treeCredit child f => Sys2Proof.Machine.execTreeCredit child f s
  | .seamTimeout seam handle => Sys2Proof.Machine.execSeamTimeout seam handle s
  | .lateMark seam f => Sys2Proof.Machine.execLateMark seam f s
  | .treedown seam f => Sys2Proof.Machine.execTreedown seam f s
  | .deliveryStatus handle member seg torn part => Sys2Proof.Machine.execDeliveryStatus handle member seg torn part s
  | .postCompletionNotice handle member seg status => Sys2Proof.Machine.execPostCompletionNotice handle member seg status s
  | .expert die f => Sys2Proof.Machine.execExpert die f s
  | .commitAcknowledgement die entry rep bytes ack => Sys2Proof.Machine.execCommitAcknowledgement die entry rep bytes ack s
  | .engineAccept core e => Sys2Proof.Machine.execEngineAccept core e s
  | .engineCommandComplete core e => Sys2Proof.Machine.execEngineCommandComplete core e s
  | .mapsetRetestDone cmd fault failed cap => Sys2Proof.Machine.execMapsetRetestDone cmd fault failed cap s
  | .syncStore addr val => Sys2Proof.Machine.execSyncStore addr val s
  | .syncDec addr => Sys2Proof.Machine.execSyncDec addr s
  | .syncAtomic addr op x cv wide => Sys2Proof.Machine.execSyncAtomic addr op x cv wide s
  | .rendezvousArrival addr epoch rank parties ctx => Sys2Proof.Machine.execRendezvousArrival addr epoch rank parties ctx s
  | .hostMemoryAccess addr store data => Sys2Proof.Machine.execHostMemoryAccess addr store data s
  | .migrate core q1 => Sys2Proof.Machine.execMigrate core q1 s
  | .dbgcfgModeWrite core mode => Sys2Proof.Machine.execDbgcfgModeWrite core mode s
  | .einjcWrite v => Sys2Proof.Machine.execEinjcWrite v s
  | .accownWrite core v => Sys2Proof.Machine.execAccownWrite core v s
  | .katcfgWrite core v => Sys2Proof.Machine.execKatcfgWrite core v s
  | .ttabWrite n v => Sys2Proof.Machine.execTtabWrite n v s
  | .rngselWrite ctx v => Sys2Proof.Machine.execRngselWrite ctx v s
  | .registerWrite ctx num v => Sys2Proof.Machine.execRegisterWrite ctx num v s
  | .emptyBundle seg wf => Sys2Proof.Machine.execEmptyBundle seg wf s
  | .br off => Sys2Proof.Machine.execBr off s
  | .brz r off => Sys2Proof.Machine.execBrz r off s
  | .brnz r off => Sys2Proof.Machine.execBrnz r off s
  | .brg g inv off => Sys2Proof.Machine.execBrg g inv off s
  | .jmp r => Sys2Proof.Machine.execJmp r s
  | .call off => Sys2Proof.Machine.execCall off s
  | .loop base body off => Sys2Proof.Machine.execLoop base body off s
  | .loopbrk g inv => Sys2Proof.Machine.execLoopbrk g inv s
  | .twait r off => Sys2Proof.Machine.execTwait r off s
  | .tsig r => Sys2Proof.Machine.execTsig r s
  | .tspawn r off => Sys2Proof.Machine.execTspawn r off s
  | .rdv sa se => Sys2Proof.Machine.execRdv sa se s
  | .fset m => Sys2Proof.Machine.execFset m s
  | .fclr m => Sys2Proof.Machine.execFclr m s
  | .fence scope kind => Sys2Proof.Machine.execFence scope kind s
  | .trap cause code => Sys2Proof.Machine.execTrap cause code s
  | .csrr r csr => Sys2Proof.Machine.execCsrr r csr s
  | .csrw r csr => Sys2Proof.Machine.execCsrw r csr s
  | .bkpt imm => Sys2Proof.Machine.execBkpt imm s
  | .rot n => Sys2Proof.Machine.execRot n s
  | .snop p gd => Sys2Proof.Machine.execSnop p gd s
  | .add a => Sys2Proof.Machine.execAdd a s
  | .sub a => Sys2Proof.Machine.execSub a s
  | .addi a => Sys2Proof.Machine.execAddi a s
  | .li a => Sys2Proof.Machine.execLi a s
  | .lui a => Sys2Proof.Machine.execLui a s
  | .mul a => Sys2Proof.Machine.execMul a s
  | .mulh a => Sys2Proof.Machine.execMulh a s
  | .mulhu a => Sys2Proof.Machine.execMulhu a s
  | .div a => Sys2Proof.Machine.execDiv a s
  | .divu a => Sys2Proof.Machine.execDivu a s
  | .rem a => Sys2Proof.Machine.execRem a s
  | .remu a => Sys2Proof.Machine.execRemu a s
  | .and a => Sys2Proof.Machine.execAnd a s
  | .or a => Sys2Proof.Machine.execOr a s
  | .xor a => Sys2Proof.Machine.execXor a s
  | .andi a => Sys2Proof.Machine.execAndi a s
  | .ori a => Sys2Proof.Machine.execOri a s
  | .xori a => Sys2Proof.Machine.execXori a s
  | .shl a => Sys2Proof.Machine.execShl a s
  | .shr a => Sys2Proof.Machine.execShr a s
  | .sra a => Sys2Proof.Machine.execSra a s
  | .shli a => Sys2Proof.Machine.execShli a s
  | .shri a => Sys2Proof.Machine.execShri a s
  | .srai a => Sys2Proof.Machine.execSrai a s
  | .min a => Sys2Proof.Machine.execMin a s
  | .max a => Sys2Proof.Machine.execMax a s
  | .minu a => Sys2Proof.Machine.execMinu a s
  | .maxu a => Sys2Proof.Machine.execMaxu a s
  | .sel a => Sys2Proof.Machine.execSel a s
  | .cmpeq a => Sys2Proof.Machine.execCmpeq a s
  | .cmplt a => Sys2Proof.Machine.execCmplt a s
  | .cmpltu a => Sys2Proof.Machine.execCmpltu a s
  | .cmpeqi a => Sys2Proof.Machine.execCmpeqi a s
  | .cmplti a => Sys2Proof.Machine.execCmplti a s
  | .clz a => Sys2Proof.Machine.execClz a s
  | .popc a => Sys2Proof.Machine.execPopc a s
  | .bfx a => Sys2Proof.Machine.execBfx a s
  | .bfi a => Sys2Proof.Machine.execBfi a s
  | .ixr a => Sys2Proof.Machine.execIxr a s
  | .elen a => Sys2Proof.Machine.execElen a s
  | .elenPiece a => Sys2Proof.Machine.execElenPiece a s
  | .vnop p gd => Sys2Proof.Machine.execVnop p gd s
  | .vadd a => Sys2Proof.Machine.execVadd a s
  | .vsub a => Sys2Proof.Machine.execVsub a s
  | .vmul a => Sys2Proof.Machine.execVmul a s
  | .vfma a => Sys2Proof.Machine.execVfma a s
  | .vfms a => Sys2Proof.Machine.execVfms a s
  | .vfnma a => Sys2Proof.Machine.execVfnma a s
  | .vmin a => Sys2Proof.Machine.execVmin a s
  | .vmax a => Sys2Proof.Machine.execVmax a s
  | .vabs a => Sys2Proof.Machine.execVabs a s
  | .vneg a => Sys2Proof.Machine.execVneg a s
  | .vcmp a => Sys2Proof.Machine.execVcmp a s
  | .vsel a => Sys2Proof.Machine.execVsel a s
  | .vcvt a => Sys2Proof.Machine.execVcvt a s
  | .vrnd a => Sys2Proof.Machine.execVrnd a s
  | .vscalb a => Sys2Proof.Machine.execVscalb a s
  | .vexp2 a => Sys2Proof.Machine.execVexp2 a s
  | .vlog2 a => Sys2Proof.Machine.execVlog2 a s
  | .vrcp a => Sys2Proof.Machine.execVrcp a s
  | .vrsqrt a => Sys2Proof.Machine.execVrsqrt a s
  | .vsqrt a => Sys2Proof.Machine.execVsqrt a s
  | .vtanh a => Sys2Proof.Machine.execVtanh a s
  | .vsigm a => Sys2Proof.Machine.execVsigm a s
  | .vexp a => Sys2Proof.Machine.execVexp a s
  | .viadd a => Sys2Proof.Machine.execViadd a s
  | .visub a => Sys2Proof.Machine.execVisub a s
  | .viadds a => Sys2Proof.Machine.execViadds a s
  | .vimul a => Sys2Proof.Machine.execVimul a s
  | .vimad a => Sys2Proof.Machine.execVimad a s
  | .vand a => Sys2Proof.Machine.execVand a s
  | .vor a => Sys2Proof.Machine.execVor a s
  | .vxor a => Sys2Proof.Machine.execVxor a s
  | .vshl a => Sys2Proof.Machine.execVshl a s
  | .vshr a => Sys2Proof.Machine.execVshr a s
  | .vsra a => Sys2Proof.Machine.execVsra a s
  | .vimin a => Sys2Proof.Machine.execVimin a s
  | .vimax a => Sys2Proof.Machine.execVimax a s
  | .vicmp a => Sys2Proof.Machine.execVicmp a s
  | .vmov a => Sys2Proof.Machine.execVmov a s
  | .vbcast a => Sys2Proof.Machine.execVbcast a s
  | .vbcastI a => Sys2Proof.Machine.execVbcastI a s
  | .vext a => Sys2Proof.Machine.execVext a s
  | .vins a => Sys2Proof.Machine.execVins a s
  | .vperm a => Sys2Proof.Machine.execVperm a s
  | .vpermX a => Sys2Proof.Machine.execVpermX a s
  | .vrot a => Sys2Proof.Machine.execVrot a s
  | .vrotV a => Sys2Proof.Machine.execVrotV a s
  | .vrmrg a => Sys2Proof.Machine.execVrmrg a s
  | .vrmrgV a => Sys2Proof.Machine.execVrmrgV a s
  | .vpack a => Sys2Proof.Machine.execVpack a s
  | .vunpk a => Sys2Proof.Machine.execVunpk a s
  | .vzip a => Sys2Proof.Machine.execVzip a s
  | .vunzip a => Sys2Proof.Machine.execVunzip a s
  | .vlane a => Sys2Proof.Machine.execVlane a s
  | .vlaneMul a => Sys2Proof.Machine.execVlaneMul a s
  | .vxs a => Sys2Proof.Machine.execVxs a s
  | .vrsum a => Sys2Proof.Machine.execVrsum a s
  | .vrmax a => Sys2Proof.Machine.execVrmax a s
  | .vrmin a => Sys2Proof.Machine.execVrmin a s
  | .vramax a => Sys2Proof.Machine.execVramax a s
  | .vrisum a => Sys2Proof.Machine.execVrisum a s
  | .gand a => Sys2Proof.Machine.execGand a s
  | .gor a => Sys2Proof.Machine.execGor a s
  | .gxor a => Sys2Proof.Machine.execGxor a s
  | .gandn a => Sys2Proof.Machine.execGandn a s
  | .gcnt a => Sys2Proof.Machine.execGcnt a s
  | .gset a => Sys2Proof.Machine.execGset a s
  | .gsetN a => Sys2Proof.Machine.execGsetN a s
  | .vrng a => Sys2Proof.Machine.execVrng a s
  | .vrngf a => Sys2Proof.Machine.execVrngf a s
  | .nop slot => Sys2Proof.Machine.execNop slot s
  | .ldr a => Sys2Proof.Machine.execLdr a s
  | .ldrs a => Sys2Proof.Machine.execLdrs a s
  | .str a => Sys2Proof.Machine.execStr a s
  | .strs a => Sys2Proof.Machine.execStrs a s
  | .stash a => Sys2Proof.Machine.execStash a s
  | .stmc a => Sys2Proof.Machine.execStmc a s
  | .pld a => Sys2Proof.Machine.execPld a s
  | .pst a => Sys2Proof.Machine.execPst a s
  | .pstash a => Sys2Proof.Machine.execPstash a s
  | .gld a => Sys2Proof.Machine.execGld a s
  | .gst a => Sys2Proof.Machine.execGst a s
  | .glds a => Sys2Proof.Machine.execGlds a s
  | .gsts a => Sys2Proof.Machine.execGsts a s
  | .qld a => Sys2Proof.Machine.execQld a s
  | .qscat a => Sys2Proof.Machine.execQscat a s
  | .atom a => Sys2Proof.Machine.execAtom a s
  | .atomr a => Sys2Proof.Machine.execAtomr a s
  | .scld a => Sys2Proof.Machine.execScld a s
  | .scst a => Sys2Proof.Machine.execScst a s
  | .scmov a => Sys2Proof.Machine.execScmov a s
  | .scmovToVector a => Sys2Proof.Machine.execScmovToVector a s
  | .qmax a => Sys2Proof.Machine.execQmax a s
  | .qcvt a => Sys2Proof.Machine.execQcvt a s
  | .qcvtDec a => Sys2Proof.Machine.execQcvtDec a s
  | .qstep a => Sys2Proof.Machine.execQstep a s
  | .tmul a => Sys2Proof.Machine.execTmul a s
  | .tmuls a => Sys2Proof.Machine.execTmuls a s
  | .tzero a => Sys2Proof.Machine.execTzero a s
  | .tlda a => Sys2Proof.Machine.execTlda a s
  | .tsta a => Sys2Proof.Machine.execTsta a s
  | .ta2v a => Sys2Proof.Machine.execTa2v a s
  | .tv2a a => Sys2Proof.Machine.execTv2a a s
  | .tadd a => Sys2Proof.Machine.execTadd a s
  | .tscale a => Sys2Proof.Machine.execTscale a s
  | .tbias a => Sys2Proof.Machine.execTbias a s
  | .tact a => Sys2Proof.Machine.execTact a s
  | .tred a => Sys2Proof.Machine.execTred a s
  | .ttrans a => Sys2Proof.Machine.execTtrans a s
  | .tnorm a => Sys2Proof.Machine.execTnorm a s
  | .tcopy a => Sys2Proof.Machine.execTcopy a s
  | .kat pattern seed crc => Sys2Proof.Machine.execKat pattern seed crc s
  | .copy a => Sys2Proof.Machine.execCopy a s
  | .offl a => Sys2Proof.Machine.execOffl a s
  | .onld a => Sys2Proof.Machine.execOnld a s
  | .pub a => Sys2Proof.Machine.execPub a s
  | .post a => Sys2Proof.Machine.execPost a s
  | .xchg a => Sys2Proof.Machine.execXchg a s
  | .esend a => Sys2Proof.Machine.execEsend a s
  | .dictld a => Sys2Proof.Machine.execDictld a s
  | .unpick a => Sys2Proof.Machine.execUnpick a s
  | .ckpt a => Sys2Proof.Machine.execCkpt a s
  | .drain a => Sys2Proof.Machine.execDrain a s
  | .treeMake a => Sys2Proof.Machine.execTreeMake a s
  | .treeFree a => Sys2Proof.Machine.execTreeFree a s
  | .treeFreeze a => Sys2Proof.Machine.execTreeFreeze a s
  | .treeSave a => Sys2Proof.Machine.execTreeSave a s
  | .treeLoad a => Sys2Proof.Machine.execTreeLoad a s
  | .treeEdit a => Sys2Proof.Machine.execTreeEdit a s
  | .treeThaw a => Sys2Proof.Machine.execTreeThaw a s
  | .treeQuery a => Sys2Proof.Machine.execTreeQuery a s
  | .wplan a => Sys2Proof.Machine.execWplan a s
  | .etab a => Sys2Proof.Machine.execEtab a s
  | .coldReset => Sys2Proof.Machine.execColdReset s
  | .warmReset => Sys2Proof.Machine.execWarmReset s
  | .imageCheck => Sys2Proof.Machine.execImageCheck s
  | .thermalLimit => Sys2Proof.Machine.execThermalLimit s
  | .graceTimerExpiry => Sys2Proof.Machine.execGraceTimerExpiry s
  | .ident => Sys2Proof.Machine.execIdent s
  | .attest => Sys2Proof.Machine.execAttest s
  | .keywrap => Sys2Proof.Machine.execKeywrap s
  | .keyretire => Sys2Proof.Machine.execKeyretire s
  | .creditBatchTimer => Sys2Proof.Machine.execCreditBatchTimer s
  | .wplanDrainDone => Sys2Proof.Machine.execWplanDrainDone s
  | .retuneLatchTimeout => Sys2Proof.Machine.execRetuneLatchTimeout s
  | .darkIntervalEnd => Sys2Proof.Machine.execDarkIntervalEnd s
  | .relockTimeout => Sys2Proof.Machine.execRelockTimeout s
  | .ringReserve => Sys2Proof.Machine.execRingReserve s
  | .ringCommit => Sys2Proof.Machine.execRingCommit s
  | .chunkBoundary => Sys2Proof.Machine.execChunkBoundary s
  | .liveBoundRead => Sys2Proof.Machine.execLiveBoundRead s
  | .tailWordRead => Sys2Proof.Machine.execTailWordRead s
  | .commandAccept => Sys2Proof.Machine.execCommandAccept s
  | .queueEnable => Sys2Proof.Machine.execQueueEnable s
  | .queueDisable => Sys2Proof.Machine.execQueueDisable s
  | .dispatchDecision => Sys2Proof.Machine.execDispatchDecision s
  | .completionRecord => Sys2Proof.Machine.execCompletionRecord s
  | .journalReplay => Sys2Proof.Machine.execJournalReplay s
  | .nopCommand => Sys2Proof.Machine.execNopCommand s
  | .launch => Sys2Proof.Machine.execLaunch s
  | .copyh => Sys2Proof.Machine.execCopyh s
  | .ctxsave => Sys2Proof.Machine.execCtxsave s
  | .ctxload => Sys2Proof.Machine.execCtxload s
  | .variant => Sys2Proof.Machine.execVariant s
  | .mapsetRemove => Sys2Proof.Machine.execMapsetRemove s
  | .mapsetReturn => Sys2Proof.Machine.execMapsetReturn s
  | .signal => Sys2Proof.Machine.execSignal s
  | .waitv => Sys2Proof.Machine.execWaitv s
  | .waitvPoll => Sys2Proof.Machine.execWaitvPoll s
  | .fenceCommand => Sys2Proof.Machine.execFenceCommand s
  | .translationComplete => Sys2Proof.Machine.execTranslationComplete s
  | .taskDispatch => Sys2Proof.Machine.execTaskDispatch s
  | .forcedSave => Sys2Proof.Machine.execForcedSave s
  | .contextSave => Sys2Proof.Machine.execContextSave s
  | .pendingLoadIntoImage => Sys2Proof.Machine.execPendingLoadIntoImage s
  | .taskEndDrainComplete => Sys2Proof.Machine.execTaskEndDrainComplete s
  | .watchdogPreempt => Sys2Proof.Machine.execWatchdogPreempt s
  | .watchdogKill => Sys2Proof.Machine.execWatchdogKill s
  | .watchdogFence => Sys2Proof.Machine.execWatchdogFence s
  | .inval => Sys2Proof.Machine.execInval s
  | .revoke => Sys2Proof.Machine.execRevoke s
  | .remap => Sys2Proof.Machine.execRemap s
  | .retry => Sys2Proof.Machine.execRetry s
  | .failpark => Sys2Proof.Machine.execFailpark s
  | .rendezvousAnswer => Sys2Proof.Machine.execRendezvousAnswer s
  | .rdvtimeout => Sys2Proof.Machine.execRdvtimeout s
  | .codeFetch => Sys2Proof.Machine.execCodeFetch s
  | .resultLanding => Sys2Proof.Machine.execResultLanding s
  | .loadDataArrival => Sys2Proof.Machine.execLoadDataArrival s
  | .queuedAccessPerform => Sys2Proof.Machine.execQueuedAccessPerform s
  | .correctedWriteback => Sys2Proof.Machine.execCorrectedWriteback s
  | .reportTrap => Sys2Proof.Machine.execReportTrap s
  | .segmentEntry => Sys2Proof.Machine.execSegmentEntry s
  | .segmentRollback => Sys2Proof.Machine.execSegmentRollback s
  | .matrixCommandStart => Sys2Proof.Machine.execMatrixCommandStart s
  | .matrixCommandComplete => Sys2Proof.Machine.execMatrixCommandComplete s
  | .migratedResultReturn => Sys2Proof.Machine.execMigratedResultReturn s
  | .guardRelease => Sys2Proof.Machine.execGuardRelease s
  | .unpickEntry => Sys2Proof.Machine.execUnpickEntry s
  | .parityFillComplete => Sys2Proof.Machine.execParityFillComplete s
  | .sealComplete => Sys2Proof.Machine.execSealComplete s
  | .seal => Sys2Proof.Machine.execSeal s
  | .lost => Sys2Proof.Machine.execLost s
  | .recctlGo => Sys2Proof.Machine.execRecctlGo s
  | .load => Sys2Proof.Machine.execLoad s
  | .bind => Sys2Proof.Machine.execBind s
  | .unbind => Sys2Proof.Machine.execUnbind s
  | .halt => Sys2Proof.Machine.execHalt s
  | .resume => Sys2Proof.Machine.execResume s
  | .step => Sys2Proof.Machine.execStep s
  | .go => Sys2Proof.Machine.execGo s
  | .streamEntryArrival => Sys2Proof.Machine.execStreamEntryArrival s
  | .cnop => Sys2Proof.Machine.execCnop s
  | .ret => Sys2Proof.Machine.execRet s
  | .tend => Sys2Proof.Machine.execTend s
  | .trig => Sys2Proof.Machine.execTrig s
  | .yield => Sys2Proof.Machine.execYield s
  | .mark => Sys2Proof.Machine.execMark s
  | .rft => Sys2Proof.Machine.execRft s
  | .rmack => Sys2Proof.Machine.execRmack s
  | .dswap => Sys2Proof.Machine.execDswap s
  | .baste => Sys2Proof.Machine.execBaste s
  | .knot => Sys2Proof.Machine.execKnot s
  | .flitAcknowledgement => Sys2Proof.Machine.execFlitAcknowledgement s

end Sys2Proof.Machine
end

