-- ==== Sys2Proof/Machine/Check.lean ====
section
/-! DEFINITION. What a head bundle finds before it issues: the registers it names, the checks that trap in the issue class, the holds of
matrix commands' busy records, full queues and ordering (R126, R132, R140, R144, R159, R172, R177, R209, R210, R239, R248, R276). -/

namespace Sys2Proof.Machine

/-! The registers a slot operation names (R241 to R246). -/

/-- Vector registers a half reads by VA, VB and VC: how many of the three. -/
def vecReads : Instr → List Nat
  | .vfma a | .vfms a | .vfnma a | .vimad a | .vpermX a | .vrmrgV a => [a.va.toNat, a.vb.toNat, a.vc.toNat]
  | .vadd a | .vsub a | .vmul a | .vmin a | .vmax a | .vscalb a | .vcmp a | .vicmp a | .vsel a | .viadd a | .visub a | .viadds a
  | .vimul a | .vand a | .vor a | .vxor a | .vimin a | .vimax a | .vext a | .vperm a | .vrotV a | .vrmrg a | .vzip a | .vunzip a =>
    [a.va.toNat, a.vb.toNat]
  | .vshl a | .vshr a | .vsra a => if a.mod then [a.va.toNat] else [a.va.toNat, a.vb.toNat]
  | .vabs a | .vneg a | .vrnd a | .vcvt a | .vexp2 a | .vlog2 a | .vrcp a | .vrsqrt a | .vsqrt a | .vtanh a | .vsigm a | .vexp a
  | .vmov a | .vbcast a | .vins a | .vrot a | .vpack a | .vunpk a | .vxs a | .vrsum a | .vrmax a | .vrmin a | .vramax a | .vrisum a
  | .gset a => [a.va.toNat]
  | _ => []
/-- Vector registers that the memory, SQ and GS slots read, by their logical numbers; a quilt operation by its descriptor. -/
def State.slotReads (s : State) : Instr → List Nat
  | .str a | .strs a | .pst a | .gst a | .gsts a | .stash a | .pstash a => (List.range (nRows a)).map (a.v.toNat + ·)
  | .stmc a => [a.v.toNat]
  | .atom a | .atomr a => if a.mods.toNat = 10 then [a.v.toNat, a.v.toNat + 1] else [a.v.toNat]
  | .qld a => (List.range (quD (s.quDesc a))).map (a.v.toNat + ·)
  | .qscat a => (List.range (quD (s.quDesc a))).map (a.v.toNat + ·) ++ (List.range (quF (s.quDesc a))).map (a.v.toNat + 8 + ·)
  | .scmov a | .qmax a | .qcvt a | .qcvtDec a | .qstep a => [a.field 11 11]
  | i => vecReads i
/-- The vector register a half writes. -/
def vecWrites : Instr → List Nat
  | .vadd a | .vsub a | .vmul a | .vfma a | .vfms a | .vfnma a | .vmin a | .vmax a | .vabs a | .vneg a | .vsel a | .vcvt a | .vrnd a
  | .vscalb a | .vexp2 a | .vlog2 a | .vrcp a | .vrsqrt a | .vsqrt a | .vtanh a | .vsigm a | .vexp a | .viadd a | .visub a | .viadds a
  | .vimul a | .vimad a | .vand a | .vor a | .vxor a | .vshl a | .vshr a | .vsra a | .vimin a | .vimax a | .vmov a | .vbcast a
  | .vbcastI a | .vext a | .vins a | .vperm a | .vpermX a | .vrot a | .vrotV a | .vrmrg a | .vrmrgV a | .vpack a | .vunpk a | .vzip a
  | .vunzip a | .vlane a | .vlaneMul a | .vrsum a | .vrmax a | .vrmin a | .vramax a | .vrisum a | .gcnt a | .vrng a | .vrngf a =>
    [a.vd.toNat]
  | _ => []
def State.slotWrites (s : State) : Instr → List Nat
  | .ldr a | .ldrs a | .pld a | .gld a | .glds a => (List.range (nRows a)).map (a.v.toNat + ·)
  | .atomr a => [a.v.toNat]
  | .qld a => (List.range (quF (s.quDesc a))).map (a.v.toNat + 8 + ·)
  | .scmovToVector a => [a.field 11 11]
  | .qcvt a | .qcvtDec a | .qstep a => [a.field 11 11 + 1]
  | i => vecWrites i
/-- Scalar registers a slot reads. -/
def scalarReads : Instr → List Nat
  | .brz r _ | .brnz r _ | .jmp r | .twait r _ | .tsig r | .tspawn r _ | .csrw r _ => [r.toNat]
  | .loop r _ _ => [r.toNat]
  | .rdv a b => [a.toNat, b.toNat]
  | .ret => [63]
  | .add a | .sub a | .mul a | .mulh a | .mulhu a | .div a | .divu a | .rem a | .remu a | .and a | .or a | .xor a | .shl a | .shr a
  | .sra a | .min a | .max a | .minu a | .maxu a | .sel a | .cmpeq a | .cmplt a | .cmpltu a | .clz a | .popc a => [a.sa.toNat, a.sb.toNat]
  | .addi a | .andi a | .ori a | .xori a | .shli a | .shri a | .srai a | .cmpeqi a | .cmplti a | .bfx a => [a.sa.toNat]
  | .bfi a => [a.sd.toNat, a.sa.toNat]
  | .lui a => [a.sd.toNat]
  | .ldr a | .ldrs a | .str a | .strs a | .stash a | .stmc a | .pld a | .pst a | .pstash a | .gld a | .gst a | .glds a | .gsts a
  | .qld a | .qscat a | .atom a | .atomr a => [a.base.toNat]
  | .tmul a | .tmuls a | .tzero a | .tlda a | .tsta a | .ta2v a | .tv2a a | .tadd a | .tscale a | .tbias a | .tact a | .tred a
  | .ttrans a | .tnorm a | .tcopy a => [a.s.toNat]
  | .scld a | .scst a => [a.field 11 6]
  | .copy a | .offl a | .onld a | .pub a | .post a | .xchg a | .esend a | .dictld a | .unpick a | .ckpt a | .drain a | .treeMake a
  | .treeFree a | .treeFreeze a | .treeSave a | .treeLoad a | .treeEdit a | .treeThaw a | .treeQuery a | .wplan a | .etab a => [a.n.toNat]
  | _ => []
/-- Guard registers a slot reads, beside the pair's guard, which the vector half's VNOP carries too. -/
def guardReads (i : Instr) : List Nat :=
  match i with
  | .brg g _ _ | .loopbrk g _ => [g.toNat]
  | .gand a | .gor a | .gxor a | .gandn a => [a.gd.g.toNat, a.va.toNat % 16, a.vb.toNat % 16]
  | .gcnt a => [a.gd.g.toNat, a.va.toNat % 16]
  | .ldr a | .ldrs a | .str a | .strs a | .stash a | .stmc a | .pld a | .pst a | .pstash a | .gld a | .gst a | .glds a | .gsts a
  | .qld a | .qscat a | .atom a | .atomr a => [a.gd.g.toNat]
  | i => match encVec i with | some (_, w) => [w / 2 ^ 10 % 16] | none => (match encS i with | some (_, gd, _) => [gd.g.toNat] | none => [])
/-- Scale registers a slot reads. -/
def scaleReads : Instr → List Nat
  | .scst a | .scmovToVector a | .qcvt a => [a.k.toNat]
  | .tscale a => [a.s.toNat % 32]
  | _ => []

/-! Slots of a bundle. -/

/-- A slot present in a bundle: MASK bit, value, and what it decodes to, if anything (R236, R248). -/
structure Slot where
  bit : Nat
  val : Nat
  is : Option (List Instr)
  deriving DecidableEq, Repr

def slotList (parcels : List W32) : List Slot := (bundleSlots parcels).map fun p => ⟨p.1, p.2, decSlot p.1 p.2⟩
/-- The instructions of a bundle's slots, in MASK order. -/
def instrsOf (ss : List Slot) : List Instr := (ss.map fun x => x.is.getD []).flatten

/-! Row pairs (R276). -/

/-- The scratchpad rows a slot reads before its bundle issues. -/
def State.rowsWanted (s : State) : Instr → List Nat
  | .loop b _ o => let r := s.loopRow b o; [r, (r + 1) % Config.spRows]
  | .tspawn b o => let r := s.spawnRow b o; [r, (r + 1) % Config.spRows]
  | .qld a | .qscat a => let r := (s.rowAddr a).toNat % Config.spRows; [r, (r + 1) % Config.spRows]
  | .tmul a | .tmuls a => if a.ga || a.gb then [(s.rdS a.s).toNat % Config.spRows] else []
  | _ => []

/-! Checks (R172, R177). -/

/-- The log rows that a bundle appends (R376). -/
def State.bundleLog (s : State) : List Instr → Nat
  | [] => 0
  | i :: is =>
    (match i with
    | .qld a => s.logLen none (some a)
    | .tmul a => s.logLen (some (s.mxCmd 1 a none)) none
    | .tmuls a => s.logLen (some (s.mxCmd 2 a none)) none
    | .tzero a => s.logLen (some (s.mxCmd 3 a none)) none
    | .tlda a => s.logLen (some (s.mxCmd 4 a none)) none
    | .tsta a => s.logLen (some (s.mxCmd 5 a none)) none
    | .ta2v a => s.logLen (some (s.mxCmd 6 a none)) none
    | .tv2a a => s.logLen (some (s.mxCmd 7 a none)) none
    | .tadd a => s.logLen (some (s.mxCmd 8 a none)) none
    | .tscale a => s.logLen (some (s.mxCmd 9 a none)) none
    | .tbias a => s.logLen (some (s.mxCmd 10 a none)) none
    | .tact a => s.logLen (some (s.mxCmd 11 a none)) none
    | .tred a => s.logLen (some (s.mxCmd 12 a none)) none
    | .ttrans a => s.logLen (some (s.mxCmd 13 a none)) none
    | .tnorm a => s.logLen (some (s.mxCmd 14 a none)) none
    | .tcopy a => s.logLen (some (s.mxCmd 15 a none)) none
    | _ => 0) + s.bundleLog is
/-- A trap that a check of extent rows found. -/
def GsChk.asTrap : GsChk → Option (Nat × Nat)
  | .trap c t => some (c, t)
  | _ => none
/-- The matrix command of an MX slot. -/
def State.mxOf (s : State) : Instr → Option MxCmd
  | .tmul a => some (s.mxCmd 1 a none)
  | .tmuls a => some (s.mxCmd 2 a none)
  | .tzero a => some (s.mxCmd 3 a none)
  | .tlda a => some (s.mxCmd 4 a none)
  | .tsta a => some (s.mxCmd 5 a none)
  | .ta2v a => some (s.mxCmd 6 a none)
  | .tv2a a => some (s.mxCmd 7 a none)
  | .tadd a => some (s.mxCmd 8 a none)
  | .tscale a => some (s.mxCmd 9 a none)
  | .tbias a => some (s.mxCmd 10 a none)
  | .tact a => some (s.mxCmd 11 a none)
  | .tred a => some (s.mxCmd 12 a none)
  | .ttrans a => some (s.mxCmd 13 a none)
  | .tnorm a => some (s.mxCmd 14 a none)
  | .tcopy a => some (s.mxCmd 15 a none)
  | .kat p seed crc => some (s.mxCmd 0 noXArgs (some (p.toNat, seed.toNat, crc.toNat)))
  | _ => none
/-- The opcode and parcel of an EC slot. -/
def ecOf : Instr → Option (Nat × EArgs)
  | .copy a => some (0x01, a)
  | .offl a => some (0x02, a)
  | .onld a => some (0x03, a)
  | .pub a => some (0x04, a)
  | .post a => some (0x05, a)
  | .xchg a => some (0x06, a)
  | .esend a => some (0x07, a)
  | .dictld a => some (0x08, a)
  | .unpick a => some (0x09, a)
  | .ckpt a => some (0x0A, a)
  | .drain a => some (0x0B, a)
  | .treeMake a => some (0x0C, a)
  | .treeFree a => some (0x0D, a)
  | .treeFreeze a => some (0x0E, a)
  | .treeSave a => some (0x0F, a)
  | .treeLoad a => some (0x10, a)
  | .treeEdit a => some (0x11, a)
  | .treeThaw a => some (0x12, a)
  | .treeQuery a => some (0x13, a)
  | .wplan a => some (0x14, a)
  | .etab a => some (0x15, a)
  | _ => none
/-- The rows of ATOM and ATOMR. -/
def State.atomOffs (s : State) (a : MArgs) : List Nat := [rowK (s.rowAddr a) 1 0]
/-- What DSWAP finds. -/
def State.dswapTrap (s : State) : Option (Nat × Nat) :=
  let sl := fld s.me.csr.dictl 16 15
  both (both (s.noTask .dswap) (s.noBody .dswap))
    (if sl = 0 ∨ s.me.shadowId.isNone then some (0x01, slotTval .dswap)
    else if (s.bindId s.coreNo (s.me.shadowId.getD 0) (fld s.me.csr.dictb 16 14) sl).isNone then some (0x01, s.me.shadowId.getD 0) else none)
/-- What TSPAWN finds. -/
def State.tspawnTrap (s : State) (r : BitVec 6) (off : BitVec 18) : Option (Nat × Nat) :=
  let row := s.spawnRow r off
  let p := s.pairAt row
  both (s.noTask (.tspawn r off)) (if !s.spawnOk p then some (0x01, row)
    else match s.spawn p with | .refused => some (0x01, row) | _ => none)
/-- The trap that the check of one slot operation finds, taken from the operation's own rule. -/
def State.slotCheck (s : State) (n : Nat) (i : Instr) : Option (Nat × Nat) :=
  match i with
  | .call _ | .ret => s.noBody i
  | .loop b _ o => both (both (s.noTask i) (s.noBody i)) (if lnrOkLoop (s.pairAt (s.loopRow b o)) 0 then none else some (0x01, slotTval i))
  | .loopbrk _ _ => both (s.noTask i) (if s.me.lp.isNone then some (0x01, slotTval i) else none)
  | .tend | .trig | .yield | .rdv _ _ | .rmack | .knot => s.noTask i
  | .twait r _ => both (s.noTask i) (s.twaitTrap i (s.rdS r))
  | .tsig r => both (s.noTask i) (s.tsigTrap (s.rdS r))
  | .tspawn r o => s.tspawnTrap r o
  | .rft => if s.hidden then none else some (0x03, slotTval i)
  | .dswap => s.dswapTrap
  | .baste => s.basteCheck
  | .csrr _ n | .csrw _ n => s.csrTrap i n.toNat
  | .vadd _ | .vsub _ | .vmul _ | .vfma _ | .vfms _ | .vfnma _ | .vrnd _ | .vscalb _ | .vcvt _ => s.srTrap i
  | .vrng _ | .vrngf _ => s.drawTrap (slotTval i)
  | .pld a | .pst a => psTrap (rowK (s.rowAddr a) 1) (nRows a)
  | .pstash a => psTrap (rowK (s.rowAddr a) 1) (1024 / fmtWidth a.ext.toNat)
  | .gld a => (s.gsCheck false a.ext.toNat (s.offsets a 1) (decide (s.lanes a.gd ≠ 0))).asTrap
  | .glds a => (s.gsCheck false a.ext.toNat (s.offsets a (strideOf a)) (decide (s.lanes a.gd ≠ 0))).asTrap
  | .gst a => (s.gsCheck true a.ext.toNat (s.offsets a 1) (decide (s.lanes a.gd ≠ 0))).asTrap
  | .gsts a => (s.gsCheck true a.ext.toNat (s.offsets a (strideOf a)) (decide (s.lanes a.gd ≠ 0))).asTrap
  | .atom a => (s.gsCheck true a.ext.toNat (s.atomOffs a) (!(s.atomElems a).isEmpty)).asTrap
  | .atomr a => (s.gsCheck2 a.ext.toNat (s.atomOffs a) (!(s.atomElems a).isEmpty)).asTrap
  | .qld a => both (s.qldCheck a).asTrap (s.logCheck n).asTrap
  | .qscat a => (s.qscatCheck a).asTrap
  | .kat _ _ _ => none
  | _ =>
    match ecOf i, s.mxOf i with
    | some (op, _), _ => s.ecTrap i op
    | none, some c => both (s.mxTrap i c) (s.logCheck n).asTrap
    | none, none => none
/-- The traps of a slot: an undecodable one is ILLEGAL; what a pair's operation reports of its slot is the slot's first parcel. -/
def State.slotTraps (s : State) (n : Nat) (x : Slot) : List (Nat × Nat) :=
  let shown := x.bit + 2 ^ 32 * (x.val % 2 ^ 32)
  match x.is with
  | none => [(0x01, shown)]
  | some is => is.filterMap fun i => (s.slotCheck n i).map fun t => if t.1 = 0x01 ∧ (x.bit = 1 ∨ x.bit = 2) then (t.1, shown) else t
/-- Of the traps of all slots the one taken: ILLEGAL, then PRIV, then the lowest slot's (R172). -/
def pickTrap (ts : List (Nat × Nat)) : Option (Nat × Nat) :=
  match ts.find? (fun t => t.1 == 0x01) with
  | some t => some t
  | none => match ts.find? (fun t => t.1 == 0x03) with
    | some t => some t
    | none => ts.head?
/-- RDVTIMEOUT, which is checked after every slot (R172, R285). -/
def Hold.lateTrap (h : Hold) : Option (Nat × Nat) :=
  match h with
  | .late a => some (0x17, a.toNat)
  | _ => Option.none
def State.bundleTrap (s : State) (ss : List Slot) : Option (Nat × Nat) :=
  let n := s.bundleLog (instrsOf ss)
  (pickTrap (ss.map (s.slotTraps n)).flatten).orElse fun _ => s.me.hold.lateTrap

/-! Holds (R126). -/

/-- What keeps a head bundle from issuing: a full queue or an unsatisfied WF passes the lead; a hold keeps it, and a hold of the landing buffer
lets the ticks go on (R126, R127, R132). -/
inductive Stay where
  | pass | held | ticks
  deriving DecidableEq, Repr

/-- Whether a slot operation reads memory as a timed load, its row pair included (R154, R276, R334). -/
def isTimedLoad : Instr → Bool
  | .ldr _ | .ldrs _ | .pld _ | .scld _ | .loop _ _ _ | .tspawn _ _ | .qld _ | .qscat _ => true
  | .tmul a | .tmuls a => a.ga || a.gb
  | _ => false
/-- Whether a MARK of the context still waits for stores before it (R159): a timed load that issues in the cycle in which the last of
them performs reads later, and waits no longer (DEDUCED, log 52). -/
def State.markWaits (s : State) (n : Nat) : Bool :=
  let q := (s.ctx n).q
  (List.range q.length).any fun i =>
    match q[i]? with
    | some m => isMark m && ((q.take i).any (fun p => p.isStore && !isMark p && p.st != .dead && decide (p.iss < m.iss)) ||
        s.timed.any fun t => t.ctx == n && t.store && decide (t.iss < m.iss) && decide (s.cyc n < t.due))
    | none => false

/-- Commands whose busy records hold a bundle of the issuing context: all of the core's, or in a handler its own and the trapped context's
(R144, R175). -/
def State.busyFor (s : State) : List MxCmd :=
  let k := (s.core s.coreNo).busy s.coreNo
  if s.hidden then k.filter fun c => c.ctx == s.act || c.ctx == s.cur else k
/-- The rows of the core's scratchpad among those that a check of extent rows found. -/
def State.ownRows (s : State) (c : GsChk) : List Nat :=
  match c with
  | .ok places => places.filterMap fun x =>
      if !x.2 && devOf x.1 == s.dev.devid.toNat && homeOf (localOf x.1) == .sp s.coreNo then some ((localOf x.1 - Config.spBase) / 128 % Config.spRows)
      else none
  | _ => []
/-- Those of a memory operation with an active lane. -/
def State.extRows (s : State) (write : Bool) (a : MArgs) (offs : List Nat) : List Nat :=
  if s.lanes a.gd = 0 then [] else s.ownRows (s.gsCheck write a.ext.toNat offs true)
/-- Scratchpad rows of the core that a slot operation reads, and writes. -/
def State.spReads (s : State) (i : Instr) : List Nat :=
  match i with
  | .ldr a => (List.range (nRows a)).map fun k => rowK (s.rowAddr a) 1 k % Config.spRows
  | .ldrs a => (List.range (nRows a)).map fun k => rowK (s.rowAddr a) (strideOf a) k % Config.spRows
  | .scld a => [s.scRow a]
  | .gld a => s.extRows false a (s.offsets a 1)
  | .glds a => s.extRows false a (s.offsets a (strideOf a))
  | .atom a | .atomr a => s.extRows true a (s.atomOffs a)
  | .qld a => s.rowsWanted i ++ s.ownRows (s.qldCheck a)
  | .qscat a => s.rowsWanted i ++ s.ownRows (s.qscatCheck a)
  | i => s.rowsWanted i
def State.spWrites (s : State) (i : Instr) : List Nat :=
  match i with
  | .str a => (List.range (nRows a)).map fun k => rowK (s.rowAddr a) 1 k % Config.spRows
  | .strs a => (List.range (nRows a)).map fun k => rowK (s.rowAddr a) (strideOf a) k % Config.spRows
  | .stash a => (List.range (1024 / fmtWidth a.ext.toNat)).map fun k => rowK (s.rowAddr a) 1 k % Config.spRows
  | .scst a => [s.scRow a]
  | .stmc a => if (List.range 16).any fun k => bit (s.rdS a.base) k && coreAt s.coreNo k == s.coreNo then [0x7F00 + a.off.toNat % 256] else []
  | .gst a => s.extRows true a (s.offsets a 1)
  | .gsts a => s.extRows true a (s.offsets a (strideOf a))
  | .atom a | .atomr a => s.extRows true a (s.atomOffs a)
  | .qscat a => s.ownRows (s.qscatCheck a)
  | _ => []
/-- Whether a busy record holds a slot operation (R144). -/
def State.busyHolds (s : State) (cs : List MxCmd) (i : Instr) : Bool :=
  let rd := s.spReads i
  let wr := s.spWrites i
  let vs := (s.slotReads i ++ s.slotWrites i).map s.phys
  cs.any fun c =>
    meets rd (mxWriteRows c) || meets wr (mxReadRows c ++ mxWriteRows c) || (c.tgt == s.cur && meets vs c.regs)

/-- Whether a rounding or drawing operation waits for its stream's entry (R206). -/
def State.drawWaits (s : State) (i : Instr) : Bool :=
  s.tgt.rngWait && (match i with
    | .vrng _ | .vrngf _ => true
    | .vadd _ | .vsub _ | .vmul _ | .vfma _ | .vfms _ | .vfnma _ | .vrnd _ | .vscalb _ | .vcvt _ => s.isSr
    | _ => false)
def GsChk.waits : GsChk → Bool
  | .frozen => true
  | _ => false
/-- Whether TSPAWN finds its pool full, which holds it as a full engine queue does (R108, R282). -/
def State.spawnFull (s : State) (r : BitVec 6) (off : BitVec 18) : Bool :=
  let p := s.pairAt (s.spawnRow r off)
  s.me.task.isSome && s.spawnOk p && (match s.spawn p with | .full => true | _ => false)
/-- How one slot operation is held, `n` being the log rows of its bundle. -/
def State.slotHold (s : State) (n : Nat) (i : Instr) : Option Stay :=
  if (match s.mxOf i with | some c => s.mxFull c | none => false) then some .pass
  else if (match ecOf i with | some (op, a) => s.ecFull op a | none => false) then some .pass
  else if isTimedLoad i && s.markWaits s.act then some .held
  else if s.drawWaits i then some .held
  else if s.busyHolds s.busyFor i then some .held
  else match i with
    | .knot => if !s.hidden && s.logOut s.act then some .held else none
    | .dswap => if s.dictldOut then some .held else none
    | .tspawn r o => if s.spawnFull r o then some .pass else none
    | .twait r _ =>
      if s.hidden || (s.twaitTrap i (s.rdS r)).isSome || !(s.twaitWaits (s.rdS r)) then none
      else match s.me.task with
        | some t => if s.frameIs s.me t.trec = .waits then some .held else some .pass
        | none => none
    | .rdv _ _ => match s.me.hold with | .rdv _ _ true | .late _ => none | _ => if s.hidden then none else some .held
    | .qld a => if (s.qldCheck a).waits || (s.logCheck n).waits then some .held else none
    | .qscat a => if (s.qscatCheck a).waits then some .held else none
    | .kat _ _ _ => none
    | _ => match s.mxOf i with | some c => if s.mxLanding c || (s.logCheck n).waits then some .held else none | none => none
/-- The worst of several: passing the lead, then holding, then ticking. -/
def worst (hs : List Stay) : Option Stay :=
  if hs.contains .pass then some .pass else if hs.contains .held then some .held else hs.head?
/-- Whether the MX and KT slots of one bundle need two places of a queue that has one (R142). -/
def State.mxBoth (s : State) (is : List Instr) : Bool :=
  match is.filterMap s.mxOf with
  | c :: _ :: _ => decide (7 ≤ (if c.q1 then (s.core c.home).q1 else (s.core c.home).q0).length)
  | _ => false
def State.bundleHold (s : State) (is : List Instr) : Option Stay :=
  if s.mxBoth is then some .pass else worst (is.filterMap (s.slotHold (s.bundleLog is)))

/-! FENCE (R160). -/

/-- Whether a home of this device lies in the unit of a scope that contains a core. -/
def inScope (scope core : Nat) (h : Home) : Bool :=
  match h with
  | .sp c => decide (scope ≠ 0) && (c == core || (decide (2 ≤ scope) && panelOfCore c == panelOfCore core) ||
      (decide (3 ≤ scope) && dieOfCore c == dieOfCore core) || decide (4 ≤ scope))
  | .ps p => (decide (2 ≤ scope) && p == panelOfCore core) || (decide (3 ≤ scope) && dieOfPanel p == dieOfCore core) || decide (4 ≤ scope)
  | .hbm k => (decide (3 ≤ scope) && dieOfStack k == dieOfCore core) || decide (4 ≤ scope)
  | .sync d => (decide (3 ≤ scope) && d == dieOfCore core) || decide (4 ≤ scope)
  | _ => decide (4 ≤ scope)
/-- Whether a queued access's home lies in the scope. -/
def State.accIn (s : State) (scope core : Nat) (x : W64) : Bool :=
  if devOf x = s.dev.devid.toNat then inScope scope core (homeOf (localOf x)) else decide (scope = 5)
def State.qIn (s : State) (scope core : Nat) (q : QAcc) : Bool :=
  if q.ext then decide (scope ≠ 0)
  else match q.what with
    | .mark => false
    | .qld _ _ _ _ rows => rows.any fun r => s.accIn scope core r.1
    | _ => s.accIn scope core q.addr
def tIn (scope core : Nat) (t : TAcc) : Bool := inScope scope core (if t.core < 512 then .sp t.core else .ps (t.core - 512))
/-- Whether engine commands of a context's task are not complete: in its queue, accepted, or running on any core. -/
def State.engCmdsOut (s : State) (n : Nat) : Bool :=
  let serial := match (s.ctx n).task with | some t => t.serial | none => 0
  let mine (c : EngCmd) : Bool := if n < 2048 then decide (c.ctx < 2048) && c.serial == serial else c.ctx == n
  (s.ctx n).engs.any mine || s.cores.any fun k => k.2.prio.any mine || k.2.running.any fun r => mine r.c
/-- Whether a fence of a context waits no longer, but for the landing of scope 0. -/
def State.fenceOk (s : State) (n core scope kind : Nat) : Bool :=
  let ld := !((s.ctx n).q.any fun q => q.isLoad && q.st != .dead && s.qIn scope core q) &&
    !(s.timed.any fun t => !t.store && t.ctx == n && tIn scope core t)
  let st := !((s.ctx n).q.any fun q => q.isStore && q.st != .dead && s.qIn scope core q) &&
    !(s.timed.any fun t => t.store && t.ctx == n && tIn scope core t) && (scope == 0 || !(s.mxBusy n core))
  (kind == 1 || ld) && (kind == 0 || st) && (kind != 3 || !(s.engCmdsOut n))

end Sys2Proof.Machine
end

