-- ==== Sys2Proof/Machine/Issue.lean ====
section
/-! DEFINITION. A cycle of a core: landing, reports, holds, the head bundle, lead and merge, and the issue of a bundle (R110, R120 to R122, R125 to R135,
R147, R159, R160, R170 to R175, R187 to R189, R217, R219, R233 to R239, R276, R284, R289). -/

namespace Sys2Proof.Machine

/-- One outcome after another. -/
def andThen (o : Host.Outcome State Fault Refusal) (f : State → Host.Outcome State Fault Refusal) : Host.Outcome State Fault Refusal :=
  match o with
  | .next s => f s
  | .fault r => .fault r
  | .refused r => .refused r
/-- Instructions one after another. -/
def runAll : List Instr → State → Host.Outcome State Fault Refusal
  | [], s => .next s
  | i :: is, s => andThen (exec i s) (runAll is)

/-! The head bundle (R233, R276). -/

/-- The head bundle of a context: the loop buffer's, the fetch queue's, or what is fetched now. -/
def State.head (s : State) (key : Nat) : FetchEnt :=
  let c := s.ctx key
  match c.lp with
  | some l => (l.buf[l.pos]?).getD (s.expand key 0 c.pc)
  | none => match c.fq with
    | e :: _ => if e.pc = c.pc then e else s.expand key 0 c.pc
    | [] => s.expand key 0 c.pc
/-- Header, slots and instructions of an expanded bundle. -/
def FetchEnt.hdr (e : FetchEnt) : Hdr := decHdr ((e.parcels.headD 0).toNat)
def FetchEnt.slots (e : FetchEnt) : List Slot := slotList e.parcels
def FetchEnt.instrs (e : FetchEnt) : List Instr := instrsOf e.slots
/-- The mask of a bundle's slots, for merging (R128). -/
def FetchEnt.mask (e : FetchEnt) : Nat := if e.bad.isSome || e.poison.isSome then 0 else e.hdr.mask % 2 ^ 11

/-- The flags that satisfy a WF in this cycle: those the device has set in it do so from the next (R126). -/
def Ctx.seen (c : Ctx) : BitVec 16 := c.f &&& ~~~c.fnew

/-! Standing of the head bundle (R126, R127, R132, R134). -/

/-- Whether a queued access over a revoked piece freezes its context: from the first cycle in which it could perform (R120) (DEDUCED, log 56). -/
def State.extFrozen (s : State) (key : Nat) : Bool := (s.ctx key).q.any fun q => q.ext && q.st != .dead && decide (q.iss + 10 ≤ s.cyc key)
/-- Whether a context is latency-frozen, for a result or for a LIVE bound (R147), or extent-frozen. -/
def State.isFrozen (s : State) (key : Nat) : Bool := s.frozenLand key || s.extFrozen key || (s.ctx key).liveWaits
/-- What keeps the head bundle from issuing, its row pairs aside (DEDUCED, log 106). -/
def State.stands (s : State) (key : Nat) : Option Stay :=
  let e := s.head key
  if e.bad.isSome || e.poison.isSome then (if s.isFrozen key then some .held else none)
  else
    let h := s.bundleHold e.instrs
    if e.hdr.wf &&& ~~~(s.ctx key).seen ≠ 0 then some .pass
    else if h = some .pass then some .pass
    else if s.isFrozen key then some .held
    else if e.hdr.seg && decide (key < 2048) && !(s.segReady key) then some .ticks
    else h
/-- The rows a head bundle reads before it issues. -/
def State.headRows (s : State) (key : Nat) : List Nat :=
  let e := s.head key
  if e.bad.isSome || e.poison.isSome then [] else (e.instrs.map s.rowsWanted).flatten
/-- Whether the rows it reads have not come yet. -/
def State.rowsLate (s : State) (key : Nat) : Bool :=
  !(s.headRows key).isEmpty && (match (s.ctx key).rowsAt with | some t => decide (s.cyc key < t) | none => true)

/-! Preparation of a cycle. -/

/-- A tick without issue (R110, R132, R160, R217). -/
def State.idleTick (s : State) (key : Nat) : State := s.modCtx key fun c => { c with schc := c.schc + 1 }
/-- The reads of a head bundle's rows start: at c + 2 and c + 3, and it issues in c + 4; with single rows alone, in c + 3 (R276). -/
def State.startRows (s : State) (key : Nat) : State :=
  let e := s.head key
  let wants := (e.instrs.map s.rowsWanted).filter (!·.isEmpty)
  let one (s : State) (r : Nat) (d : Nat) : State := s.time ⟨s.cyc key + d, false, 0, s.coreNo, r, key, 0, 0, 0, 0, false, s.cyc key⟩
  if wants.isEmpty ∨ (s.ctx key).rowsAt.isSome ∨ (s.stands key).isSome then s
  else
    let s' := wants.foldl (fun s rows => match rows with
      | [r] => one s r 2
      | [r, r'] => one (one s r 2) r' 3
      | _ => s) s
    s'.modCtx key fun c => { c with rowsAt := some (s.cyc key + if wants.any (fun w => w.length == 2) then 4 else 3), rowsRead := [] }
/-- The wait of an RDV at the head begins (R284). -/
def State.startRdv (s : State) (key : Nat) : State :=
  let c := s.ctx key
  let e := s.head key
  if c.hold ≠ .none ∨ s.hidden ∨ e.bad.isSome ∨ e.poison.isSome ∨ e.hdr.wf &&& ~~~c.seen ≠ 0 ∨ s.isFrozen key then s
  else
    match e.instrs.find? (fun i => match i with | .rdv _ _ => true | _ => false) with
    | some (.rdv a b) => s.modCtx key fun c => { c with hold := .rdv (s.rdS a) ((s.rdS b).truncate 32) false, rdvAt := none }
    | _ => s
/-- Whether a context's arrival stands at its word's home engine. -/
def State.arrivedAt (s : State) (n : Nat) (a : W64) : Bool :=
  let d := s.die (syDie (localOf a))
  (d.rdv.any fun r => r.addr == a && r.waiters.contains n) || d.rdvWait.any fun w => w.1 == a && w.2.2.2.2 == n
/-- The arrival leaves once the context's stores have performed, and RDVTO counts from then on (R284, R285) (DEDUCED, log 104). -/
def State.sendArrival (s : State) (n : Nat) (a : W64) (e : W32) : State :=
  match (s.ctx n).task with
  | none => s
  | some t =>
    if s.storesOut n then s
    else
      let s := s.modCtx n fun c => { c with rdvAt := some (c.rdvAt.getD (s.cyc n)) }
      if s.arrivedAt n a then s else s.post 0 0 (.rendezvousArrival a e t.rank t.size n)

/-- A FENCE's wait (R160). -/
def State.fenceStep (s : State) (key scope kind : Nat) : State :=
  let landed := scope ≠ 0 ∨ (s.ctx key).land.isEmpty = true
  if landed ∧ s.fenceOk key s.coreNo scope kind = true then s.modCtx key fun c => { c with hold := .none }
  else if scope = 0 ∧ (s.ctx key).land.isEmpty = false ∧ s.isFrozen key = false then s.idleTick key
  else s
/-- What a context that holds something does in a cycle. -/
def State.holdStep (s : State) (n : Nat) : State :=
  match (s.ctx n).hold with
  | .none | .knot | .stopped | .rft | .stuck | .late _ => s
  | .fence scope kind => s.fenceStep n scope kind
  | .ending _ => if s.drained n then s.post n 0 .taskEndDrainComplete else if s.frozenLand n then s else s.idleTick n
  | .rdv a e got => if got then s else s.sendArrival n a e
  | .save why _ => if why ≠ 0xC0 ∧ s.canSave n why = true ∧ (s.freeSave (dieOfCore (n / 4))).isSome then s.post n 0 .contextSave else s
  | .rollback => if s.rollReady n then s.post n 0 .segmentRollback else s
/-- REMAIN has run out: the save is forced at this boundary (R121). -/
def State.forceStep (s : State) (n : Nat) : State :=
  let c := s.ctx n
  if c.req = true ∧ c.remain = 0 ∧ c.hold.stays = false ∧ (s.freeSave (dieOfCore (n / 4))).isSome then s.post n 0 .forcedSave else s

/-- The head bundle made ready: the next pass of a loop, LIVE bounds, fetch, and the reads and arrivals that come before issue. -/
def State.headStep (s : State) (key : Nat) : State :=
  let s := ((s.modCtx key Ctx.loopHead).liveAsk key).modCtx key Ctx.passStart
  let c := s.ctx key
  let s := if c.lp.isNone && c.fq.isEmpty then s.fetchOne key else s
  let s := s.startRdv key
  s.startRows key
/-- Whether a context's hold lets its head bundle go on. -/
def Hold.open : Hold → Bool
  | .none | .rdv _ _ true | .late _ => true
  | _ => false
/-- The context may not move: halted, with no step that waits for it (R188, R189). -/
def State.stoppedNow (s : State) (n : Nat) : Bool := (s.ctx n).halted && !((s.core (n / 4)).stepFor (n % 4))
/-- A context prepared for the cycle: results land, reports trap, holds go on, the head bundle is made ready. Nothing more happens once a
handler runs. -/
def State.prepare (s : State) (n : Nat) : State :=
  let running (s : State) : Bool := (s.core (n / 4)).run.isSome || (s.ctx n).task.isNone
  if running s || s.stoppedNow n then s
  else
    let s := { s with cur := n }.landStep n
    if running s then s
    else
      let s := (s.modCtx n fun c => c.liveGot (s.cyc n)).liveAsk n
      let s := match (s.ctx n).hold with
        | .ending _ => s.modCtx n fun c => { c with reports := [] }
        | .save _ _ | .rollback | .stuck => s
        | _ => s.takeReport n
      if running s then s
      else
        let s := ({ s with cur := n }.holdStep n).forceStep n
        if (s.ctx n).hold.open then { s with cur := n }.headStep n
        else match (s.ctx n).hold with | .rdv _ _ _ => s | _ => s

/-! The issue of a bundle (R131, R235, R239). -/

/-- Landing-buffer entries as R132 counts them: the elements of one ATOMR or the halves of one result are one. -/
def landCount : List LandEntry → Nat
  | [] => 0
  | e :: es => (if e.op ≠ 0 ∧ e.kind ≠ .row ∧ es.any (fun x => x.op == e.op && x.dest == e.dest && x.kind == e.kind) = true then 0 else 1) + landCount es
/-- The sources of a bundle read, for an armed register error (R209, R213): the state, and array and target of an uncorrectable one. -/
def State.readRegs (s : State) (array ctx : Nat) : List Nat → State × Option (Nat × Nat)
  | [] => (s, none)
  | r :: rs =>
    let x := s.injReg array ctx r
    let y := x.1.readRegs array ctx rs
    (y.1, if x.2 then some (array, r + 2 ^ 11 * (ctx % 4) + 2 ^ 13 * (ctx / 4)) else y.2)
def State.readSources (s : State) (is : List Instr) : State × Option (Nat × Nat) :=
  if bit (s.reg 0x301) 63 = false then (s, none)
  else
    let v := s.readRegs 0 s.cur ((is.map s.slotReads).flatten.map s.phys)
    let own := if s.hidden then [] else (is.map scalarReads).flatten.filter (· ≠ 0) ++ ((is.map guardReads).flatten.filter (· ≠ 0)).map (64 + ·)
    let r := v.1.readRegs 1 s.cur own
    let k := r.1.readRegs 2 s.cur (is.map scaleReads).flatten
    (k.1, v.2.orElse fun _ => r.2.orElse fun _ => k.2)

/-- The start of a bundle's issue: where the context goes on, and the snapshot of a segment entry. -/
def State.beginBundle (s : State) (key : Nat) (e : FetchEnt) : State :=
  let s := s.modCtx key fun c =>
    if c.lp.isSome then c else { c with next := e.next, fq := c.fq.drop 1, owed := c.owed - 1 }
  if e.hdr.seg && decide (key < 2048) && decide (e.mask ≠ 0) then s.enterSegment key else s
/-- After the slots and before the control slot: the next bundle of a body. -/
def State.afterSlots (s : State) (key : Nat) (inLoop : Bool) : State := if inLoop then s.modCtx key Ctx.loopStep else s
/-- A bundle that issues: its slots in MASK order, the control slot last, then one tick (R130, R131). -/
def State.runBundle (s : State) (key : Nat) (e : FetchEnt) : Host.Outcome State Fault Refusal :=
  let inLoop := (s.ctx key).lp.isSome
  let s := s.beginBundle key e
  if e.mask = 0 then
    andThen (exec (.emptyBundle e.hdr.seg e.hdr.wf) s) fun s =>
      .next (if inLoop then s.modCtx key fun c => let c := c.loopStep; { c with pc := c.next } else s)
  else
    andThen (runAll (instrsOf (e.slots.filter (·.bit != 0))) s) fun s =>
      andThen (runAll (instrsOf (e.slots.filter (·.bit == 0))) (s.afterSlots key inLoop)) fun s => .next (s.tick key)

/-- What a context's attempt to issue comes to. -/
inductive Try where
  | stay (h : Stay)
  | go (o : Host.Outcome State Fault Refusal)

/-- Poison consumed by a head bundle, which does not issue (R210, R231). -/
def State.consumeAt (s : State) (key array : Nat) (addr : W64) : State :=
  (s.modCtx key fun c => { c with poisoned := some (array, addr) }).consume key
/-- After RDVTIMEOUT the RDV begins again (R285). -/
def State.rdvAgain (s : State) (key cause : Nat) : State := if cause = 0x17 then s.modCtx key fun c => { c with hold := .none } else s
/-- The head bundle of the issuing context, when nothing holds it: the trap of its checks, the poison it reads, or its issue; it waits for room in
the landing buffer (DEDUCED, log 108). -/
def State.issueHead (s : State) (key : Nat) : Try :=
  let e := s.head key
  match e.poison with
  | some (array, a) => .go (.next (s.consumeAt key array a))
  | none =>
    match e.bad with
    | some t => .go (.next (s.takeTrap t.1 t.2 (s.ctx key).pc))
    | none =>
      match s.bundleTrap e.slots with
      | some t => .go (.next ((s.rdvAgain key t.1).takeTrap t.1 (BitVec.ofNat 64 t.2) (s.ctx key).pc))
      | none =>
        let r := s.readSources e.instrs
        match r.2 with
        | some (array, target) => .go (.next (r.1.consumeAt key array (BitVec.ofNat 64 target)))
        | none =>
          match r.1.runBundle key e with
          | .next s' => if s.landCap < landCount (s'.ctx key).land then .stay .ticks else .go (.next s')
          | o => .go o
/-- A prepared context's attempt. -/
def State.try (s : State) (key : Nat) : Try :=
  if (s.ctx key).hold.open = false then .stay .held
  else
    match s.stands key with
    | some h => .stay h
    | none => if s.rowsLate key then .stay .held else s.issueHead key
/-- The attempt of context n. A context without a task passes the lead; a stopped one keeps it. -/
def State.tryCtx (s : State) (n : Nat) : Try :=
  if (s.ctx n).task.isNone then .stay .pass
  else if s.stoppedNow n then .stay .held
  else { s with cur := n }.try n

/-! Lead and merge (R127 to R129). -/

def insOrder (x : Nat × Nat) : List (Nat × Nat) → List (Nat × Nat)
  | [] => [x]
  | y :: ys => if x.1 < y.1 ∨ (x.1 = y.1 ∧ x.2 < y.2) then x :: y :: ys else y :: insOrder x ys
/-- The contexts of a core that hold tasks, by priority class and number. -/
def State.order (s : State) (k : Nat) : List Nat :=
  ((ctxsOf k).foldl (fun xs n => match (s.ctx n).task with | some t => insOrder (t.prio, n) xs | none => xs) []).map Prod.snd
/-- The attempt of context n as the lead: its stores rank as a lead's (R138, R140). -/
def State.tryLead (s : State) (n : Nat) : Try := (s.modCore (n / 4) fun k => { k with lead := n % 4 }).tryCtx n
/-- The first context of a list that is ready to take over as the lead, with what its issue gives. -/
def State.firstLead (s : State) : List Nat → Option (Nat × Host.Outcome State Fault Refusal)
  | [] => none
  | n :: ns => match s.tryLead n with | .go o => some (n, o) | .stay _ => s.firstLead ns
/-- The first ready context of a list, with what its issue gives. -/
def State.firstReady (s : State) : List Nat → Option (Nat × Host.Outcome State Fault Refusal)
  | [] => none
  | n :: ns => match s.tryCtx n with | .go o => some (n, o) | .stay _ => s.firstReady ns
/-- The lead of a cycle and what its issue gives, if it issues: it passes only where R127 says so. -/
def State.leadOf (s : State) (k : Nat) (order : List Nat) : Nat × Option (Host.Outcome State Fault Refusal) :=
  let n := 4 * k + (s.core k).lead % 4
  match s.tryCtx n with
  | .go o => (n, some o)
  | .stay .pass => match s.firstLead (order.filter (· ≠ n)) with | some (m, o) => (m, some o) | none => (n, none)
  | .stay _ => (n, none)
/-- After context n has issued in step mode: the results that are due now land, and STEP is taken, or pends where its bundle trapped (R189, R288). -/
def State.stepped (s : State) (n before : Nat) : State :=
  if (s.core (n / 4)).stepFor (n % 4) ∧ (s.ctx n).halted = true ∧ (s.ctx n).schc ≠ before then
    let s := s.modCore (n / 4) fun k => { k with dbgcfg := setFld k.dbgcfg 9 1 0 }
    let v := BitVec.ofNat 64 (s.ctx n).schc
    let s := if (s.core (n / 4)).run.isSome then s else { s with cur := n }.landStep n
    if (s.core (n / 4)).run.isSome then s.report n 0x12 v else { s with cur := n }.takeTrap 0x12 v (s.ctx n).pc
  else s
/-- One bundle may be merged with a lead's bundle of slots `mask` (R128). -/
def State.mergeOne (s : State) (lead mask : Nat) (order : List Nat) : Host.Outcome State Fault Refusal :=
  let ok (n : Nat) : Bool := let e := s.head n; e.mask &&& mask == 0 && !(e.hdr.seg && e.bad.isNone && e.poison.isNone)
  match s.firstReady (order.filter fun n => decide (n ≠ lead) && ok n) with
  | some (n, o) => andThen o fun s' => .next (s'.stepped n (s.ctx n).schc)
  | none => .next s
/-- The ticks of contexts held for their landing buffer or a segment entry go on, unless a handler took the core. -/
def State.restTicks (s : State) (k : Nat) (ns : List Nat) : State :=
  if (s.core k).run.isSome then s else ns.foldl State.idleTick s
/-- The issue stage of a core with no handler running. -/
def State.issueStage (s : State) (k : Nat) : Host.Outcome State Fault Refusal :=
  let order := s.order k
  let ticking := order.filter fun n => match s.tryCtx n with | .stay .ticks => true | _ => false
  let l := s.leadOf k order
  let s0 := s.modCore k fun c => { c with lead := l.1 % 4 }
  match l.2 with
  | none => andThen (s0.mergeOne l.1 0 order) fun s => .next (s.restTicks k ticking)
  | some o => andThen o fun s' =>
      let e := s.head l.1
      let s' := (if (s'.core k).run.isSome then s' else s'.modCore k fun c => { c with lead := l.1 % 4 }).stepped l.1 (s.ctx l.1).schc
      if (s'.core k).run.isSome then .next s'
      else if e.hdr.seg then .next (s'.restTicks k ticking)
      else andThen (s'.mergeOne l.1 e.mask order) fun s => .next (s.restTicks k ticking)

/-! The handler's cycle (R125, R173). -/

/-- The hidden trap context's preparation. -/
def State.prepareHidden (s : State) (k : Nat) : State :=
  let key := 2048 + k
  let s := s.landStep key
  if (s.core k).run.isNone then s
  else
    match (s.ctx key).hold with
    | .fence scope kind =>
      let s := s.fenceStep key scope kind
      if (s.ctx key).hold = .none then s.headStep key else s
    | .none => s.headStep key
    | _ => s
/-- The handler's part of a cycle: RFT ends it once its landing buffer is empty, its ticks going on meanwhile (R178, R289). -/
def State.handlerCycle (s : State) (k r : Nat) : Host.Outcome State Fault Refusal :=
  let key := 2048 + k
  let s := { s with cur := 4 * k + r }.prepareHidden k
  if (s.core k).run.isNone then .next s
  else if (s.ctx key).hold = .rft then
    .next (if (s.ctx key).land.isEmpty then (s.modCtx key fun c => { c with hold := .none }).returnTrap
      else if s.isFrozen key then s else s.idleTick key)
  else
    match s.try key with
    | .go o => o
    | .stay .ticks => .next (s.idleTick key)
    | .stay _ => .next s

/-! A core's cycle, and the clock. -/

/-- REMAIN counts down in contexts that are asked to leave, frozen or not (R121, R134). -/
def State.countDown (s : State) (k : Nat) : State :=
  (ctxsOf k).foldl (fun s n =>
    if (s.ctx n).req && (s.ctx n).task.isSome && !(s.ctx n).halted then s.modCtx n fun c => { c with remain := c.remain - 1 } else s) s
/-- One cycle of core k. -/
def State.coreCycle (s : State) (k : Nat) : Host.Outcome State Fault Refusal :=
  let s := (s.stopTarget k).countDown k
  match (s.core k).run with
  | some r => s.handlerCycle k r
  | none =>
    let s := (s.order k).foldl State.prepare s
    if (s.core k).run.isSome then .next s else s.issueStage k

/-- Whether a timed access waits with its stepped context (R189). -/
def State.timedStops (s : State) (t : TAcc) : Bool := decide (t.ctx < 2048) && (s.core (t.ctx / 4)).mode == 2 && s.stoppedNow t.ctx
/-- The cycle counts of the dies whose clock has an edge (R9). -/
def State.countDies (s : State) : State :=
  (List.range 8).foldl (fun t d => if s.ticks d then t.setDie d { t.die d with cyc := (t.die d).cyc + 1 } else t) s
/-- What a stopped context's timed accesses have left to go stays as it is (R155, R189). -/
def State.holdTimed (s : State) (ticked : Nat → Bool) : State :=
  { s with timed := s.timed.map fun t => if s.timedStops t && ticked (dieOfCtx t.ctx) then { t with due := t.due + 1 } else t }
/-- The flags set in the cycle that ends satisfy a WF from now on (R126). -/
def State.seenFlags (s : State) : State := { s with ctxs := mapVals (fun c => { c with fnew := 0, fset := 0 }) s.ctxs }
/-- A reconciliation that has found skewed streams makes its second pass a cycle later (R225) (DESIGN CHOICE, log 93). -/
def State.reconNext (s : State) : State := if s.dev.recon.isEmpty then s else s.post 0 0 .recctlGo
/-- A cycle ends: its timed writes perform, after every part of the cycle has read, and the next begins, whose timed reads perform before anything
else in it (R138, R140, R152, R154, R155, R161). -/
def State.newCycle (s : State) : State :=
  let t := (s.performWrites s.timedStops).countDies
  let t := ({ t with cycle := s.cycle + 1 } : State).holdTimed s.ticks
  ((t.seenFlags.performReads t.timedStops).freed true).reconNext
/-- The live cores that hold tasks and whose die has a clock edge now (R9), from core n on. -/
def State.activeFrom (s : State) (n : Nat) : Option Nat :=
  (s.ctxs.find? fun c => decide (4 * n ≤ c.1) && decide (c.1 < 2048) && c.2.task.isSome && s.map.cores.getLsbD (c.1 / 4) && s.ticks (dieOfCtx c.1)).map
    fun c => c.1 / 4
/-- The clock: the next active core in number takes its part of the cycle, and after the last one a new cycle begins (log 1). -/
def State.clock (s : State) : Host.Outcome State Fault Refusal :=
  match s.activeFrom s.turn with
  | some k => { s with turn := k + 1 }.coreCycle k
  | none => .next { s.newCycle with turn := 0 }

/-! Turns (log 1). -/

/-- Whether an instruction is issued by bundles only. -/
def isSlotOp (i : Instr) : Bool := (encode i).isSome
/-- One turn of the agenda: the clock, or a step of the device, which only a bundle's operation is not (log 5). -/
def State.runTurn (s : State) (t : Turn) : Host.Outcome State Fault Refusal :=
  match t with
  | .clock => s.clock
  | .event unit arg i => if isSlotOp i then .refused .notAnEvent else exec i { s with unit := unit, arg := arg }
/-- The machine's next turn: what follows from earlier steps first, then the agenda, then the clock. -/
def State.next (s : State) : Host.Outcome State Fault Refusal :=
  match s.pend with
  | t :: rest => { s with pend := rest }.runTurn t
  | [] => match s.agenda with
    | t :: rest => { s with agenda := rest }.runTurn t
    | [] => s.clock

/-! A program placed from outside (log 51). -/

/-- The task that stands for the launch of a placed program. -/
def placedTask : TaskRun := ⟨1, false, 0, 0, 0, 0, 0, 1, 0, 0, 0, 0, 0, 0, 0, 0⟩
/-- Where a placed program's code lies: a code-word address in the first stack. -/
def placedAt : CodeAddr := 0x1000
/-- The bytes of a literal bundle whose parcels are the bits w, header first (R238). -/
def literalBytes (w : Nat) : Nat := 0xFFFF + 2 ^ 16 * w
/-- The first context holds a task whose next bundle is there. -/
def State.placeTask (s : State) : State :=
  let s := { s with dev := { s.dev with rst := .ready }, agenda := [], pend := [], turn := 0 }
  let s := s.modCore 0 fun k => { k with lead := 0, run := none }
  s.modCtx 0 fun c => { c with
      task := some (c.task.getD placedTask), pc := placedAt, next := placedAt, fq := [], lp := none, hold := .none, reports := [], halted := false }
/-- The rows that its bundle reads before it issues have come already. -/
def State.placeRows (s : State) : State :=
  let s := { s with cur := 0 }
  let rows := s.headRows 0
  if rows.isEmpty then s
  else s.modCtx 0 fun c => { c with rowsAt := some (s.cyc 0), rowsRead := rows.foldl (fun m r => m.put r (s.rawRow (spAddr 0 r))) [] }
/-- The bundle of 12 parcels with bits w placed there. -/
def State.placeBundle (s : State) (w : Nat) : State := (s.placeTask.putMem (2 * placedAt.toNat) 50 (literalBytes w)).placeRows

end Sys2Proof.Machine
end

