-- ==== Sys2Proof/Machine/Step.lean ====
section
/-! DEFINITION. The step of the machine, and an instruction placed where the next step fetches. -/

namespace Sys2Proof.Machine

/-- One step: the next pending turn, or the next of the agenda, or the clock (log 1). -/
def step (s : State) : Host.Outcome State Fault Refusal := s.next

/-- The state with the bundle whose bits are `w` (zero above `nbits`) stored as a literal bundle where the next step fetches, and the first
context of the first core holding a task that runs it (log 51). -/
def State.withFetchWord (s : State) (nbits w : Nat) : State := s.placeBundle (w % 2 ^ nbits % 2 ^ 384)

end Sys2Proof.Machine
end

