-- ==== Sys2Proof/Safety.lean ====
section
/-! DEFINITION. What a safe run keeps, in the terms the claims use. -/

namespace Sys2Proof.Machine

/-- Both memories, the device's own address space and the host's, are in the one canonical form: addresses strictly rise
and no listed byte equals what an unlisted one reads as (R2, R3; log 14). -/
def State.wf (s : State) : Prop := Memory.wf s.mem = true ∧ Memory.wf s.hostMem = true

end Sys2Proof.Machine
end

