-- ==== Sys2Proof/Certificates/Slice0/Obligations.lean ====
section
/-! DEFINITION. The statements for the provers. -/

namespace Sys2Proof.Claims

open Sys2Proof.Machine

/-- Only context `n` changes, to `c`: every other context, every register, every byte of memory and every other part of the
device stay. -/
def CtxOnly (s t : State) (n : Nat) (c : Ctx) : Prop :=
  t = { s with ctxs := t.ctxs } ∧ t.ctx n = c ∧ (∀ m, m ≠ n → t.ctx m = s.ctx m) ∧ ∀ a, t.byte a = s.byte a

/-- The landing-buffer entry of a result: issued now, due `lat` ticks on, `sub`-th of its slot (R131, R132). -/
def entryOf (c : Ctx) (kind : LKind) (dest lat slot sub : Nat) (data mask flags : Nat) : LandEntry :=
  ⟨kind, dest, c.schc + lat, c.schc, slot, sub, BitVec.ofNat 1024 data, BitVec.ofNat 1024 mask, BitVec.ofNat 6 flags,
    none, true, none, 0, none, 0⟩

/-- The operation completes and its whole effect is one more entry in the landing buffer of the issuing context. -/
def Lands (s : State) (i : Instr) (e : LandEntry) : Prop :=
  ∃ t, exec i s = .next t ∧ CtxOnly s t s.act { s.me with land := s.me.land ++ [e] }

/-- The operation completes and changes nothing. -/
def NoEffect (s : State) (i : Instr) : Prop := exec i s = .next s

/-- A 64-bit scalar result of the pair slot `p` for register `d`. -/
def LandsScalar (s : State) (p : PSlot) (d : BitVec 6) (lat : Nat) (v : W64) (i : Instr) : Prop :=
  Lands s i (entryOf s.me .scalar d.toNat lat (pbit p) 0 v.toNat (2 ^ 64 - 1) 0)

end Sys2Proof.Claims

open Sys2Proof Sys2Proof.Machine Sys2Proof.Claims

namespace Sys2Proof.Claims

/-- The operation completes, having drawn or not (`t0`), and its whole further effect is one vector result for VD due `lat` ticks on: of
`n` elements of width `w` exactly those whose `on` holds are written, each with the first part of `f`; the flags are those
that the written elements raise (R131, R305, R306, R199). -/
def LandsElems (s t0 : State) (a : VArgs) (lat w n : Nat) (on : Nat → Bool) (f : Nat → Nat × Nat) (i : Instr) : Prop :=
  ∃ t e, exec i s = .next t ∧ CtxOnly t0 t s.act { t0.me with land := t0.me.land ++ [e] } ∧
    (e.kind = .vec ∧ e.dest = s.phys a.vd.toNat ∧ e.tick = s.me.schc + lat ∧ e.issued = s.me.schc ∧ e.slot = pbit a.p ∧
      e.poison = none ∧ e.got = true ∧ e.gone = none) ∧
    (∀ j, j < n → ∀ k, k < w → e.mask.getLsbD (w * j + k) = on j ∧
      (on j = true → e.data.getLsbD (w * j + k) = (f j).1.testBit k)) ∧
    (∀ k, w * n ≤ k → k < 1024 → e.mask.getLsbD k = false) ∧
    ∀ k : Nat, k < 6 → (e.flags.getLsbD k = true ↔ ∃ j, j < n ∧ on j = true ∧ (f j).2.testBit k = true)

/-- The vector result of an operation that draws nothing, in elements of its format. -/
def LandsFmt (s : State) (a : VArgs) (lat : Nat) (f : Nat → Nat × Nat) (i : Instr) : Prop :=
  LandsElems s s a lat (fmtWidth a.fmt.toNat) (1024 / fmtWidth a.fmt.toNat) (s.onEl a) f i

/-- The vector result in 32-bit lanes under the guard. -/
def LandsLanes (s : State) (a : VArgs) (lat : Nat) (f : Nat → Nat) (i : Instr) : Prop :=
  LandsElems s s a lat 32 32 (laneOn (s.lanes a.gd)) (fun l => (f l, 0)) i

/-- The eight operations that round under FPMODE.RM element by element (R309, R311), with the result of element `j` under a
mode. -/
def roundedOps (s : State) (a : VArgs) : List (Instr × (RMode → Nat → Nat × Nat)) :=
  let f := fpOf a.fmt.toNat
  let x := s.el a a.va
  let y := s.el a a.vb
  let z := s.el a a.vc
  [(.vadd a, fun m j => fpAdd f m (x j) (y j)), (.vsub a, fun m j => fpSub f m (x j) (y j)),
   (.vmul a, fun m j => fpMul f m (x j) (y j)), (.vfma a, fun m j => fpFma f m false false (x j) (y j) (z j)),
   (.vfms a, fun m j => fpFma f m false true (x j) (y j) (z j)), (.vfnma a, fun m j => fpFma f m true false (x j) (y j) (z j)),
   (.vrnd a, fun m j => fpRnd f m a.mod (x j)),
   (.vscalb a, fun m j => fpScalb f m (x j) (sextNat (y j) (fmtWidth a.fmt.toNat)))]

/-- One draw made (R207): the stream's counter 8 further on. -/
def drawn (s : State) : State := s.modTgt fun c => { c with rngCtr := c.rngCtr + 8 }

end Sys2Proof.Claims

/-- R297, R299, R301: a register-form scalar half that executes lands its result, and nothing else changes. R297: MULH lands the high half of the signed product: with the low half it makes the product. -/
def Obligations.ScalarRegisterForms : Prop :=
  (∀ (s : State) (a : RArgs), s.scalarOn a.gd.g a.gd.inv = true → a.sd ≠ 0 →
     let x := s.rdS a.sa
     let y := s.rdS a.sb
     let L := LandsScalar s a.p a.sd
     L 1 (BitVec.ofNat 64 (x.toNat + y.toNat)) (.add a) ∧
     L 1 (BitVec.ofInt 64 (x.toInt - y.toInt)) (.sub a) ∧
     L 3 (BitVec.ofNat 64 (x.toNat * y.toNat)) (.mul a) ∧
     L 3 (BitVec.ofNat 64 (x.toNat * y.toNat / 2 ^ 64)) (.mulhu a) ∧
     L 1 (x &&& y) (.and a) ∧ L 1 (x ||| y) (.or a) ∧ L 1 (x ^^^ y) (.xor a) ∧
     L 1 (BitVec.ofNat 64 (x.toNat * 2 ^ (y.toNat % 64))) (.shl a) ∧
     L 1 (BitVec.ofNat 64 (x.toNat / 2 ^ (y.toNat % 64))) (.shr a) ∧
     L 1 (BitVec.ofInt 64 (x.toInt / ((2 ^ (y.toNat % 64) : Nat) : Int))) (.sra a) ∧
     L 1 (BitVec.ofInt 64 (min x.toInt y.toInt)) (.min a) ∧ L 1 (BitVec.ofInt 64 (max x.toInt y.toInt)) (.max a) ∧
     L 1 (BitVec.ofNat 64 (min x.toNat y.toNat)) (.minu a) ∧ L 1 (BitVec.ofNat 64 (max x.toNat y.toNat)) (.maxu a) ∧
     L 1 x (.sel a)) ∧
  (∀ (s : State) (a : RArgs), s.scalarOn a.gd.g a.gd.inv = true → a.sd ≠ 0 →
     ∃ h : W64, LandsScalar s a.p a.sd 3 h (.mulh a) ∧
       (s.rdS a.sa).toInt * (s.rdS a.sb).toInt = h.toInt * 2 ^ 64 + ((s.rdS a.sa * s.rdS a.sb).toNat : Int))

/-- R298: division truncates toward zero, with the special cases of the table; quotient × b + remainder is a otherwise.
Of two results for one register that land together the one with the later issue tick stands. -/
def Obligations.ScalarDivision : Prop :=
  (∀ (s : State) (a : RArgs), s.scalarOn a.gd.g a.gd.inv = true → a.sd ≠ 0 →
    let x := s.rdS a.sa
    let y := s.rdS a.sb
    ∃ q r qu ru : W64,
      LandsScalar s a.p a.sd 12 q (.div a) ∧ LandsScalar s a.p a.sd 12 r (.rem a) ∧
      LandsScalar s a.p a.sd 12 qu (.divu a) ∧ LandsScalar s a.p a.sd 12 ru (.remu a) ∧
      (if y = 0 then q = BitVec.allOnes 64 ∧ r = x ∧ qu = BitVec.allOnes 64 ∧ ru = x
      else
        (qu.toNat * y.toNat + ru.toNat = x.toNat ∧ ru.toNat < y.toNat) ∧
        if x.toInt = -2 ^ 63 ∧ y.toInt = -1 then q = x ∧ r = 0
        else x.toInt = q.toInt * y.toInt + r.toInt ∧ r.toInt.natAbs < y.toInt.natAbs ∧
          (r = 0 ∨ (r.toInt < 0 ↔ x.toInt < 0)))) ∧
  ∀ (s : State) (e f : LandEntry), let c := s.ctx s.unit
    s.unit < 2048 → c.land = [e, f] ∨ c.land = [f, e] → c.poisoned = none → s.frozenLand s.unit = false → bit (s.reg 0x301) 63 = false →
    (∀ x ∈ [e, f], x.kind = .scalar ∧ x.dest = e.dest ∧ x.tick = e.tick ∧ x.tick ≤ c.schc ∧ x.mask = BitVec.ofNat 1024 (2 ^ 64 - 1) ∧ x.flags = 0 ∧
      x.gone = none ∧ x.poison = none) → e.dest ≠ 0 → e.issued < f.issued →
    ∃ t, exec .resultLanding s = .next t ∧ (t.ctx s.unit).s.get 0 e.dest = f.data.truncate 64 ∧ (t.ctx s.unit).land = []

/-- R297, R302, R303, R304: the immediate forms, CLZ and POPC, and the reads of loop and extent state. -/
def Obligations.ScalarImmediateForms : Prop :=
  (∀ (s : State) (a : IArgs), s.scalarOn a.gd.g a.gd.inv = true → a.sd ≠ 0 →
    let x := s.rdS a.sa
    let i := a.imm.signExtend 64
    let L := LandsScalar s a.p a.sd 1
    let n := a.imm.toNat % 64
    let w := a.imm.toNat / 64 + 1
    L (x + i) (.addi a) ∧ L (x &&& i) (.andi a) ∧ L (x ||| i) (.ori a) ∧ L (x ^^^ i) (.xori a) ∧
    L (x <<< n) (.shli a) ∧ L (x >>> n) (.shri a) ∧ L (x.sshiftRight n) (.srai a) ∧
    L ((x >>> n) &&& BitVec.ofNat 64 (2 ^ w - 1)) (.bfx a) ∧
    (∃ v : W64, L v (.bfi a) ∧ ∀ k : Nat, k < 64 →
      v.getLsbD k = if n ≤ k ∧ k < n + w then x.getLsbD (k - n) else (s.rdS a.sd).getLsbD k) ∧
    L ((s.tgt.ix.getD (a.imm.toNat % 8) 0).zeroExtend 64) (.ixr a) ∧
    L (BitVec.ofNat 64 (if (s.tgt.extent (a.imm.toNat % 16)).valid then (s.tgt.extent (a.imm.toNat % 16)).len else 0))
      (.elenPiece a) ∧
    ((s.tgt.extent (a.imm.toNat % 16)).valid = false → L 0 (.elen a)) ∧
    ((s.tgt.extent (a.imm.toNat % 16)).valid = true → (s.tgt.extent (a.imm.toNat % 16)).chain = false →
      L (BitVec.ofNat 64 (s.tgt.extent (a.imm.toNat % 16)).len) (.elen a))) ∧
  (∀ (s : State) (a : LArgs), s.scalarOn a.gd.g a.gd.inv = true → a.sd ≠ 0 →
    LandsScalar s a.p a.sd 1 (a.imm.signExtend 64) (.li a) ∧
    LandsScalar s a.p a.sd 1 (BitVec.ofNat 64 ((s.rdS a.sd).toNat * 2 ^ 18 + a.imm.toNat)) (.lui a)) ∧
  ∀ (s : State) (a : RArgs), s.scalarOn a.gd.g a.gd.inv = true → a.sd ≠ 0 →
    (∃ v : W64, LandsScalar s a.p a.sd 1 v (.clz a) ∧
      (if s.rdS a.sa = 0 then v = 64 else v.toNat < 64 ∧ 2 ^ (63 - v.toNat) ≤ (s.rdS a.sa).toNat ∧
        (s.rdS a.sa).toNat < 2 ^ (64 - v.toNat))) ∧
    ∃ v : W64, LandsScalar s a.p a.sd 1 v (.popc a) ∧
      v.toNat = ((List.range 64).filter fun k => (s.rdS a.sa).getLsbD k).length

/-- R300: a compare lands its relation in the c bit, and with C clear in all 32 lane bits; g0 as destination is discarded. R243, R249, R295, R301: a scalar half whose guard disables it, or whose destination is s0, takes no entry and changes
nothing; SEL lands a under a condition that holds and b under one that does not, and SNOP and VNOP never do anything. -/
def Obligations.ScalarCompares : Prop :=
  ((∀ (s : State) (a : RArgs), s.scalarOn a.gd.g a.gd.inv = true → a.sd.toNat % 16 ≠ 0 →
     let mask := if a.sd.getLsbD 4 then 2 ^ 32 else 2 ^ 33 - 1
     let L := fun (r : Prop) [Decidable r] (i : Instr) =>
       Lands s i (entryOf s.me .guard (a.sd.toNat % 16) 1 (pbit a.p) 0 (if r then mask else 0) mask 0)
     L (s.rdS a.sa = s.rdS a.sb) (.cmpeq a) ∧ L ((s.rdS a.sa).toInt < (s.rdS a.sb).toInt) (.cmplt a) ∧
     L ((s.rdS a.sa).toNat < (s.rdS a.sb).toNat) (.cmpltu a)) ∧
   (∀ (s : State) (a : IArgs), s.scalarOn a.gd.g a.gd.inv = true → a.sd.toNat % 16 ≠ 0 →
     let mask := if a.sd.getLsbD 4 then 2 ^ 32 else 2 ^ 33 - 1
     let L := fun (r : Prop) [Decidable r] (i : Instr) =>
       Lands s i (entryOf s.me .guard (a.sd.toNat % 16) 1 (pbit a.p) 0 (if r then mask else 0) mask 0)
     L (s.rdS a.sa = a.imm.signExtend 64) (.cmpeqi a) ∧ L ((s.rdS a.sa).toInt < a.imm.toInt) (.cmplti a)) ∧
   ∀ (s : State) (a : RArgs) (b : IArgs), a.sd.toNat % 16 = 0 → b.sd.toNat % 16 = 0 →
     NoEffect s (.cmpeq a) ∧ NoEffect s (.cmplt a) ∧ NoEffect s (.cmpltu a) ∧ NoEffect s (.cmpeqi b) ∧ NoEffect s (.cmplti b)) ∧
  ((∀ (s : State) (a : RArgs), (s.scalarOn a.gd.g a.gd.inv = false ∨ a.sd = 0) →
     ∀ i ∈ [Instr.add a, .sub a, .mul a, .mulh a, .mulhu a, .div a, .divu a, .rem a, .remu a, .and a, .or a, .xor a, .shl a,
       .shr a, .sra a, .min a, .max a, .minu a, .maxu a, .clz a, .popc a], NoEffect s i) ∧
   (∀ (s : State) (a : IArgs), (s.scalarOn a.gd.g a.gd.inv = false ∨ a.sd = 0) →
     ∀ i ∈ [Instr.addi a, .andi a, .ori a, .xori a, .shli a, .shri a, .srai a, .bfx a, .bfi a, .ixr a, .elen a, .elenPiece a],
       NoEffect s i) ∧
   (∀ (s : State) (a : LArgs), (s.scalarOn a.gd.g a.gd.inv = false ∨ a.sd = 0) → NoEffect s (.li a) ∧ NoEffect s (.lui a)) ∧
   (∀ (s : State) (a : RArgs), s.scalarOn a.gd.g a.gd.inv = false →
     NoEffect s (.cmpeq a) ∧ NoEffect s (.cmplt a) ∧ NoEffect s (.cmpltu a) ∧
     (a.sd ≠ 0 → LandsScalar s a.p a.sd 1 (s.rdS a.sb) (.sel a))) ∧
   (∀ (s : State) (a : IArgs), s.scalarOn a.gd.g a.gd.inv = false → NoEffect s (.cmpeqi a) ∧ NoEffect s (.cmplti a)) ∧
   ∀ (s : State) (a : RArgs) (p : PSlot) (gd : Gd),
     (a.sd = 0 → NoEffect s (.sel a)) ∧
     (s.scalarOn a.gd.g a.gd.inv = true → a.sd ≠ 0 → LandsScalar s a.p a.sd 1 (s.rdS a.sa) (.sel a)) ∧ NoEffect s (.snop p gd) ∧ NoEffect s (.vnop p gd))

/-- R309, R311, R200: the arithmetic that rounds under FPMODE.RM, in each of the four modes without a draw. R201, R207, R308: under SR each such operation draws once from the bound stream, whatever its guard enables; without a
bound stream it takes ILLEGAL with its slot in TVAL, with a skewed one STREAMSKEW with the stream's number. R204, R310, R315: minimum, maximum, absolute value, negation and the function unit. -/
def Obligations.VectorRounded : Prop :=
  (∀ (s : State) (a : VArgs), s.rm ≠ 4 → ∀ o ∈ roundedOps s a,
     LandsFmt s a 4 (fun j => o.2 (modeOf s.rm 0 (fmtWidth a.fmt.toNat) j) j) o.1) ∧
  (∀ (s : State) (a : VArgs), s.rm = 4 → ∀ o ∈ roundedOps s a,
     (bit s.tgt.csr.rngsel 63 = true → bit s.tgt.csr.rngsel 62 = false →
       LandsElems s (drawn s) a 4 (fmtWidth a.fmt.toNat) (1024 / fmtWidth a.fmt.toNat) (s.onEl a)
         (fun j => o.2 (modeOf 4 s.draw.2 (fmtWidth a.fmt.toNat) j) j) o.1) ∧
     (bit s.tgt.csr.rngsel 63 = false → exec o.1 s = .next (s.takeTrap 0x01 (BitVec.ofNat 64 (slotTval o.1)) s.me.pc)) ∧
     (bit s.tgt.csr.rngsel 63 = true → bit s.tgt.csr.rngsel 62 = true →
       exec o.1 s = .next (s.takeTrap 0x14 (BitVec.ofNat 64 (fld s.tgt.csr.rngsel 0 12)) s.me.pc))) ∧
  (∀ (s : State) (a : VArgs),
     let f := fpOf a.fmt.toNat
     let x := s.el a a.va
     let y := s.el a a.vb
     LandsFmt s a 4 (fun j => fpMinMax f false (x j) (y j)) (.vmin a) ∧
     LandsFmt s a 4 (fun j => fpMinMax f true (x j) (y j)) (.vmax a) ∧
     LandsFmt s a 2 (fun j => (fpAbs f (x j), 0)) (.vabs a) ∧ LandsFmt s a 2 (fun j => (fpNeg f (x j), 0)) (.vneg a) ∧
     ∀ o ∈ [(Instr.vexp2 a, Fn.exp2), (.vlog2 a, .log2), (.vrcp a, .rcp), (.vrsqrt a, .rsqrt), (.vsqrt a, .sqrt),
       (.vtanh a, .tanh), (.vsigm a, .sigm), (.vexp a, .exp)], LandsFmt s a 8 (fun j => fnUnit o.2 (x j)) o.1)

/-- R316, R317: integer elements are computed exactly and then wrapped or saturated once; shifts and logic. -/
def Obligations.VectorInteger : Prop :=
  ∀ (s : State) (a : VArgs),
    let k := a.fmt.toNat
    let w := fmtWidth k
    let x := fun j => intOf k (s.el a a.va j)
    let y := fun j => intOf k (s.el a a.vb j)
    let z := fun j => intOf k (s.el a a.vc j)
    let fit := fun (sat : Bool) (v : Int) => if sat then satInt k v else wrapInt w v
    let n := fun j => if a.mod then a.vc.toNat else s.el a a.vb j % w
    LandsFmt s a 2 (fun j => (fit false (x j + y j), 0)) (.viadd a) ∧
    LandsFmt s a 2 (fun j => (fit a.mod (x j - y j), 0)) (.visub a) ∧
    LandsFmt s a 2 (fun j => (fit true (x j + y j), 0)) (.viadds a) ∧
    LandsFmt s a 2 (fun j => (fit a.mod (x j * y j + z j), 0)) (.vimad a) ∧
    LandsFmt s a 2 (fun j => (wrapInt w (min (x j) (y j)), 0)) (.vimin a) ∧
    LandsFmt s a 2 (fun j => (wrapInt w (max (x j) (y j)), 0)) (.vimax a) ∧
    (w = 32 → LandsFmt s a 2 (fun j => (wrapInt 32 (if a.mod then x j * y j / 2 ^ 32 else x j * y j), 0)) (.vimul a)) ∧
    LandsFmt s a 2 (fun j => (s.el a a.va j * 2 ^ n j, 0)) (.vshl a) ∧
    LandsFmt s a 2 (fun j => (s.el a a.va j / 2 ^ n j, 0)) (.vshr a) ∧
    LandsFmt s a 2 (fun j => (wrapInt w (sextNat (s.el a a.va j) w / ((2 ^ n j : Nat) : Int)), 0)) (.vsra a) ∧
    LandsLanes s a 2 (fun l => lane (s.rdV a.va.toNat &&& s.rdV a.vb.toNat) l) (.vand a) ∧
    LandsLanes s a 2 (fun l => lane (s.rdV a.va.toNat ||| s.rdV a.vb.toNat) l) (.vor a) ∧
    LandsLanes s a 2 (fun l => lane (s.rdV a.va.toNat ^^^ s.rdV a.vb.toNat) l) (.vxor a)

/-- R312, R313: a compare lands the relation of every active lane in its lane bit and their OR, or with MOD their AND, in c;
inactive lane bits stay. VSEL writes every lane, the guard choosing. -/
def Obligations.VectorCompareSelect : Prop :=
  ∀ (s : State) (a : VArgs),
    let on := laneOn (s.lanes a.gd)
    let x := lane (s.rdV a.va.toNat)
    let y := lane (s.rdV a.vb.toNat)
    let rel := fun (r : Nat → Bool) (fl : Nat → Nat) (lat : Nat) (i : Instr) => a.vd.toNat % 16 ≠ 0 →
      ∃ e, Lands s i e ∧ e.kind = .guard ∧ e.dest = a.vd.toNat % 16 ∧ e.tick = s.me.schc + lat ∧ e.slot = pbit a.p ∧
        (∀ l, l < 32 → e.mask.getLsbD l = on l ∧ (on l = true → e.data.getLsbD l = r l)) ∧
        e.mask.getLsbD 32 = true ∧
        (e.data.getLsbD 32 = true ↔
          if a.mod then ∀ l, l < 32 → on l = true → r l = true else ∃ l, l < 32 ∧ on l = true ∧ r l = true) ∧
        (∀ k, 33 ≤ k → e.mask.getLsbD k = false) ∧
        ∀ k : Nat, k < 6 → (e.flags.getLsbD k = true ↔ ∃ l, l < 32 ∧ on l = true ∧ (fl l).testBit k = true)
    rel (fun l => (fpCmp (a.vc.toNat % 8) (x l) (y l)).1) (fun l => (fpCmp (a.vc.toNat % 8) (x l) (y l)).2) 4 (.vcmp a) ∧
    rel (fun l => intCond a.fmt.toNat (a.vc.toNat % 8) (x l) (y l)) (fun _ => 0) 2 (.vicmp a) ∧
    (a.vd.toNat % 16 = 0 → NoEffect s (.vcmp a) ∧ NoEffect s (.vicmp a)) ∧
    LandsElems s s a 2 32 32 (fun _ => true) (fun l => (if on l then x l else y l, 0)) (.vsel a)

/-- R318, R320: data movement between lanes. R319, R321, R324: packing and unpacking by the active lanes, the move of a lane to a scalar register, and the count of a
guard's lane bits. -/
def Obligations.VectorMoves : Prop :=
  (∀ (s : State) (a : VArgs),
     let x := lane (s.rdV a.va.toNat)
     let y := lane (s.rdV a.vb.toNat)
     let z := lane (s.rdV a.vc.toNat)
     let n := a.vc.toNat
     let pair := fun l => if l < 32 then x l else y (l - 32)
     let bytes := fun (o l : Nat) => ((s.rdV a.vb.toNat ++ s.rdV a.va.toNat) >>> (8 * o + 32 * l)).toNat % 2 ^ 32
     LandsLanes s a 2 x (.vmov a) ∧
     LandsLanes s a 2 (fun _ => x (n % 32)) (.vbcast a) ∧
     LandsLanes s a 2 (fun _ => (a.vc.signExtend 32).toNat) (.vbcastI a) ∧
     LandsLanes s a 2 (fun l => pair (l + n % 32)) (.vext a) ∧
     LandsElems s s a 2 32 32 (fun l => decide (l = n / 32 % 32) && laneOn (s.lanes a.gd) l) (fun _ => (x (n % 32), 0)) (.vins a) ∧
     LandsLanes s a 3 (fun l => x (y l % 32)) (.vperm a) ∧
     LandsLanes s a 3 (fun l => if y l % 64 < 32 then x (y l % 64) else z (y l % 64 - 32)) (.vpermX a) ∧
     LandsLanes s a 3 (fun l => x ((l + n % 32) % 32)) (.vrot a) ∧
     LandsLanes s a 3 (fun l => x ((l + y 0 % 32) % 32)) (.vrotV a) ∧
     LandsLanes s a 3 (bytes (n % 128)) (.vrmrg a) ∧
     LandsLanes s a 3 (bytes (z 0 % 128)) (.vrmrgV a) ∧
     LandsLanes s a 3 (fun l => (if l % 2 = 0 then x else y) (l / 2 + if a.mod then 16 else 0)) (.vzip a) ∧
     LandsLanes s a 3 (fun l => (if l < 16 then x else y) (2 * (l % 16) + if a.mod then 1 else 0)) (.vunzip a) ∧
     LandsLanes s a 3 (fun l => (a.vc.signExtend 32 + BitVec.ofNat 32 l).toNat) (.vlane a) ∧
     LandsLanes s a 3 (fun l => (a.vc.signExtend 32 * BitVec.ofNat 32 l).toNat) (.vlaneMul a)) ∧
  (∀ (s : State) (a : VArgs),
     let on := laneOn (s.lanes a.gd)
     let act := (List.range 32).filter on
     let x := lane (s.rdV a.va.toNat)
     let j := a.vc.toNat % 32
     let g := s.rdG (BitVec.ofNat 4 a.va.toNat)
     LandsElems s s a 3 32 32 (fun l => decide (l < act.length)) (fun l => (x (act.getD l 0), 0)) (.vpack a) ∧
     LandsLanes s a 3 (fun l => x (act.filter (· < l)).length) (.vunpk a) ∧
     (on j = true → BitVec.ofNat 6 a.vd.toNat ≠ 0 →
       Lands s (.vxs a) (entryOf s.me .scalar (BitVec.ofNat 6 a.vd.toNat).toNat 2 (pbit a.p) 1
         (BitVec.ofNat 64 (x j + if a.mod then x (j + 1) * 2 ^ 32 else 0)).toNat (2 ^ 64 - 1) 0)) ∧
     ((on j = false ∨ BitVec.ofNat 6 a.vd.toNat = 0) → NoEffect s (.vxs a)) ∧
     LandsLanes s a 2 (fun l => ((List.range (if a.mod then l else 32)).filter fun k => g.getLsbD k).length) (.gcnt a))

namespace Sys2Proof.Claims

/-- The fixed binary tree of R322 over values of which some are absent, and the flags its combinations raise: after `k` steps lane `l` holds what
the lanes `l` to `l + 2^k - 1` come to, the left operand the lower lane, an absent one passing the other. -/
def treeAt (f : Nat → Nat → Nat × Nat) (x : Nat → Option Nat) : Nat → Nat → Option Nat × Nat
  | 0, l => (x l, 0)
  | k + 1, l =>
    let p := treeAt f x k l
    let q := treeAt f x k (l + 2 ^ k)
    match p.1, q.1 with
    | some a, some b => (some (f a b).1, (f a b).2 ||| p.2 ||| q.2)
    | some a, none => (some a, p.2 ||| q.2)
    | none, o => (o, p.2 ||| q.2)

/-- What a lane reduction gives (R322): the empty value with no active lane; with one, that lane's value, a NaN of FP32 made canonical; with more,
the tree over the active lanes. -/
def reduced (x : Nat → Option Nat) (f : Nat → Nat → Nat × Nat) (empty : Nat) (fp : Bool) : Nat × Nat :=
  match (List.range 32).filterMap x with
  | [] => (empty, 0)
  | [v] => if fp then (match decodeFp fp32 v with | .nan signalling => (0x7FC00000, if signalling then 1 else 0) | _ => (v, 0)) else (v, 0)
  | _ => let r := treeAt f x 5 0; (r.1.getD 0, r.2)

end Sys2Proof.Claims

/-- R322, R194: a lane reduction lands one value in every lane, whatever the guard, with its flags: the value of its tree over the active lanes, over
no active lane the empty value, over one active lane that lane's own value, a NaN made canonical; VRISUM the exact sum of the active lanes, wrapped or
saturated once. R323, R324: guard logic writes the lane bits that its own guard activates and the c bit under that guard's c; g0 as destination is
discarded. -/
def Obligations.VectorReductions : Prop :=
  (∀ (s : State) (a : VArgs),
     let on := laneOn (s.lanes a.gd)
     let k := a.fmt.toNat
     let v := fun l => lane (s.rdV a.va.toNat) l
     let x := fun l => if on l then some (v l) else none
     let all := fun (v : Nat × Nat) (i : Instr) => LandsElems s s a 6 32 32 (fun _ => true) (fun _ => v) i
     let pick := fun (larger : Bool) (x y : Nat) =>
       if k = 0 then fpMinMax fp32 larger x y else (if decide (intOf k x < intOf k y) = larger then y else x, 0)
     all (reduced x (fun x y => fpAdd fp32 .rne x y) 0 true) (.vrsum a) ∧
     all (reduced x (pick true) (if k = 0 then 0xFF800000 else if k = 8 then 2 ^ 31 else 0) (decide (k = 0))) (.vrmax a) ∧
     all (reduced x (pick false) (if k = 0 then 0x7F800000 else if k = 8 then 2 ^ 31 - 1 else 2 ^ 32 - 1) (decide (k = 0))) (.vrmin a) ∧
     all (reduced (fun l => if on l then some (v l % 2 ^ 31) else none) (fun x y => fpMinMax fp32 true x y) 0 true) (.vramax a) ∧
     (let sum := (((List.range 32).filter on).map fun l => intOf k (v l)).sum
     all (if a.mod then satInt k sum else wrapInt 32 sum, 0) (.vrisum a))) ∧
  (∀ (s : State) (a : VArgs),
     let x := s.rdG (BitVec.ofNat 4 a.va.toNat)
     let y := s.rdG (BitVec.ofNat 4 a.vb.toNat)
     let mask := s.lanes a.gd + if s.scalarOn a.gd.g a.gd.inv then 2 ^ 32 else 0
     let L := fun (v : Guard) (i : Instr) => if a.vd.toNat % 16 = 0 then NoEffect s i else
       Lands s i (entryOf s.me .guard (a.vd.toNat % 16) 2 (pbit a.p) 1 v.toNat mask 0)
     L (x &&& y) (.gand a) ∧ L (x ||| y) (.gor a) ∧ L (x ^^^ y) (.gxor a) ∧ L (x &&& ~~~y) (.gandn a) ∧
     (∃ v : Guard, L v (.gset a) ∧ (∀ l, l < 32 → v.getLsbD l = (lane (s.rdV a.va.toNat) l != 0)) ∧
       (v.getLsbD 32 = true ↔ ∃ l, l < 32 ∧ laneOn (s.lanes a.gd) l = true ∧ lane (s.rdV a.va.toNat) l ≠ 0)) ∧
     (a.vc.toNat ≤ 32 → ∃ v : Guard, L v (.gsetN a) ∧ (∀ l, l < 32 → v.getLsbD l = decide (l < a.vc.toNat)) ∧
       v.getLsbD 32 = decide (0 < a.vc.toNat))) ∧
  ∀ s : State, s.rdG 0 = BitVec.allOnes 33

/-- R207, R325: VRNG lands the words of one draw, VRNGF each word's high 24 bits as an exact fraction; the counter goes on by 8
whatever the guard; without a bound stream they take ILLEGAL and with a skewed one STREAMSKEW, with no draw. R314, R201: VCVT converts the elements of
its part, each in the rounding mode of RM, and under SR draws once whatever its formats, or takes the same two traps. -/
def Obligations.VectorDrawsAndConversion : Prop :=
  ∀ (s : State) (a : VArgs),
    let bound := bit s.tgt.csr.rngsel 63
    let skewed := bit s.tgt.csr.rngsel 62
    let noStream := fun i : Instr => exec i s = .next (s.takeTrap 0x01 (BitVec.ofNat 64 (slotTval i)) s.me.pc)
    let skew := fun i : Instr => exec i s = .next (s.takeTrap 0x14 (BitVec.ofNat 64 (fld s.tgt.csr.rngsel 0 12)) s.me.pc)
    (bound = true → skewed = false →
      LandsElems s (drawn s) a 10 32 32 (laneOn (s.lanes a.gd)) (fun l => (lane s.draw.2 l, 0)) (.vrng a) ∧
      LandsElems s (drawn s) a 10 32 32 (laneOn (s.lanes a.gd))
        (fun l => ((encodeFp fp32 .rne (.fin false (lane s.draw.2 l / 2 ^ 8) (-24))).1, 0)) (.vrngf a)) ∧
    (bound = false → ∀ i ∈ [Instr.vrng a, .vrngf a], noStream i) ∧
    (bound = true → skewed = true → ∀ i ∈ [Instr.vrng a, .vrngf a], skew i) ∧
    let src := a.vc.toNat % 16
    let dst := a.fmt.toNat
    let h := a.vc.toNat / 16 % 4
    let ws := fmtWidth src
    let wd := fmtWidth dst
    let n := 1024 / max ws wd
    let on := fun j => laneOn (s.lanes a.gd) (laneOf wd j)
    let lands := fun (t0 : State) (u : Row) =>
      (ws ≤ wd → LandsElems s t0 a 4 wd n on (fun j =>
        convert src dst (modeOf s.rm u wd j) a.mod (elem ws (s.rdV a.va.toNat) (j + n * h))) (.vcvt a)) ∧
      (wd < ws → h < ws / wd → LandsElems s t0 a 4 wd (n * h + n) (fun j => decide (n * h ≤ j) && on j) (fun j =>
        convert src dst (modeOf s.rm u wd j) a.mod (elem ws (s.rdV a.va.toNat) (j - n * h))) (.vcvt a))
    (s.rm ≠ 4 → lands s 0) ∧ (s.rm = 4 → bound = true → skewed = false → lands (drawn s) s.draw.2) ∧
      (s.rm = 4 → bound = false → noStream (.vcvt a)) ∧ (s.rm = 4 → bound = true → skewed = true → skew (.vcvt a))

namespace Sys2Proof.Claims

/-- The row of a scratchpad operation's step `k` (R326): s[base] + offset + stride·k, modulo the scratchpad's 32,768 rows. -/
def scratchRow (s : State) (a : MArgs) (stride : Int) (k : Nat) : Nat :=
  ((((s.rdS a.base).toNat : Int) + a.off.toInt + stride * (k : Int)) % 32768).toNat

/-- The row of an operation's step `k` on a panel store or an extent: the same sum, modulo 2^64. -/
def wideRow (s : State) (a : MArgs) (stride : Int) (k : Nat) : Nat :=
  ((((s.rdS a.base).toNat : Int) + a.off.toInt + stride * (k : Int)) % 2 ^ 64).toNat

/-- The landing-buffer entries of a load: one row each for the registers from V on, due at its latency code's tick, not there yet
unless no lane is active (R131, R132, R134, R327). -/
def rowEntries (s : State) (a : MArgs) (slot : Nat) : List LandEntry :=
  (List.range (a.rows.toNat + 1)).map fun k =>
    ⟨.row, s.phys (a.v.toNat + k), s.me.schc + latBound a.lat.toNat, s.me.schc, slot, k, 0, laneMask (s.lanes a.gd), 0, none,
      decide (s.lanes a.gd = 0), none, s.me.ops + 1, none, 0⟩

/-- A timed load completes: its landing entries, and for every row a read on its way, the first `delay` cycles on; with no
active lane nothing is read. -/
def TimedLoad (s : State) (a : MArgs) (slot home delay : Nat) (row : Nat → Nat) (i : Instr) : Prop :=
  ∃ t, exec i s = .next t ∧
    t.timed = s.timed ++ (if s.lanes a.gd = 0 then [] else (List.range (a.rows.toNat + 1)).map fun k =>
      ⟨s.clk + delay + k, false, 0, home, row k, s.act, s.me.ops + 1, k, 0, 0, false, s.clk⟩) ∧
    CtxOnly { s with timed := t.timed } t s.act { s.me with ops := s.me.ops + 1, land := s.me.land ++ rowEntries s a slot }

/-- A timed store completes: for every row a write on its way, with the register's value now and the guard's lanes; nothing
else changes yet, and with no active lane nothing ever does. -/
def TimedStore (s : State) (a : MArgs) (home delay prio : Nat) (row : Nat → Nat) (i : Instr) : Prop :=
  exec i s = .next { s with timed := s.timed ++ (if s.lanes a.gd = 0 then [] else (List.range (a.rows.toNat + 1)).map fun k =>
    ⟨s.clk + delay + k, true, prio, home, row k, s.act, 0, k, s.rdV (a.v.toNat + k), laneMask (s.lanes a.gd), false, s.clk⟩) }

/-- A queued operation completes: its entries stand at the end of the context's queues, in order, and its landing entries in the
buffer; no byte of memory changes yet. -/
def Queues (s : State) (i : Instr) (irrev : Bool) (land : List LandEntry) (qs : List QAcc) : Prop :=
  ∃ t, exec i s = .next t ∧ CtxOnly s t s.act { s.me with ops := s.me.ops + 1, irrev := irrev, land := s.me.land ++ land, q := s.me.q ++ qs }

/-- Every row of an extent operation lies in the extent at a reachable address; `x` are the addresses. -/
def InExtent (s : State) (a : MArgs) (write : Bool) (stride : Int) (x : Nat → W64) : Prop :=
  ∀ k, k ≤ a.rows.toNat → extRow s.tgt write a.ext.toNat (wideRow s a stride k) = .at (x k) ∧ s.reach (x k) = true

end Sys2Proof.Claims

/-- R138, R326, R327: LDR and LDRS read, STR and STRS write scratchpad rows of the own core from two cycles on, one row a cycle. R140, R326: PLD and PST access the core's panel store six cycles on when every row is within its 3,407,872 rows; else the first
row outside traps EXTBOUND with its number, and nothing is accessed. R139, R330: STMC sends one row to the multicast window of every live core of the panel that the mask names, eight cycles on. -/
def Obligations.LocalAccess : Prop :=
  (∀ (s : State) (a : MArgs),
     let prio := if s.cur % 4 = (s.core s.coreNo).lead then 1000 else 1001
     TimedLoad s a 3 s.coreNo 2 (scratchRow s a 1) (.ldr a) ∧
     TimedLoad s a 3 s.coreNo 2 (scratchRow s a a.mods.toInt) (.ldrs a) ∧
     TimedStore s a s.coreNo 2 prio (scratchRow s a 1) (.str a) ∧
     TimedStore s a s.coreNo 2 prio (scratchRow s a a.mods.toInt) (.strs a)) ∧
  (∀ (s : State) (a : MArgs),
     let panel := 512 + panelOfCore s.coreNo
     let prio := 2 * s.coreNo + if s.cur % 4 = (s.core s.coreNo).lead then 0 else 1
     ((∀ k, k ≤ a.rows.toNat → wideRow s a 1 k < 3407872) →
       TimedLoad s a 5 panel 6 (wideRow s a 1) (.pld a) ∧ TimedStore s a panel 6 prio (wideRow s a 1) (.pst a)) ∧
     ∀ k, k ≤ a.rows.toNat → 3407872 ≤ wideRow s a 1 k → (∀ j, j < k → wideRow s a 1 j < 3407872) →
       exec (.pld a) s = .next (s.takeTrap 0x04 (BitVec.ofNat 64 (wideRow s a 1 k)) s.me.pc) ∧
       exec (.pst a) s = .next (s.takeTrap 0x04 (BitVec.ofNat 64 (wideRow s a 1 k)) s.me.pc)) ∧
  (∀ (s : State) (a : MArgs),
     let mask := s.rdS a.base
     let cores := (List.range 16).filter fun i => mask.getLsbD i && s.map.cores.getLsbD (coreAt s.coreNo i)
     exec (.stmc a) s = .next { s with timed := s.timed ++ (if s.lanes a.gd = 0 then [] else cores.map fun i =>
       ⟨s.clk + 8, true, s.coreNo, coreAt s.coreNo i, 0x7F00 + a.off.toNat % 256, s.act, 0, 0, s.rdV a.v.toNat,
         laneMask (s.lanes a.gd), false, s.clk⟩) })

/-- R154, R326: GLD, GLDS, GST and GSTS over rows that lie in the extent enter the context's queues; with no active lane nothing is
queued. -/
def Obligations.ExtentAccess : Prop :=
  ∀ (s : State) (a : MArgs) (x : Nat → W64),
    let ld := fun (i : Instr) => (List.range (a.rows.toNat + 1)).map fun k =>
      (⟨true, false, x k, s.me.ops + 1, k, .ld, .waiting, s.clk, s.srcOf i a, false⟩ : QAcc)
    let st := fun (i : Instr) => (List.range (a.rows.toNat + 1)).map fun k =>
      (⟨false, true, x k, s.me.ops + 1, k, .st (s.rdV (a.v.toNat + k)) (laneMask (s.lanes a.gd)) false, .waiting, s.clk,
        s.srcOf i a, false⟩ : QAcc)
    let loads := fun (i : Instr) => Queues s i s.me.irrev (rowEntries s a 6) (if s.lanes a.gd = 0 then [] else ld i)
    let stores := fun (i : Instr) => if s.lanes a.gd = 0 then NoEffect s i else Queues s i s.me.irrev [] (st i)
    (InExtent s a false 1 x → loads (.gld a)) ∧ (InExtent s a false a.mods.toInt x → loads (.glds a)) ∧
    (InExtent s a true 1 x → stores (.gst a)) ∧ (InExtent s a true a.mods.toInt x → stores (.gsts a))

/-- R118, R326: the first row outside its extent traps EXTBOUND, with the extent in TVAL[3:0] and the row offset above it. R118: an access to a single piece needs VALID, its ACCESS bit and an offset below LEN, and finds BASE + 128 times the offset;
with CHAIN an offset past the piece goes on in the next. -/
def Obligations.ExtentBound : Prop :=
  (∀ (s : State) (a : MArgs) (k : Nat), k ≤ a.rows.toNat →
     let bound := fun (write : Bool) (stride : Int) (j : Nat) => extRow s.tgt write a.ext.toNat (wideRow s a stride j) = .bound
     let traps := fun (stride : Int) (i : Instr) => exec i s =
       .next (s.takeTrap 0x04 (BitVec.ofNat 64 (a.ext.toNat % 16 + 16 * wideRow s a stride k)) s.me.pc)
     (bound false 1 k → (∀ j, j < k → ¬ bound false 1 j) → traps 1 (.gld a)) ∧
     (bound false a.mods.toInt k → (∀ j, j < k → ¬ bound false a.mods.toInt j) → traps a.mods.toInt (.glds a)) ∧
     (bound true 1 k → (∀ j, j < k → ¬ bound true 1 j) → traps 1 (.gst a)) ∧
     (bound true a.mods.toInt k → (∀ j, j < k → ¬ bound true a.mods.toInt j) → traps a.mods.toInt (.gsts a))) ∧
  (∀ (c : Ctx) (write : Bool) (e o : Nat),
     let x := c.extent e
     let may := x.valid && x.access.getLsbD (if write then 1 else 0)
     (may = false → extRow c write e o = .bound) ∧
     (may = true → o < x.len → x.revoked = false → x.refused = false → extRow c write e o = .at (x.base + BitVec.ofNat 64 (128 * o))) ∧
     (may = true → x.len ≤ o → x.chain = false → extRow c write e o = .bound) ∧
     (may = true → x.len ≤ o → x.chain = true → extRow c write e o = extWalk c write 15 x.next.toNat (o - x.len)))

/-- R329: STASH and PSTASH write the elements of the registers corner-turned: element 8c + r of output row k is element k of register
V + r, in the lanes of the guard; a row with no such byte is not accessed. -/
def Obligations.CornerTurn : Prop :=
  ∀ (s : State) (a : MArgs),
    let w := fmtWidth a.ext.toNat
    let c := 8 * a.mods.toNat
    let qs := fun (addr : Nat → Nat) (m d : Nat → Nat) => (List.range (1024 / w)).filterMap fun k =>
      if m k = 0 then none
      else some (⟨false, true, s.here (addr k), s.me.ops + 1, k, .st (BitVec.ofNat 1024 (d k)) (BitVec.ofNat 1024 (m k)) false, .waiting,
        s.clk, 0, false⟩ : QAcc)
    let goes := fun (addr : Nat → Nat) (i : Instr) => ∃ m d : Nat → Nat,
      (∀ k j b, k < 1024 / w → j < c + (a.rows.toNat + 1) → b < w →
        (m k).testBit (w * j + b) = (decide (c ≤ j) && laneOn (s.lanes a.gd) (laneOf w k)) ∧
        ((m k).testBit (w * j + b) = true →
          (d k).testBit (w * j + b) = (elem w (s.rdV (a.v.toNat + (j - c))) k).testBit b)) ∧
      (∀ k b, w * (c + (a.rows.toNat + 1)) ≤ b → (m k).testBit b = false) ∧
      Queues s i s.me.irrev [] (qs addr m d)
    goes (fun k => spAddr s.coreNo (wideRow s a 1 k)) (.stash a) ∧
    ((∀ k, k < 1024 / w → wideRow s a 1 k < 3407872) →
      goes (fun k => psAddr (panelOfCore s.coreNo) (wideRow s a 1 k)) (.pstash a)) ∧
    ∀ k, k < 1024 / w → 3407872 ≤ wideRow s a 1 k → (∀ j, j < k → wideRow s a 1 j < 3407872) →
      exec (.pstash a) s = .next (s.takeTrap 0x04 (BitVec.ofNat 64 (wideRow s a 1 k)) s.me.pc)

/-- R218, R331: ATOM and ATOMR queue one atomic operation for each active element of the row, mark the segment irreversible, and
ATOMR's old values have one entry, which waits for all of them. R335, R336: QLD, with no recording open, over rows that it may read takes one landing entry for each feature and one place in the load queue; QSCAT queues
one addition for each lane and corner and marks the segment irreversible. Each has then read its descriptor. -/
def Obligations.AtomicIssue : Prop :=
  (∀ (s : State) (a : MArgs) (x : W64),
     let w := if a.rows = 0 then 32 else 64
     let es := (List.range (1024 / w)).filter fun e => laneOn (s.lanes a.gd) (if a.rows = 0 then e else 2 * e)
     let o := wideRow s a 1 0
     let acc := fun (ret : Bool) (i : Instr) => es.zipIdx.map fun e =>
       (⟨ret, true, x, s.me.ops + 1, e.2, .atom a.mods.toNat e.1 (BitVec.ofNat 64 (elem w (s.rdV a.v.toNat) e.1))
         (BitVec.ofNat 64 (elem w (s.rdV (a.v.toNat + 1)) e.1)) (a.rows != 0) ret, .waiting, s.clk, s.srcOf i a, false⟩ : QAcc)
     let land := fun (m : Row) => (⟨.vec, s.phys a.v.toNat, s.me.schc + latBound a.lat.toNat, s.me.schc, 6, 0, 0, m, 0, none, es.isEmpty, none,
       s.me.ops + 1, none, es.length⟩ : LandEntry)
     s.reach x = true → extRow s.tgt true a.ext.toNat o = .at x →
       Queues s (.atom a) true [] (acc false (.atom a)) ∧
       (extRow s.tgt false a.ext.toNat o = .at x →
         ∃ m : Row, (∀ b : Nat, b < 1024 → m.getLsbD b = es.contains (b / w)) ∧ Queues s (.atomr a) true [land m] (acc true (.atomr a)))) ∧
  (∀ (s : State) (a : MArgs) (places : List (W64 × Bool)),
     let d := s.quDesc a
     let n := (quNl d a.ext.toNat).getD 1
     let es := (List.range (quF d)).map fun f => (⟨.vec, s.phys (a.v.toNat + 8 + f), s.me.schc + latBound a.lat.toNat, s.me.schc, 6, f, 0,
       laneMask (s.lanes a.gd), 0, none, decide (s.lanes a.gd = 0), none, s.me.ops + 1, none, 0⟩ : LandEntry)
     let c0 := { s.me with ops := s.me.ops + 1, land := s.me.land ++ es }
     let adds := quAdds d a.ext.toNat n (s.quCoords a d) (s.lanes a.gd) fun f => s.rdV (a.v.toNat + 8 + f)
     (s.recording = false → s.qldCheck a = .ok places → ∃ t, exec (.qld a) s = .next t ∧
       ∃ c, CtxOnly s t s.act c ∧ c = { c0 with q := c.q, rowsAt := none, rowsRead := [] } ∧
         (s.lanes a.gd = 0 → c.q = s.me.q) ∧
         (s.lanes a.gd ≠ 0 → ∃ x, c.q = s.me.q ++ [x] ∧ x.isLoad = true ∧ x.op = s.me.ops + 1 ∧ x.iss = s.clk ∧
           x.what = .qld a d (s.quCoords a d) (s.lanes a.gd) (places.map fun p => (p.1, none)))) ∧
     (s.qscatCheck a = .ok places → ∃ t, exec (.qscat a) s = .next t ∧
       ∃ c, CtxOnly s t s.act c ∧ c = { s.me with ops := s.me.ops + 1, irrev := true, q := c.q, rowsAt := none, rowsRead := [] } ∧
         ∃ qs, c.q = s.me.q ++ qs ∧ qs.length = adds.length ∧ ∀ k q, qs[k]? = some q →
           q.isStore = true ∧ q.isLoad = false ∧ q.op = s.me.ops + 1 ∧ q.idx = k ∧ q.addr = (places.getD k (0, false)).1 ∧
             q.what = .addf ((adds.getD k (0, [])).1 % 128) (adds.getD k (0, [])).2))

/-- R337, R338: the scale-register moves: SCLD as a timed load of 32 bytes, SCST as a timed store of them, SCMOV either way. R337, R339: the pleat operations: QMAX lands both blocks' exponents in the scale register, QCVT the blocks quantised with the
exponents held there, QSTEP both, QCVT.DEC the decoded elements. -/
def Obligations.ScaleRegisterMoves : Prop :=
  (∀ (s : State) (a : QArgs),
     let row := ((((s.rdS (BitVec.ofNat 6 (a.field 11 6))).toNat : Int) + sextNat (a.field 17 10) 10) % 32768).toNat
     let p := a.field 27 2
     let prio := if s.cur % 4 = (s.core s.coreNo).lead then 1000 else 1001
     let m := 2 ^ 256 - 1
     (∃ t, exec (.scld a) s = .next t ∧
       t.timed = s.timed ++ [⟨s.clk + 2, false, 0, s.coreNo, row, s.act, s.me.ops + 1, 0, 0, 0, false, s.clk⟩] ∧
       CtxOnly { s with timed := t.timed } t s.act { s.me with ops := s.me.ops + 1, land := s.me.land ++
         [⟨.scale, a.k.toNat, s.me.schc + 3, s.me.schc, 8, 0, 0, BitVec.ofNat 1024 m, BitVec.ofNat 6 p, none, false, none, s.me.ops + 1, none, 0⟩] }) ∧
     exec (.scst a) s = .next { s with timed := s.timed ++ [⟨s.clk + 2, true, prio, s.coreNo, row, s.act, 0, 0,
       BitVec.ofNat 1024 ((s.rdK a.k).toNat * 2 ^ (256 * p)), BitVec.ofNat 1024 (m * 2 ^ (256 * p)), false, s.clk⟩] } ∧
     Lands s (.scmov a) (entryOf s.me .scale a.k.toNat 2 8 0 ((s.rdV (a.field 11 11)).toNat % 2 ^ 256) m 0) ∧
     Lands s (.scmovToVector a) (entryOf s.me .vec (s.phys (a.field 11 11)) 2 8 0 (s.rdK a.k).toNat m 0)) ∧
  (∀ (s : State) (a : QArgs),
     let r := s.rdV (a.field 11 11)
     let w := fun b => (List.range 16).map fun i => lane r (16 * b + i)
     let j := 2 * a.field 22 4
     let m := if a.field 26 2 = 1 then 7 else if a.field 26 2 = 2 then 4 else 2
     let n := 2 + 2 * (m + 1)
     let sh := 16 * n * a.field 29 3
     let dst := s.phys (a.field 11 11 + 1)
     let exps := (pleatExp (w 0) + 256 * pleatExp (w 1)) * 2 ^ (8 * j)
     let blocks := fun e0 e1 => ((pleatWith m e0 (w 0)).1 + (pleatWith m e1 (w 1)).1 * 2 ^ (8 * n)) * 2 ^ sh
     let flags := fun e0 e1 => (pleatWith m e0 (w 0)).2 ||| (pleatWith m e1 (w 1)).2
     let k := (s.rdK a.k).toNat / 2 ^ (8 * j)
     let kE := fun t => entryOf s.me .scale a.k.toNat t 8 0 exps (65535 * 2 ^ (8 * j)) 0
     let vE := fun sub e0 e1 => entryOf s.me .vec dst 4 8 sub (blocks e0 e1) ((2 ^ (16 * n) - 1) * 2 ^ sh) (flags e0 e1)
     Lands s (.qmax a) (kE 6) ∧
     Lands s (.qcvt a) (vE 0 (k % 256) (k / 256 % 256)) ∧
     (∃ t, exec (.qstep a) s = .next t ∧
       CtxOnly s t s.act { s.me with land := s.me.land ++ [kE 2, vE 1 (pleatExp (w 0)) (pleatExp (w 1))] }) ∧
     ∃ e, Lands s (.qcvtDec a) e ∧ e.kind = .vec ∧ e.dest = dst ∧ e.tick = s.me.schc + 4 ∧ e.mask = BitVec.allOnes 1024 ∧ e.flags = 0 ∧
       ∀ l, l < 32 → lane e.data l = pleatDecode m (r.toNat / 2 ^ (sh + 8 * n * (l / 16)) % 2 ^ (8 * n)) (l % 16) % 2 ^ 32)

namespace Sys2Proof.Claims

/-- The issuing context goes on at `t`: fetched bundles are dropped, an owed dictionary window closes and a running loop ends. -/
def Jumps (s : State) (i : Instr) (t : CodeAddr) : Prop :=
  ∃ u, exec i s = .next u ∧ CtxOnly s u s.act { s.me with next := t, fq := [], owed := 0, lp := none }

/-- The operation traps in the issue class at its own bundle. -/
def TrapsAt (s : State) (i : Instr) (cause tval : Nat) : Prop :=
  exec i s = .next (s.takeTrap cause (BitVec.ofNat 64 tval) s.me.pc)

/-- The operation completes and changes the issuing context alone, to `c`. -/
def Me (s : State) (i : Instr) (c : Ctx) : Prop := ∃ u, exec i s = .next u ∧ CtxOnly s u s.act c
/-- The operation completes and changes the context whose CSRs it names alone (in a handler the trapped one), to `c`. -/
def Target (s : State) (i : Instr) (c : Ctx) : Prop := ∃ u, exec i s = .next u ∧ CtxOnly s u s.cur c

end Sys2Proof.Claims

namespace Sys2Proof.Claims

/-- The address after `n` bundles in code order from `pc` on, the first of them the `i`-th from the context's next one on. -/
def codeAfter (s : State) (key i : Nat) (pc : CodeAddr) : Nat → CodeAddr
  | 0 => pc
  | n + 1 => codeAfter s key (i + 1) (s.expand key i pc).next n

/-- No armed error and no lost memory: reads meet no error. -/
def Quiet (s : State) : Prop := bit (s.reg 0x301) 63 = false ∧ ∀ a, s.lost a = false

end Sys2Proof.Claims

/-- R240, R275: control transfers. A taken branch goes to this bundle's first word plus its signed offset, modulo 2^48; JMP and RET to
bits [47:0] of their register; CALL lands the next bundle's address in s63; a branch not taken changes nothing. R276, R277, R278: LOOP takes the N
bundles after it into the loop buffer with the nest of its record, or goes on after them when the nest is empty; LOOPBRK ends the loop when its guard
says so. CALL, RET and LOOP in a body, LOOPBRK outside one, a refused record, and LOOP and LOOPBRK in a handler trap ILLEGAL. -/
def Obligations.ControlTransfers : Prop :=
  (∀ (s : State) (r : BitVec 6) (g : BitVec 4) (inv : Bool) (o24 : BitVec 24) (o18 : BitVec 18) (o19 : BitVec 19),
     let at24 : CodeAddr := s.me.pc + o24.signExtend 48
     let at18 : CodeAddr := s.me.pc + o18.signExtend 48
     let at19 : CodeAddr := s.me.pc + o19.signExtend 48
     Jumps s (.br o24) at24 ∧
     (s.rdS r = 0 → Jumps s (.brz r o18) at18 ∧ NoEffect s (.brnz r o18)) ∧
     (s.rdS r ≠ 0 → Jumps s (.brnz r o18) at18 ∧ NoEffect s (.brz r o18)) ∧
     (s.scalarOn g inv = true → Jumps s (.brg g inv o19) at19) ∧ (s.scalarOn g inv = false → NoEffect s (.brg g inv o19)) ∧
     Jumps s (.jmp r) ((s.rdS r).extractLsb' 0 48) ∧
     (s.me.lp = none → Jumps s .ret ((s.rdS 63).extractLsb' 0 48) ∧
       Me s (.call o24) { s.me with next := at24, fq := [], owed := 0, lp := none, land := s.me.land ++
         [entryOf s.me .scalar 63 1 0 0 s.me.next.toNat (2 ^ 64 - 1) 0] }) ∧
     (s.me.lp ≠ none → TrapsAt s .ret 0x01 (slotTval .ret) ∧ TrapsAt s (.call o24) 0x01 (slotTval (.call o24)))) ∧
  (∀ (s : State) (base : BitVec 6) (body : BitVec 4) (off : BitVec 14),
     let row := (((s.rdS base).toNat : Int) + off.toInt) % 32768 |>.toNat
     let p := s.pairAt row
     let i := Instr.loop base body off
     let n := body.toNat + 1
     let at' := fun k => codeAfter s s.act 0 s.me.next k
     (s.hidden = true ∨ s.me.lp ≠ none ∨ lnrOkLoop p 0 = false → TrapsAt s i 0x01 (slotTval i)) ∧
     (s.hidden = false → s.me.lp = none → lnrOkLoop p 0 = true → ∃ u c, exec i s = .next u ∧ u.ctx s.act = c ∧
       (∀ m, m ≠ s.act → u.ctx m = s.ctx m) ∧ (Quiet s → u = { s with ctxs := u.ctxs }) ∧
       ((nestOf p).done = true → c = { s.me with next := c.next, fq := [], owed := s.me.owed - n, rowsAt := none, rowsRead := [] } ∧
         (Quiet s → c.next = at' n)) ∧
       ((nestOf p).done = false → ∃ l, c = { s.me with fq := [], ix := c.ix, lp := some l, rowsAt := none, rowsRead := [] } ∧
         ((nestOf p).await = none → c.ix = (nestOf p).idx.map (BitVec.ofNat 32)) ∧ ((nestOf p).await ≠ none → c.ix = s.me.ix) ∧
         l.nest = nestOf p ∧ l.pos = 0 ∧ l.passed = false ∧ l.lnr = row ∧ l.body = s.me.next ∧ l.live = none ∧ l.buf.length = n ∧
         (Quiet s → l.after = at' n ∧ ∀ k, k < n → l.buf[k]? = some (s.expand s.act k (at' k)))))) ∧
  ∀ (s : State) (g : BitVec 4) (inv : Bool),
     (∀ l, s.hidden = false → s.me.lp = some l →
       (s.scalarOn g inv = true →
         Me s (.loopbrk g inv) { s.me with next := l.after, fq := [], owed := s.me.owed - l.buf.length, lp := none }) ∧
       (s.scalarOn g inv = false → NoEffect s (.loopbrk g inv))) ∧
     (s.hidden = true ∨ s.me.lp = none → TrapsAt s (.loopbrk g inv) 0x01 (slotTval (.loopbrk g inv)))

/-- R274, R279, R280, R281, R283: the task-control operations of a task: TEND and TWAIT begin the drain that ends the task (TWAIT once it need not wait for its frame or a
place in its pool), TSIG queues one
decrement, YIELD starts a save when one is asked for. A handler, which holds no task, takes ILLEGAL for each of them. -/
def Obligations.TaskControl : Prop :=
  ∀ (s : State) (r : BitVec 6) (off : BitVec 18),
    let at18 : CodeAddr := s.me.pc + off.signExtend 48
    (s.hidden = false →
      Me s .tend { s.me with hold := .ending none, req := false, reports := [] } ∧
      (∀ t, s.twaitTrap (.twait r off) (s.rdS r) = some t → TrapsAt s (.twait r off) t.1 t.2) ∧
      (s.twaitTrap (.twait r off) (s.rdS r) = none →
        (s.twaitWaits (s.rdS r) = false →
          Me s (.twait r off) { s.me with hold := .ending (some (s.rdS r, at18, s.me.pc)), req := false, reports := [] }) ∧
        (s.twaitWaits (s.rdS r) = true → NoEffect s (.twait r off))) ∧
      ((s.rdS r).extractLsb' 52 4 = 15#4 → s.reach (s.rdS r) = true → Me s (.tsig r) { s.me with ops := s.me.ops + 1, irrev := true, q :=
        s.me.q ++ [⟨false, true, s.rdS r, s.me.ops + 1, 0, .dec [], .waiting, s.clk, 0, false⟩] }) ∧
      ((s.rdS r).extractLsb' 52 4 ≠ 15#4 → TrapsAt s (.tsig r) 0x01 (s.rdS r).toNat) ∧
      ((s.rdS r).extractLsb' 52 4 = 15#4 → s.reach (s.rdS r) = false → TrapsAt s (.tsig r) 0x0A (s.rdS r).toNat) ∧
      (s.me.req = true → Me s .yield { s.me with hold := .save 0 false }) ∧ (s.me.req = false → NoEffect s .yield)) ∧
    (s.hidden = true → ∀ i ∈ [Instr.tend, .twait r off, .tsig r, .tspawn r off, .trig, .yield, .rmack, .baste, .knot],
      TrapsAt s i 0x01 (slotTval i))

/-- R109, R279: TRIG triggers its group once: each successor's decrement enters the context's store queue, in order, and the segment is
irreversible from then on. R113, R282: TSPAWN of a record that passes its check, with no dependence counter and a free place in the die's pool, makes one level-0
group of the launch, with the launch's next spawn index; the record stands in the pool's entry (log 127), no other byte of memory changes, and its
translation begins. -/
def Obligations.TriggerAndSpawn : Prop :=
  (∀ (s : State) (t : TaskRun) (g : Group), s.hidden = false → s.me.task = some t → s.groups.find t.group = some g →
     (g.trigd = false → g.never = false → ∃ u c, exec .trig s = .next u ∧ u.groups.find t.group = some { g with trigd := true } ∧
       CtxOnly { s with groups := u.groups } u s.act c ∧ c = { s.me with irrev := true, ops := s.me.ops + 1, q := c.q } ∧
       ∃ qs, c.q = s.me.q ++ qs ∧ qs.length = trNsucc g.trec ∧ ∀ k q, qs[k]? = some q →
         q.isStore = true ∧ q.isLoad = false ∧ q.what = .dec [] ∧
           localOf q.addr = (trSucc g.trec + 8 * k) % 2 ^ 58 ∧ devOf q.addr = s.dev.devid.toNat) ∧
     ((g.trigd = true ∨ g.never = true) → Me s .trig { s.me with irrev := true })) ∧
  (∀ (s : State) (r : BitVec 6) (off : BitVec 18) (t : TaskRun) (c : Cmd) (l : Launch) (g : Nat),
     let p := s.pairAt (s.spawnRow r off)
     let row := trFor (p.truncate 1024) l.spawn 0
     let die := dieOfCore s.coreNo
     s.wf → s.hidden = false → s.spawnOk p = true → s.me.task = some t → s.cmds.find t.cmd = some c → c.launch = some l →
     trDep row = 0 → s.freeGref die = some g →
     ∃ u e, exec (.tspawn r off) s = .next u ∧
       u.groups.find (groupKey t.cmd l.spawn) =
         some ⟨t.cmd, l.spawn, 0, 1, die, row, BitVec.ofNat 16 (p.toNat / 2 ^ 1024 % 2 ^ 16), false, false, 1, [], g⟩ ∧
       u.entries.find (readyKey e) = some e ∧ e.kind = .new ∧ e.st = .translating ∧ e.group = groupKey t.cmd l.spawn ∧
       e.trec = row ∧ e.serial = s.serial ∧
       u.pend = s.pend ++ [.event (readyKey e) 0 .translationComplete] ∧
       ((u.cmds.find t.cmd).bind (·.launch)).map (·.spawn) = some (l.spawn + 1) ∧ u.bytes (s.poolAddr die g) 128 = row.toNat ∧
       (∀ a, (a < s.poolAddr die g ∨ s.poolAddr die g + 128 ≤ a) → u.byte a = s.byte a) ∧ u.poison = s.poison ∧
       u.me = { s.me with rowsAt := none, rowsRead := [] } ∧ ∀ n, n ≠ s.act → u.ctx n = s.ctx n)

/-- R159, R160, R284, R286, R287, R291, R292: the ordering, flag, rendezvous and rotation operations. What the device sets in a cycle stays set when FCLR or
RMACK clears it in that cycle. -/
def Obligations.FlagsAndFences : Prop :=
  ∀ (s : State) (m : BitVec 16) (scope : BitVec 3) (kind : BitVec 2) (n : BitVec 10) (sa se : BitVec 6),
    (∃ f : BitVec 16, Me s (.fset m) { s.me with f := f } ∧ ∀ k : Nat, f.getLsbD k = (s.me.f.getLsbD k || (decide (k < 15) && m.getLsbD k))) ∧
    (∃ f : BitVec 16, Me s (.fclr m) { s.me with f := f } ∧
      ∀ k : Nat, f.getLsbD k = (s.me.f.getLsbD k && !(decide (k < 15) && m.getLsbD k && !s.me.fset.getLsbD k))) ∧
    Me s (.fence scope kind) { s.me with hold := .fence scope.toNat kind.toNat } ∧
    Me s .mark { s.me with ops := s.me.ops + 1, q := s.me.q ++ [⟨true, true, 0, s.me.ops + 1, 0, .mark, .waiting, s.clk, 0, false⟩] } ∧
    Target s (.rot n) { s.tgt with csr := { s.tgt.csr with rrb := BitVec.ofNat 64 ((s.tgt.csr.rrb.toNat + n.toNat) % 1024) } } ∧
    NoEffect s .cnop ∧ (∀ slot, NoEffect s (.nop slot)) ∧
    (s.hidden = false →
      (∃ f : BitVec 16, Me s .rmack { s.me with f := f, grace := s.me.fset.getLsbD 15, csr := { s.me.csr with ackver := s.reg 0x302 } } ∧
        ∀ k : Nat, f.getLsbD k = (s.me.f.getLsbD k && (decide (k < 15) || s.me.fset.getLsbD k))) ∧
      (s.me.hold = .none → Me s (.rdv sa se) { s.me with hold := .rdv (s.rdS sa) ((s.rdS se).extractLsb' 0 32) false, rdvAt := none }) ∧
      (∀ a e, s.me.hold = .rdv a e true → Me s (.rdv sa se) { s.me with hold := .none }) ∧
      (∀ a e, s.me.hold = .rdv a e false → Me s (.rdv sa se) s.me) ∧
      (∀ a, s.me.hold = .late a → exec (.rdv sa se) s = .next ((s.modMe fun c => { c with hold := .none }).takeTrap 0x17 a s.me.pc))) ∧
    (s.hidden = true → TrapsAt s (.rdv sa se) 0x01 (slotTval (.rdv sa se)) ∧ TrapsAt s .rmack 0x01 (slotTval .rmack))

/-- R170, R171, R173, R176: a trap in a context with a handler dictionary bound: TCAUSE, TVAL, TPC and TFRAME are written, nothing else of the
trapped context but its fetched bundles changes, and the hidden trap context starts at TVEC.ENTRY with the core's lead. -/
def Obligations.TrapEntry : Prop :=
  ∀ (s : State) (cause : Nat) (tval : W64) (tpc : CodeAddr), s.hidden = false → s.cur < 2048 →
    ((s.core s.coreNo).regionOf 0xFFFF).isSome = true →
    let t := s.takeTrap cause tval tpc
    let c := t.ctx s.cur
    let h := t.ctx (2048 + s.coreNo)
    let entry : CodeAddr := s.tgt.csr.tvec.truncate 48
    c = { s.tgt with fq := [], rowsAt := none, rowsRead := [], csr := { s.tgt.csr with
      tcause := BitVec.ofNat 64 cause, tval := tval, tpc := tpc.zeroExtend 64, tframe := c.csr.tframe } } ∧
    (fld c.csr.tframe 50 2 = 0 ∧ fld c.csr.tframe 0 2 = s.cur % 4) ∧
    h = { s.ctx (2048 + s.coreNo) with pc := entry, next := entry, fq := [], hold := .none, rowsAt := none, rowsRead := [] } ∧
    t.core s.coreNo = { s.core s.coreNo with run := some (s.cur % 4), lead := s.cur % 4 } ∧ t.hidden = true ∧
    t = { s with ctxs := t.ctxs, cores := t.cores } ∧ (∀ n, n ≠ s.cur → n ≠ 2048 + s.coreNo → t.ctx n = s.ctx n) ∧
    (∀ k, k ≠ s.coreNo → t.core k = s.core k) ∧ ∀ a, t.byte a = s.byte a

/-- R177, R288: TRAP takes its named cause and BKPT takes BREAK, both in the after class: TPC is the next bundle. R178, R179, R289: RFT outside a handler traps PRIV; in a handler with an empty landing buffer it ends the handler, and TFRAME.ACTION 0
resumes the context at TPC; with results still to land it waits. R179: a trap in a handler kills the trapped task: the handler ends, its landing buffer is dropped, and the task's command no longer runs
there. -/
def Obligations.SoftwareTraps : Prop :=
  (∀ (s : State) (cause : BitVec 8) (code : BitVec 16) (imm : BitVec 24), s.hidden = false → s.cur < 2048 →
     ((s.core s.coreNo).regionOf 0xFFFF).isSome = true →
     (∃ t, exec (.trap cause code) s = .next t ∧ t.hidden = true ∧ (t.ctx s.cur).csr.tcause = cause.zeroExtend 64 ∧
       (t.ctx s.cur).csr.tval = BitVec.ofNat 64 (code.toNat + 2 ^ 62) ∧ (t.ctx s.cur).csr.tpc = s.me.next.zeroExtend 64 ∧
       (t.ctx (2048 + s.coreNo)).pc = s.tgt.csr.tvec.truncate 48) ∧
     ∃ t, exec (.bkpt imm) s = .next t ∧ t.hidden = true ∧ (t.ctx s.cur).csr.tcause = 0x11 ∧
       (t.ctx s.cur).csr.tval = imm.zeroExtend 64 ∧ (t.ctx s.cur).csr.tpc = s.me.next.zeroExtend 64 ∧
       (t.ctx (2048 + s.coreNo)).pc = s.tgt.csr.tvec.truncate 48) ∧
  (∀ (s : State), s.cur < 2048 →
     (s.hidden = false → TrapsAt s .rft 0x03 (slotTval .rft)) ∧
     (s.hidden = true → s.me.land ≠ [] → Me s .rft { s.me with hold := .rft }) ∧
     (s.hidden = true → s.me.land = [] → fld s.tgt.csr.tframe 50 2 = 0 → s.tgt.cap = none →
       ∃ t, exec .rft s = .next t ∧ t.hidden = false ∧ (t.core s.coreNo).lead = s.cur % 4 ∧
         (t.ctx s.cur).pc = s.tgt.csr.tpc.truncate 48 ∧ (t.ctx s.cur).next = s.tgt.csr.tpc.truncate 48 ∧
         (t.ctx s.cur).fq = [] ∧ (t.ctx s.cur).s = s.tgt.s ∧ (t.ctx s.cur).v = s.tgt.v ∧ (t.ctx s.cur).g = s.tgt.g ∧
         (t.ctx s.cur).task = s.tgt.task ∧ (∀ n, n ≠ s.cur → t.ctx n = s.ctx n) ∧ ∀ a, t.byte a = s.byte a)) ∧
  (∀ (s : State) (cause : Nat) (tval : W64) (tpc : CodeAddr) (t : TaskRun), s.hidden = true → s.cur < 2048 → s.tgt.task = some t →
     let u := s.takeTrap cause tval tpc
     u.hidden = false ∧ (u.ctx (2048 + s.coreNo)).land = [] ∧ (u.ctx s.cur).task = none)

/-- R150, R293, R294, R370, R371: DSWAP exchanges the active and the shadow region and binds the shadow's identifier; BASTE opens recording
with a copy of the gradient map, and does nothing while it is open; KNOT closes it once every row of the log has performed. -/
def Obligations.DictionarySwapAndRecordMode : Prop :=
  ∀ (s : State), s.hidden = false →
    (∀ id k, s.me.lp = none → s.dictldOut = false → s.me.shadowId = some id →
      fld s.me.csr.dictl 16 15 ≠ 0 → (s.core s.coreNo).region.find? (fun e => e.2.1 == id) = some k → ∃ t c, exec .dswap s = .next t ∧
        t.core s.coreNo = { s.core s.coreNo with
          region := (s.core s.coreNo).region.put k.1 (id, fld s.me.csr.dictb 16 14, fld s.me.csr.dictl 16 15) } ∧
        CtxOnly { s with cores := t.cores } t s.act c ∧
        c = { s.me with
          shadowId := none, oldBase := fld s.me.csr.dictb 0 14, oldLen := fld s.me.csr.dictl 0 15, owed := 8,
          csr := { s.me.csr with dictb := c.csr.dictb, dictl := c.csr.dictl } } ∧
        fld c.csr.dictb 0 14 = fld s.me.csr.dictb 16 14 ∧ fld c.csr.dictb 16 14 = fld s.me.csr.dictb 0 14 ∧
        fld c.csr.dictl 0 15 = fld s.me.csr.dictl 16 15 ∧ fld c.csr.dictl 16 15 = fld s.me.csr.dictl 0 15) ∧
    (bit s.me.csr.recst 3 = false → bit s.me.csr.recst 0 = true → NoEffect s .baste) ∧
    (bit s.me.csr.recst 3 = true → TrapsAt s .baste 0x01 (slotTval .baste)) ∧
    (bit s.me.csr.recst 3 = false → bit s.me.csr.recst 0 = false → fld s.me.csr.logb 62 2 = 0 →
      fld s.me.csr.logb 0 48 + fld s.me.csr.logl 0 48 ≤ 3407872 →
      ∃ c, Me s .baste c ∧ c = { s.me with gmapT := s.gmapRead s.act, csr := { s.me.csr with recst := c.csr.recst } } ∧
        bit c.csr.recst 0 = true ∧ c.csr.recst.toNat / 2 = s.me.csr.recst.toNat / 2) ∧
    (s.logOut s.act = false → ∃ c, Me s .knot c ∧ c = { s.me with csr := { s.me.csr with recst := c.csr.recst } } ∧
      bit c.csr.recst 0 = false ∧ c.csr.recst.toNat / 2 = s.me.csr.recst.toNat / 2) ∧
    (s.logOut s.act = true → NoEffect s .knot)

/-- R173, R271, R290: CSRR lands a CSR's value as the context sees it; outside a handler the numbers 0x100 to 0x4FF trap PRIV with the number in
TVAL, and a number that names no register traps ILLEGAL, for reads and writes alike. -/
def Obligations.CsrReads : Prop :=
  ∀ (s : State) (r : BitVec 6) (n : BitVec 12),
    let k := n.toNat
    let priv := 0x100 ≤ k ∧ k < 0x500
    let v := s.readReg64 s.cur k
    ((s.hidden = true ∨ ¬priv) → csrListed k = true → r ≠ 0 →
      Lands s (.csrr r n) (entryOf s.me .scalar r.toNat 1 0 0 v.toNat (2 ^ 64 - 1) 0)) ∧
    ((s.hidden = true ∨ ¬priv) → csrListed k = true → r = 0 → NoEffect s (.csrr r n)) ∧
    (s.hidden = false → priv → TrapsAt s (.csrr r n) 0x03 (slotTval (.csrr r n) + 2 ^ 16 * k) ∧
      TrapsAt s (.csrw r n) 0x03 (slotTval (.csrw r n) + 2 ^ 16 * k)) ∧
    ((s.hidden = true ∨ ¬priv) → csrListed k = false → TrapsAt s (.csrr r n) 0x01 (slotTval (.csrr r n)) ∧
      TrapsAt s (.csrw r n) 0x01 (slotTval (.csrw r n))) ∧
    s.readReg64 s.cur 0 = BitVec.ofNat 64 (s.dev.devid.toNat * 2 ^ 11 + s.cur) ∧
    s.readReg64 s.cur 2 = BitVec.ofNat 64 s.tgt.schc ∧ s.readReg64 s.cur 3 = s.tgt.csr.rrb ∧
    s.readReg64 s.cur 4 = s.tgt.f.zeroExtend 64 ∧ s.readReg64 s.cur 8 = s.tgt.csr.fpstat ∧ s.readReg64 s.cur 9 = s.tgt.csr.fpmode ∧
    s.readReg64 s.cur 0xB = BitVec.ofNat 64 s.clk ∧ s.readReg64 s.cur 0x101 = s.tgt.csr.tcause

/-- R130, R145, R174, R175, R199, R271, R286, R290, R291, R370: what CSRW writes: the named fields of the user CSRs, nothing for a read-only
one, and in a handler the trapped context's privileged CSRs and its scalar and guard registers through the window. -/
def Obligations.CsrWrites : Prop :=
  ∀ (s : State) (r : BitVec 6),
    let v := s.rdS r
    let csr := s.tgt.csr
    let W := fun (n : BitVec 12) (c : Csrs) => Target s (.csrw r n) { s.tgt with csr := c }
    let landed : BitVec 6 := if s.tgt.fpAt.1 = s.act ∧ s.tgt.fpAt.2.1 = s.me.schc then s.tgt.fpAt.2.2 else 0
    W 3 { csr with rrb := (v.extractLsb' 0 10).zeroExtend 64 } ∧ W 8 { csr with fpstat := (v.extractLsb' 0 6 ||| landed).zeroExtend 64 } ∧
    W 0xE { csr with logl := (v.extractLsb' 0 48).zeroExtend 64 } ∧
    (∃ m : W64, W 9 { csr with fpmode := m } ∧ fld m 8 6 = fld v 8 6 ∧ fld m 0 3 = (if 4 < fld v 0 3 then 0 else fld v 0 3) ∧ m.toNat < 2 ^ 14) ∧
    (∃ f : BitVec 16, Target s (.csrw r 4) { s.tgt with f := f } ∧ f.getLsbD 15 = s.tgt.f.getLsbD 15 ∧
      ∀ k : Nat, k < 15 → f.getLsbD k = (v.getLsbD k || s.tgt.f.getLsbD k && s.tgt.fset.getLsbD k)) ∧
    (bit csr.recst 0 = false → bit csr.recst 3 = false → W 0xD { csr with logh := (v.extractLsb' 0 48).zeroExtend 64 }) ∧
    ((bit csr.recst 0 = true ∨ bit csr.recst 3 = true) → ∀ n ∈ [0xC#12, 0xD, 0xF, 0x10], NoEffect s (.csrw r n)) ∧
    (∀ n ∈ [0#12, 1, 2, 5, 7, 0xA, 0xB], NoEffect s (.csrw r n)) ∧
    (s.hidden = false → NoEffect s (.csrw r 6)) ∧
    (s.hidden = true → s.cur < 2048 →
      W 0x103 { csr with tpc := (v.extractLsb' 0 48).zeroExtend 64 } ∧
      W 0x105 { csr with pdl := BitVec.ofNat 64 (max 1024 (v.toNat % 2 ^ 31)) } ∧
      (∃ m : W64, W 0x104 { csr with tframe := m } ∧ fld m 50 2 = fld v 50 2 ∧ fld m 0 50 = fld csr.tframe 0 50 ∧ fld m 52 12 = fld csr.tframe 52 12) ∧
      (∀ k : Nat, 0 < k → k < 64 → Target s (.csrw r (BitVec.ofNat 12 (0x400 + k))) { s.tgt with s := s.tgt.s.put k v }) ∧
      (∀ k : Nat, 0 < k → k < 16 → Target s (.csrw r (BitVec.ofNat 12 (0x440 + k))) { s.tgt with g := s.tgt.g.put k (v.extractLsb' 0 33) }) ∧
      NoEffect s (.csrw r 0x400) ∧ NoEffect s (.csrw r 0x440))

/-- R18, R184, R187, R206, R213, R215, R270: register writes from outside: the named fields change and the rest stays; ACCOWN clears the store's
tiles, KATCFG lets a suspect engine start again, EINJC arms an error only for an array that can be named, MODE 0 lets every context of
the core go on, RNGSEL claims an unbound stream. R11: in BADIMAGE the device answers none of them. -/
def Obligations.RegisterWrites : Prop :=
  ∀ (s : State) (v : W64) (n core : Nat),
    (s.dev.rst = .badImage → (∀ i ∈ [Instr.accownWrite core v, .katcfgWrite core v, .einjcWrite v, .rngselWrite n v, .ttabWrite n v,
      .dbgcfgModeWrite core n], NoEffect s i) ∧ ∀ m, m < 0x1200 → NoEffect s (.registerWrite n m v)) ∧
    (s.dev.rst ≠ .badImage →
    (∃ t, exec (.registerWrite n 0x105 v) s = .next t ∧
      CtxOnly s t n { s.ctx n with csr := { (s.ctx n).csr with pdl := BitVec.ofNat 64 (max 1024 (v.toNat % 2 ^ 31)) } }) ∧
    (∃ t, exec (.registerWrite n 0x304 v) s = .next t ∧ t = { s with regs := t.regs } ∧
      (t.reg 0x304).toNat = max 100 (min 1000000 (v.toNat % 2 ^ 32)) ∧ ∀ m, m ≠ 0x304 → t.reg m = s.reg m) ∧
    (∀ m, (m = 0x302 ∨ m = 0x303 ∨ m = 0x317 ∨ m = 0x334) → NoEffect s (.registerWrite n m v)) ∧
    (∃ t k, exec (.accownWrite core v) s = .next t ∧ t.core core = k ∧
        k = { s.core core with acc := [], accPoison := 0, accdirty := 0, accown := k.accown } ∧ fld k.accown 0 50 = fld v 0 50 ∧ fld k.accown 61 3 = fld v 61 3 ∧ fld k.accown 50 11 = 0 ∧
      (∀ m, m ≠ core → t.core m = s.core m) ∧ t = { s with cores := t.cores, ctxs := t.ctxs } ∧ (bit v 63 = false → t.ctxs = s.ctxs)) ∧
    (∃ t k, exec (.katcfgWrite core v) s = .next t ∧ t.core core = k ∧ k = { s.core core with katcfg := k.katcfg, suspect := false } ∧
      fld k.katcfg 0 5 = fld v 0 5 ∧ fld k.katcfg 5 59 = fld (s.core core).katcfg 5 59 ∧ (∀ m, m ≠ core → t.core m = s.core m) ∧
      t = { s with cores := t.cores }) ∧
    (∃ t, exec (.einjcWrite v) s = .next t ∧ t = { s with regs := t.regs } ∧ (∀ m, m ≠ 0x301 → t.reg m = s.reg m) ∧
      fld (t.reg 0x301) 0 16 = fld v 0 16 ∧ (12 ≤ fld v 12 4 → bit (t.reg 0x301) 63 = false) ∧
      (6 ≤ fld v 12 4 → fld v 12 4 < 12 → bit (t.reg 0x301) 63 = bit v 63) ∧
      bit (t.reg 0x301) 62 = (bit (s.reg 0x301) 62 && !bit v 62)) ∧
    (∃ t, exec (.dbgcfgModeWrite core 0) s = .next t ∧ (∀ c, c < 4 → (t.ctx (4 * core + c)).halted = false) ∧
      fld (t.core core).dbgcfg 0 2 = 0 ∧ (∀ m, m ≠ core → t.core m = s.core m) ∧ t = { s with cores := t.cores, ctxs := t.ctxs }) ∧
    (bit (s.ctx n).csr.rngsel 63 = false → bit v 16 = false → fld v 0 12 < fld (s.reg 0x332) 0 13 →
      s.bytes (s.strEntry (fld v 0 12) + 0x15) 1 = 1 → s.bytes (s.strEntry (fld v 0 12) + 0x14) 1 < 16 →
      s.bytes (s.strEntry (fld v 0 12) + 0x16) 10 = 0 → ∃ t, exec (.rngselWrite n v) s = .next t ∧
        t.ctx n = { s.ctx n with csr := { (s.ctx n).csr with rngsel := BitVec.ofNat 64 (fld v 0 12 + 2 ^ 63) }, rngWait := true } ∧
        (∀ m, m ≠ n → t.ctx m = s.ctx m) ∧ t = { s with ctxs := t.ctxs, mem := t.mem }))

namespace Sys2Proof.Claims

/-- The MX opcodes with their instructions (R344). -/
def mxOps (a : XArgs) : List (Nat × Instr) :=
  [(1, .tmul a), (2, .tmuls a), (3, .tzero a), (4, .tlda a), (5, .tsta a), (6, .ta2v a), (7, .tv2a a), (8, .tadd a), (9, .tscale a),
   (10, .tbias a), (11, .tact a), (12, .tred a), (13, .ttrans a), (14, .tnorm a), (15, .tcopy a)]

/-- Command `c` stands at the end of its class's matrix queue of core `n`, the rest of both queues as in `k`. -/
def QueuedMx (k k' : Core) (c : MxCmd) : Prop :=
  k'.q0 = (if c.q1 then k.q0 else k.q0 ++ [c]) ∧ k'.q1 = if c.q1 then k.q1 ++ [c] else k.q1

end Sys2Proof.Claims

/-- R142, R340: a matrix command that passes its checks and finds room enters its class's queue with the values it captured, to run for this
context on this core; no byte of memory, no other context and no other core changes. -/
def Obligations.MatrixIssue : Prop :=
  ∀ (s : State) (a : XArgs), ∀ o ∈ mxOps a,
    let c := s.mxCmd o.1 a none
    s.recording = false → s.mxTrap o.2 c = none → s.mxFull c = false → s.mxLanding c = false →
      (c.op = o.1 ∧ c.a = a ∧ c.ctx = s.act ∧ c.home = s.coreNo ∧ c.sval = s.rdS a.s) ∧
      ∃ t, exec o.2 s = .next t ∧ QueuedMx (s.core s.coreNo) (t.core s.coreNo) c ∧
        t.me = { s.me with rowsAt := none, rowsRead := [] } ∧ (∀ n, n ≠ s.act → t.ctx n = s.ctx n) ∧
        (∀ k, k ≠ s.coreNo → t.core k = s.core k) ∧ t.dev = { s.dev with mxIds := s.dev.mxIds + 1 } ∧
        t = { s with dev := t.dev, ctxs := t.ctxs, cores := t.cores } ∧ ∀ x, t.byte x = s.byte x

/-- R142, R184, R340, R343: what keeps a matrix command back: a product of operands in one bank group traps BANKCONF with both rows; a store
that another task owns traps ACCUSE; a full queue only holds the bundle. R184: a task's first matrix command claims an unowned accumulator store: every tile reads +0 and OWNED and the task are recorded. R349, R350: the tile results of the commands that need no operand rows from memory: the rows of tile T, from the rows of T and of
U, element by element. -/
def Obligations.MatrixRefusals : Prop :=
  (∀ (s : State) (a : XArgs),
     (a.ga = false → a.gb = false →
       (meets (bankGroups a.arow.toNat (aRows a)) (bankGroups a.brow.toNat (bRows 1 a)) = true →
         TrapsAt s (.tmul a) 0x07 (a.arow.toNat + 2 ^ 16 * a.brow.toNat)) ∧
       (meets (bankGroups a.arow.toNat (aRows a)) (bankGroups a.brow.toNat (bRows 2 a)) = true →
         metaRow (s.mxCmd 2 a none) % 2 = 0 → TrapsAt s (.tmuls a) 0x07 (a.arow.toNat + 2 ^ 16 * a.brow.toNat)) ∧
       (∀ t : TaskRun, s.hidden = false → s.me.task = some t → bit (s.core s.coreNo).accown 63 = true →
         fld (s.core s.coreNo).accown 0 48 ≠ t.serial % 2 ^ 48 → ∀ o ∈ mxOps a, 3 ≤ o.1 →
           TrapsAt s o.2 0x08 (s.accuseTval (s.mxCmd o.1 a none)))) ∧
     ∀ o ∈ mxOps a, s.mxTrap o.2 (s.mxCmd o.1 a none) = none → s.mxFull (s.mxCmd o.1 a none) = true → NoEffect s o.2) ∧
  (∀ (s : State) (n : Nat) (t : TaskRun), (s.ctx n).task = some t → bit (s.core (n / 4)).accown 63 = false →
     let u := s.claimFor n
     let k := u.core (n / 4)
     k = { s.core (n / 4) with acc := [], accPoison := 0, accdirty := 0, accown := k.accown } ∧ bit k.accown 63 = true ∧
       bit k.accown 62 = false ∧ fld k.accown 0 48 = t.serial % 2 ^ 48 ∧ fld k.accown 48 2 = n % 4 ∧
       (∀ r, k.acc.get 0 r = 0) ∧ (∀ m, m ≠ n / 4 → u.core m = s.core m) ∧ u = { s with cores := u.cores }) ∧
  (∀ (w : WinEnt),
     let el := fun (rows : List Row) (i j : Nat) => lane (rows.getD i 0) j
     let gives := fun (f : Nat → Nat → Nat) =>
       (mxOut w).sp = [] ∧ (mxOut w).regs = [] ∧ ((mxOut w).tile.map (·.1)) = List.range 32 ∧
         ∀ r ∈ (mxOut w).tile, ∀ j, j < 32 → lane r.2 j = f r.1 j % 2 ^ 32
     (w.c.op = 3 → gives fun _ _ => 0) ∧ (w.c.op = 8 → gives fun i j => add32 (el w.accIn i j) (el w.arows i j)) ∧
     (w.c.op = 13 → gives fun i j => el w.arows j i) ∧ (w.c.op = 15 → gives fun i j => el w.arows i j) ∧
     (w.c.op = 7 → w.c.a.acc = false → gives fun i j => el w.arows i j))

/-- R143, R341, R348: a free engine starts the head of Q0 when its operands are present: it leaves its queue and runs. A busy or a suspect engine, and one whose core's stepped context is stopped (R189), starts nothing. R341, R215: a matrix command of its own core that completes frees the engine, writes its tile's rows and marks the tile dirty, and enters
the engine's window; with no result rows for the scratchpad no byte of memory changes; an adjoint command, whose rows its walk writes, frees the engine and enters the window. -/
def Obligations.MatrixRuns : Prop :=
  (∀ (s : State) (c : MxCmd) (rest : List MxCmd),
     let n := s.unit
     ((s.core n).suspect = true ∨ (s.core n).eng ≠ none ∨ s.stepHeld n = true → NoEffect s .matrixCommandStart) ∧
     ((s.core n).suspect = false → (s.core n).eng = none → s.stepHeld n = false → (s.core n).q0 = c :: rest → c.home = n → c.op ≠ 0 →
       (∀ x ∈ (s.core n).q0 ++ (s.core n).q1, fetchTotal x = 0) → s.mxPresent n c = true →
       ∃ t w, exec .matrixCommandStart s = .next t ∧ (t.core n).eng = some w ∧ w.c = c ∧ (t.core n).q0 = rest ∧
         (t.core n).q1 = (s.core n).q1 ∧ (∀ m, m ≠ n → t.core m = s.core m))) ∧
  (∀ (s : State) (w : WinEnt),
     let n := s.unit
     let o := mxOut w
     (s.stepHeld n = true → NoEffect s .matrixCommandComplete) ∧
     ((s.core n).eng = some w → s.stepHeld n = false → w.c.op = 16 → ∃ t, exec .matrixCommandComplete s = .next t ∧
       t = { s with cores := t.cores } ∧ (t.core n).eng = none ∧ (t.core n).window = (w :: (s.core n).window).take 4 ∧
       (∀ m, t.core m = { s.core m with eng := (t.core m).eng, window := (t.core m).window, guarded := (t.core m).guarded }) ∧
       ∀ m, m ≠ n → (t.core m).eng = (s.core m).eng ∧ (t.core m).window = (s.core m).window) ∧
     ((s.core n).eng = some w → s.stepHeld n = false → w.c.op ≠ 0 → w.c.op ≠ 16 → w.c.home = n → w.poison = none → o.sp = [] → o.regs = [] →
       o.sat = false →
       ∃ t, exec .matrixCommandComplete s = .next t ∧ (t.core n).eng = none ∧
         (t.core n).acc = o.tile.foldl (fun m r => m.put (32 * w.c.a.tile.toNat + r.1) r.2) (s.core n).acc ∧
         (o.tile ≠ [] → bit (t.core n).accdirty w.c.a.tile.toNat = true) ∧
         ((t.core n).window.head?).map (·.c) = some w.c ∧ (t.core n).window.length ≤ 4 ∧
         (∀ x, t.byte x = s.byte x) ∧ ∀ m, t.ctx m = s.ctx m))

/-- R145, R214, R216, R353: known-answer tiles enter a queue like a command; the guarded records of an engine that has started nothing for
64 cycles are released; a migrated result lands in its home tile; a product whose engine is busy goes to a neighbour that takes it. -/
def Obligations.MatrixGuardAndMigration : Prop :=
  ∀ (s : State) (pattern : BitVec 4) (seed : BitVec 16) (crc : W32),
    let c := s.mxCmd 0 noXArgs (some (pattern.toNat, seed.toNat, crc.toNat))
    (s.mxFull c = false → ∃ t, exec (.kat pattern seed crc) s = .next t ∧ QueuedMx (s.core s.coreNo) (t.core s.coreNo) c ∧
      (∀ k, k ≠ s.coreNo → t.core k = s.core k) ∧ t = { s with dev := { s.dev with mxIds := s.dev.mxIds + 1 }, cores := t.cores }) ∧
    (s.mxFull c = true → NoEffect s (.kat pattern seed crc)) ∧
    ((s.core s.unit).eng = none → (s.core s.unit).started + 64 ≤ s.cyc (4 * s.unit) → ∃ t, exec .guardRelease s = .next t ∧
      t = { s with cores := t.cores } ∧ ∀ k, t.core k = { s.core k with guarded := (s.core k).guarded.filter fun g => g.2 != s.unit }) ∧
    ((s.core s.unit).eng ≠ none ∨ s.cyc (4 * s.unit) < (s.core s.unit).started + 64 → NoEffect s .guardRelease) ∧
    (∀ w rest, (s.core s.unit).back = w :: rest → s.stepHeld s.unit = false → w.c.home = s.unit → w.poison = none → (mxOut w).sp = [] → (mxOut w).regs = [] →
      (mxOut w).sat = false → ∃ t, exec .migratedResultReturn s = .next t ∧ (t.core s.unit).back = rest ∧
        (t.core s.unit).acc = (mxOut w).tile.foldl (fun m r => m.put (32 * w.c.a.tile.toNat + r.1) r.2) (s.core s.unit).acc ∧
        ∀ x, t.byte x = s.byte x) ∧
    ∀ core m x rest, (s.core core).q0 = x :: rest → (x.op = 1 ∨ x.op = 2) → x.a.m = true → x.a.acc = false → x.home = core →
      bit (s.core core).migcfg 0 = true → (s.core core).out.length + (s.core core).back.length < fld (s.core core).migcfg 8 4 →
      (s.core core).eng ≠ none → s.stepHeld core = false → s.mxPresent core x = true → (neighbours core).find? s.takesMigrants = some m →
      ∃ t y, exec (.migrate core false) s = .next t ∧ (t.core core).q0 = rest ∧ (t.core core).out.length = (s.core core).out.length + 1 ∧
        (t.core m).q0 = [y] ∧ y.id = x.id ∧ y.home = core ∧ y.op = x.op ∧ y.a = x.a

namespace Sys2Proof.Claims

/-- The EC opcodes with their instructions (R269). -/
def ecOps (a : EArgs) : List (Nat × Instr) :=
  [(0x01, .copy a), (0x02, .offl a), (0x03, .onld a), (0x04, .pub a), (0x05, .post a), (0x06, .xchg a), (0x07, .esend a),
   (0x08, .dictld a), (0x09, .unpick a), (0x0A, .ckpt a), (0x0B, .drain a), (0x0C, .treeMake a), (0x0D, .treeFree a),
   (0x0E, .treeFreeze a), (0x0F, .treeSave a), (0x10, .treeLoad a), (0x11, .treeEdit a), (0x12, .treeThaw a), (0x13, .treeQuery a),
   (0x14, .wplan a), (0x15, .etab a)]

end Sys2Proof.Claims

/-- R76, R146, R269, R355, R358: an engine command takes a place in its context's engine queue, with the row it names, its task and the extents of
the task; a priority collective whose context's stores have performed goes to the core's FIFO of priority collectives instead; a privileged command
outside a handler traps PRIV, and with 16 commands queued, or 4 in the FIFO for a priority collective, the bundle is held. -/
def Obligations.EngineIssue : Prop :=
  ∀ (s : State) (a : EArgs), ∀ o ∈ ecOps a,
    let priv := o.1 ∈ [0x0C, 0x0D, 0x0F, 0x10, 0x14, 0x15]
    let e := s.ecCmd o.1 a
    ((priv → s.hidden = true) → s.me.eq.length < 16 → (s.isPrio e = true → (s.core s.coreNo).prio.length < 4) →
      ∃ t c, exec o.2 s = .next t ∧ t.dev = { s.dev with mxIds := s.dev.mxIds + 1 } ∧
        (s.isPrio e = false ∨ s.storesUpTo c.ctx c.ops c.iss = true →
          CtxOnly { s with dev := t.dev } t s.act { s.me with eq := s.me.eq ++ [c] }) ∧
        (s.isPrio e = true → s.storesUpTo c.ctx c.ops c.iss = false → t = { s with dev := t.dev, cores := t.cores } ∧
          t.core s.coreNo = { s.core s.coreNo with prio := (s.core s.coreNo).prio ++ [c] } ∧ ∀ m, m ≠ s.coreNo → t.core m = s.core m) ∧
        c.op = o.1 ∧ c.ops = s.me.ops ∧ c.iss = s.clk ∧ c.id = s.dev.mxIds ∧ c.a = a ∧ c.row = ((s.rdS a.n).toNat + a.off.toNat) % 32768 ∧ c.ctx = s.act ∧ c.ext = s.tgt.ext ∧
        (∀ t, s.tgt.task = some t → c.serial = t.serial ∧ c.part = t.part ∧ c.cmd = t.cmd) ∧
        c.seg = (!s.hidden && s.me.snap.isSome)) ∧
    (priv → s.hidden = false → TrapsAt s o.2 0x03 (slotTval o.2)) ∧
    ((priv → s.hidden = true) → 16 ≤ s.me.eq.length ∨ (s.isPrio e = true ∧ 4 ≤ (s.core s.coreNo).prio.length) → NoEffect s o.2)

/-- R146, R164: an idle copy or offload engine of a live core takes the head that its rotation finds, one whose context's earlier stores have
performed; the core of a dead map bit accepts nothing. R357: an engine command that has its status, and no row it wrote unacknowledged, ends: the status record is written in its
command row, then its flag is set in the task that lives; the engine is free. R94, R165, R167: a publish happens exactly once: a publish already recorded for its launch and number writes nothing; a first one writes the
mapping row with the new side, its number and the launch's sequence number, and counts a swap when the side changes. -/
def Obligations.EngineLifetime : Prop :=
  (∀ (s : State) (core key : Nat) (e : Eng) (c : EngCmd) (rest : List EngCmd),
     (s.map.cores.getLsbD core = false → NoEffect s (.engineAccept core e)) ∧
     (s.map.cores.getLsbD core = true → (e = .copy ∨ e = .offload) → (s.core core).engine e = none →
       s.pickHead core e = some (key, c) → (s.ctx key).engs = c :: rest →
       s.storesUpTo key c.ops c.iss = false ∧ ∃ t r, exec (.engineAccept core e) s = .next t ∧ (t.core core).engine e = some r ∧ r.c = c ∧
         (t.ctx key).engs = rest.filter (fun d => d.id != c.id) ∧ ∀ n, n ≠ key → n ≠ c.ctx → t.ctx n = s.ctx n)) ∧
  (∀ (s : State) (core n st : Nat) (e : Eng) (r : RunCmd), s.wf → core < 512 →
     (s.core core).engine e = some r → s.engOut core e = false → s.haltedCmd r.c = false → r.status = some st →
     (r.c.op = 0x0E → st = 0 → s.treeQuiet (treePart r) (treeHandle r) = true) →
     r.c.ctx < 2048 → holderOf r.c.serial s.ctxs = some n → s.groups.any (fun g => g.2.cmd == r.c.cmd) = true →
     s.isPoison (spAddr core r.c.row) = false →
     ∃ t, exec (.engineCommandComplete core e) s = .next t ∧ (t.core core).engine e = none ∧
       t.bytes (spAddr core r.c.row) 16 = statusRec st r.count s.now ∧
       (∀ a, (a < spAddr core r.c.row ∨ spAddr core r.c.row + 16 ≤ a) → t.byte a = s.byte a) ∧
       (r.c.a.flag ≠ 15 → (t.ctx n).f.getLsbD r.c.a.flag.toNat = true) ∧ ∀ m, m ≠ n → t.ctx m = s.ctx m) ∧
  (∀ (s : State) (core : Nat) (c : EngCmd) (x : W64) (row : Row) (h n : Nat),
     let seq := match s.cmds.find c.cmd with | some d => enSEQ d.entry | none => 0
     (s.pubDone c.cmd n = true → (mpSeq row ≠ seq ∨ mpPubno row ≠ n) → s.doPub core c x row [] h n = (s, 0)) ∧
     (s.pubDone c.cmd n = false → (mpSeq row ≠ seq ∨ mpPubno row ≠ n) → s.wf → c.seg = false → s.mine (devOf x) = true → h < 2 → n < 255 →
       homeOf (localOf x) = .sp core → s.jCount = 0 →
       ∃ new : Row, (s.doPub core c x row [] h n).1.rawRow (localOf x) = new ∧ (s.doPub core c x row [] h n).2 = 1 ∧
         mpSeq new = seq ∧ mpVis new = h ∧ mpPubno new = n ∧ mpRows new = mpRows row ∧
         mpSwaps new = (if mpVis row = h then mpSwaps row else (mpSwaps row + 1) % 2 ^ 64)))

/-- R68, R77: a chunk of a COPY moves the transfer's rows, every source row read before the first is written, and the walk goes on to the next
index vector. -/
def Obligations.CopyChunk : Prop :=
  ∀ (s : State) (r : RunCmd) (n : Nest) (xs ys : List W64),
    let core := s.unit
    let l := r.lnr
    let sp := fun x : W64 => devOf x = s.dev.devid.toNat ∧ homeOf (localOf x) = .sp core
    s.arg = 1 → (s.core core).copyE = some r → r.c.op = 1 → r.status = none → s.haltedCmd r.c = false → r.nest = some n →
    n.await = none → n.done = false → r.prog = 0 → lnPub l = false → lnDspace l ≠ 3 → lnBytes l / 128 ≤ 32 →
    bit (s.reg 0x301) 63 = false →
    s.engSpan core r.ext (lnSspace l) (lnSext l) false (walkSrc l n) (lnBytes l / 128) = .ok xs →
    s.engSpan core r.ext (lnDspace l) (lnDext l) true (walkDst l n) (lnBytes l / 128) = .ok ys →
    (∀ x ∈ xs, sp x ∧ s.isPoison (localOf x) = false) → (∀ y ∈ ys, sp y) →
    ∃ t, exec .chunkBoundary s = .next t ∧
      (t.core core).copyE = some { r with count := r.count + 1, nest := some (nestNext n), paused := false, prog := 0 } ∧
      (let u := (ys.zip (xs.map fun x => s.rawRow (localOf x))).foldl (fun (u : State) p => u.storeMem (localOf p.1) p.2 fullMask false) s
      t.mem = u.mem ∧ t.poison = u.poison) ∧ ∀ m, t.ctx m = s.ctx m

/-- R69, R278: a loop that waits for a LIVE bound reads the low 32 bits of the sync word at the level's address; of an absent word the bound is 0 and
the read is recorded; with no loop waiting nothing happens. The bound stands in the loop from the cycle in which a load of the word would arrive (the
model's choice, log 129); it is limited by BOUND, and 0 makes the run empty. -/
def Obligations.LiveBound : Prop :=
  ∀ (s : State) (l : LoopSt) (k : Nat),
    let a := l.nest.liveAddr.getD k 0
    ((s.ctx s.unit).lp = none → NoEffect s .liveBoundRead) ∧
    ((s.ctx s.unit).lp = some l → l.nest.await = none → NoEffect s .liveBoundRead) ∧
    ((s.ctx s.unit).lp = some l → l.live ≠ none → NoEffect s .liveBoundRead) ∧
    ((s.ctx s.unit).lp = some l → l.nest.await = some k → l.live = none → devOf a = s.dev.devid.toNat →
      let at' := s.cyc s.unit + s.arrivalTime (s.unit / 4) (localOf a)
      (s.syPresent (localOf a) = true → ∃ t, exec .liveBoundRead s = .next t ∧
        CtxOnly s t s.unit { s.ctx s.unit with lp := some { l with live := some (at', (s.syWord (localOf a)).val.toNat % 2 ^ 32) } }) ∧
      (s.syPresent (localOf a) = false → ∃ t, exec .liveBoundRead s = .next t ∧ t.ctx s.unit =
          { s.ctx s.unit with lp := some { l with live := some (at', 0) } } ∧ (∀ m, m ≠ s.unit → t.ctx m = s.ctx m) ∧
        t.regs = (s.syRefuse (localOf a)).regs ∧ t.mem = (s.syRefuse (localOf a)).mem)) ∧
    (∀ (c : Ctx) (now at' v : Nat), c.lp = some l → l.nest.await = some k → l.live = some (at', v) →
      (now < at' → c.liveGot now = c) ∧
      (at' ≤ now → ∃ m, c.liveGot now = { c with lp := some { l with nest := m, live := none } } ∧
        (min v (l.nest.bound.getD k 0) ≠ 0 → m.await = none ∨ ∃ j, j < k ∧ m.await = some j) ∧
        (min v (l.nest.bound.getD k 0) = 0 → m = nestUp { l.nest with await := none, run := l.nest.run.set k 0 } 7 (k + 1)) ∧
        (min v (l.nest.bound.getD k 0) ≠ 0 → k < l.nest.run.length → m.run.getD k 0 = min v (l.nest.bound.getD k 0) ∧ m.done = l.nest.done)))

/-- R66, R68: a loop nest whose bounds are positive and of which no level is LIVE runs its innermost index first: each pass advances the index
vector, read as a number in the mixed radix of the bounds, by one, and the pass after the last one ends it. -/
def Obligations.LoopNestOrder : Prop :=
  ∀ (n : Nest) (b : Nat → Nat),
    (∀ l, l < n.levels → n.run[l]? = some (b l) ∧ n.bound[l]? = some (b l) ∧ n.live[l]? = some false ∧ ∃ i, n.idx[l]? = some i ∧ i < b l) →
    n.levels ≤ 6 → n.done = false → n.await = none →
    let size := fun k => (List.range k).foldl (fun p l => p * b l) 1
    let pos := fun m : Nest => ((List.range n.levels).map fun l => m.idx.getD l 0 * size l).sum
    if pos n + 1 < size n.levels then
      (nestNext n).done = false ∧ pos (nestNext n) = pos n + 1 ∧ (nestNext n).run = n.run ∧ (nestNext n).levels = n.levels
    else (nestNext n).done = true

/-- R235, R236, R240 to R246, R251: bundles whose parcels the spec works out read as the instructions it worked them out from. -/
def Obligations.WorkedBundlesDecode : Prop :=
  decodeBundle [0x0000A00A, 0x01014503, 0x580A0C04, 0x001A0300, 0x08005081, 0x00000004] =
      some [.addi ⟨.p0, ⟨3, false⟩, 5, 5, 16⟩, .vfma ⟨.p0, ⟨3, false⟩, 0, 13, 12, 11, 10, false⟩, .ldr ⟨⟨0, false⟩, 0, 0, 16, 8, 0, 20, 2⟩] ∧
  decodeBundle [0x00000001, 0xFFFFF201] = some [.br (-14)] ∧ decodeBundle [0x00000001, 0x01004008] = some [.loop 0 1 0x40] ∧
  decodeBundle [0x00000001, 0x01114018] = some [.csrw 0 0x445] ∧ decodeBundle [0x00000001, 0x00011115] = some [.trap 0x11 1] ∧
  decodeBundle [0x00000002, 0xFFD11222, 0, 0] = some [.cmplti ⟨.p0, ⟨0, false⟩, 0x12, 4, -3⟩, .vnop .p0 ⟨0, false⟩] ∧
  decodeBundle [0x00000040, 0x04019145, 0x00040004] = some [.qld ⟨⟨0, false⟩, 0, 1, 0x10, 4, 0, 100, 5⟩] ∧
  decodeBundle [0x00000080, 0x00028441, 0x00004000] = some [.tmul ⟨0, 0, false, false, false, 0, 0x2000, 0, true, 2, 1, 1⟩] ∧
  decodeBundle [0x00000200, 0x90003105] = some [.post ⟨true, 2, 3, 4⟩] ∧ decodeBundle [0x00000200, 0x08000189] = some [.unpick ⟨false, 1, 0, 6⟩] ∧
  decodeBundle [0x00000200, 0x78040014] = some [.wplan ⟨false, 15, 0x40, 0⟩] ∧
  decodeBundle [0x00000200, 0x0806000F] = some [.treeSave ⟨false, 1, 0x60, 0⟩]

/-- R235 to R246: decoding inverts encoding. The bundle of one well-formed instruction decodes to that instruction with every operand, beside
nothing but the empty half of a pair slot; read as one number, its first instruction that is no filler is that instruction. -/
def Obligations.DecodeEncode : Prop :=
  ∀ (i : Instr) (ps : List W32), i.wf = true → encode i = some ps →
    (∃ is, decodeBundle ps = some is ∧ i ∈ is ∧ ∀ j ∈ is, j = i ∨ j.isFiller = true) ∧
    (i.isFiller = false → decodeTableWord (32 * ps.length) (joinParcels ps) = some i)

/-- The machine right after reset is well formed: both its memories (the device's and the host's) are in their canonical form. -/
def Obligations.ResetWellFormed : Prop := State.wf State.reset

/-- Every step keeps the form of the state: the device's memory and the host's memory stay lists of cells whose addresses rise strictly and
none of which holds what an unlisted address reads as, so that equal memories are equal data. -/
def Obligations.StepKeepsForm : Prop :=
  ∀ s t : State, s.wf → step s = .next t → t.wf

/-- R126, R131, R231, R233, R238, R239 (log 1, log 51): a step is the next turn. An event turn runs that event's meaning. On the turn of a core whose lead is
ready and alone, the lead's head bundle issues: the instructions of its slots run in MASK order, then those of its control slot, then the
context's tick. The head bundle of an empty fetch queue is what stands at PC: a literal's parcels or the dictionary entry, and its
instructions are those its parcels decode to. -/
def Obligations.StepRunsBundle : Prop :=
  (∀ (s : State) (u a : Nat) (i : Instr) (rest : List Turn), isSlotOp i = false →
    (s.pend = .event u a i :: rest → step s = exec i { s with pend := rest, unit := u, arg := a }) ∧
    (s.pend = [] → s.agenda = .event u a i :: rest → step s = exec i { s with agenda := rest, unit := u, arg := a })) ∧
  (∀ (i : Instr) (s : State), runAll [i] s = exec i s) ∧
  (∀ (s : State) (k n : Nat), s.pend = [] → s.agenda = [] → s.activeFrom s.turn = some k →
    let q := ({ s with turn := k + 1 }.stopTarget k).countDown k
    let p := (q.order k).foldl State.prepare q
    let u := { p with cur := n }
    let e := u.head n
    (q.core k).run = none → (p.core k).run = none → p.order k = [n] → n / 4 = k → (p.core k).lead % 4 = n % 4 → (p.ctx n).halted = false →
    (u.ctx n).hold.open = true → u.stands n = none → u.rowsLate n = false → e.poison = none → e.bad = none → u.bundleTrap e.slots = none →
    bit (u.reg 0x301) 63 = false → e.mask ≠ 0 →
    ∀ t1 t2 : State, runAll (instrsOf (e.slots.filter (·.bit != 0))) (u.beginBundle n e) = .next t1 →
      runAll (instrsOf (e.slots.filter (·.bit == 0))) (t1.afterSlots n (u.ctx n).lp.isSome) = .next t2 →
      let t := t2.tick n
      (t.ctx n).halted = false → landCount (t.ctx n).land ≤ u.landCap →
      step s = .next (if (t.core k).run.isSome then t else t.modCore k fun c => { c with lead := n % 4 })) ∧
  (∀ (e : FetchEnt) (is : List Instr), decodeBundle e.parcels = some is → (e.parcels.headD 0).toNat % 2 ^ 12 ≠ 0 → e.instrs = is) ∧
  ∀ (s : State) (key : Nat), (s.ctx key).lp = none → (s.ctx key).fq = [] →
    let a := (s.ctx key).pc.toNat
    let e := s.head key
    let w := s.codeWord a
    let hdr := s.codeWord (a + 1) + s.codeWord (a + 2) * 2 ^ 16
    let n := 1 + slotParcels (hdr % 2 ^ 11)
    (w = 0xFFFF → hdrOk hdr = true → e.bad = none ∧ e.next = BitVec.ofNat 48 (a + 1 + 2 * n) ∧ e.parcels.length = n ∧
      ∀ k, k < n → e.parcels[k]? = some (BitVec.ofNat 32 (s.codeWord (a + 1 + 2 * k) + s.codeWord (a + 2 + 2 * k) * 2 ^ 16))) ∧
    (key < 2048 → (s.ctx key).owed = 0 → w < 0xFFFE → w < fld (s.ctx key).csr.dictl 0 15 → fld (s.ctx key).csr.dictb 0 14 + w < Config.dictEntries →
      e.bad = none ∧ e.next = BitVec.ofNat 48 (a + 1) ∧
      e.parcels = parcelsOf ((s.core (key / 4)).dict.get 0 (fld (s.ctx key).csr.dictb 0 14 + w)).toNat 12)

namespace Sys2Proof.Claims

/-- Plain memory that is there: a row of a stack, of a second-tier channel, of a scratchpad or of a panel store, on a live unit. -/
def Plain (s : State) (a : Nat) : Prop :=
  s.lost a = false ∧ (homeOf a).array ∈ [6, 7, 10, 11]

/-- Every byte of row `a` takes its value from `row`; every other byte of memory stays. -/
def RowIs (s t : State) (a : Nat) (row : Row) : Prop :=
  ∀ b, t.byte b = if rowBase a ≤ b ∧ b < rowBase a + 128 then row.extractLsb' (8 * (b - rowBase a)) 8 else s.byte b

/-- A flit that the device takes from a receive slot without a tag (R35, R38): the slot is locked, the KIND fits the virtual channel,
ROWS is not 3, neither C nor I is set, integrity is off for the channel and the trailer holds the CRC. -/
def Heard (s : State) (rx : Nat) (f : Flit) : Prop :=
  (s.rx rx).locked = true ∧ kindOk f.kind.toNat f.vc.toNat = true ∧ f.rows ≠ 3 ∧ f.c = false ∧ f.i = false ∧
    s.integ f.vc.toNat = false ∧ f.trailer.toNat = flitCrc f

/-- The word at `a` can be read and written: no armed error names it, and where it is an overflow word its row holds no poison. -/
def SyncSound (s : State) (a : Nat) : Prop :=
  s.wf ∧ bit (s.reg 0x301) 63 = false ∧ (syOver (syKey a) = true → s.isPoison (s.ovAddr (syKey a)) = false)

/-- From `s` to `t` the sync word at `a` becomes `w`, and nothing else changes: its kind and value in the SRAM, or, for an overflow word, its hidden
kind there and its eight bytes in the die's overflow area (R105, R107). -/
def SyncIs (s t : State) (a : Nat) (w : SyncWord) : Prop :=
  t.syWord a = w ∧ (syOver (syKey a) = false → t = { s with sync := s.sync.put (syKey a) w }) ∧
    (syOver (syKey a) = true → t = { s with sync := s.sync.put (syKey a) ⟨w.kind, 0⟩, mem := t.mem } ∧
      ∀ b, (b < s.ovAddr (syKey a) ∨ s.ovAddr (syKey a) + 8 ≤ b) → t.byte b = s.byte b)

/-- The operation completes, and one sync word changes. -/
def SyncPut (s : State) (i : Instr) (a : Nat) (w : SyncWord) : Prop := ∃ t, exec i s = .next t ∧ SyncIs s t a w

/-- A flit that is taken where it stands: it has come over bridges to its home die (a slot number from 256 on), or it is heard at a slot whose die is
its home, or from which no live path leads there (R29). -/
def Taken (s : State) (rx : Nat) (f : Flit) : Prop := 256 ≤ rx ∨ (Heard s rx f ∧ s.hopFrom (slotDie rx) (flitHome f) = none)

end Sys2Proof.Claims

/-- R138, R140, R152, R209: a masked store writes exactly the enabled bits of its row. A partial store leaves a poisoned row as it is, a full one
makes it clean, a poisoned one leaves the bytes and poisons the row. R138, R140: of the timed accesses that are due the
reads perform at the start of a cycle and the writes at its end, so that a read sees the row as it was. -/
def Obligations.RowStores : Prop :=
  (∀ (s : State) (a : Nat) (data mask : Row), s.wf →
    let t := s.storeMem a data mask false
    let u := s.storeMem a data mask true
    t.wf ∧ t = { s with mem := t.mem, poison := t.poison } ∧ (∀ b, rowBase b ≠ rowBase a → t.isPoison b = s.isPoison b) ∧
    (s.isPoison a = false ∨ mask = fullMask → ∀ b k : Nat, k < 8 → (t.byte b).getLsbD k =
      if rowBase a ≤ b ∧ b < rowBase a + 128 ∧ mask.getLsbD (8 * (b - rowBase a) + k) = true then data.getLsbD (8 * (b - rowBase a) + k)
      else (s.byte b).getLsbD k) ∧
    (s.isPoison a = true → mask ≠ fullMask → t = s) ∧ (mask = fullMask → t.isPoison a = false) ∧
    (mask ≠ 0 → u.mem = s.mem ∧ u.isPoison a = true)) ∧
  ∀ (s : State) (r w : TAcc) (held : TAcc → Bool), r.store = false → w.store = true → s.timed = [r, w] ∨ s.timed = [w, r] →
    r.due ≤ s.cyc r.ctx → w.due ≤ s.cyc w.ctx → s.ticks (dieOfCtx w.ctx) = true → held r = false → held w = false →
    r.op ≠ 0 → bit (s.reg 0x301) 63 = false → s.isPoison (tAddr r) = false →
    let u := s.performReads held
    let t := u.performWrites held
    u.timed = [w] ∧ u.mem = s.mem ∧ u.poison = s.poison ∧ t.timed = [] ∧ t = { u with mem := t.mem, poison := t.poison, timed := [] } ∧
    t.mem = (s.storeMem (tAddr w) w.data w.mask w.poison).mem ∧ t.poison = (s.storeMem (tAddr w) w.data w.mask w.poison).poison ∧
    ∀ (k : Nat) (e : LandEntry), (s.ctx r.ctx).land[k]? = some e → e.op = r.op → e.sub = r.idx → e.got = false → e.kind = .row →
      ∃ e', (t.ctx r.ctx).land[k]? = some e' ∧ e' = { e with data := s.rawRow (tAddr r), poison := none, got := true, arr := e'.arr }

/-- R131, R134, R172, R199: results land. A result that is due and there writes the masked bits of its register and ORs its flags into FPSTAT;
one that has not arrived freezes the context; the data of a load arrives. -/
def Obligations.ResultsLand : Prop :=
  (∀ (s : State) (e : LandEntry), s.unit < 2048 → (s.ctx s.unit).land = [e] → e.tick ≤ (s.ctx s.unit).schc → bit (s.reg 0x301) 63 = false →
    (s.frozenLand s.unit = true → (s.ctx s.unit).poisoned = none → NoEffect s .resultLanding) ∧
    (s.frozenLand s.unit = false → e.gone = none → e.poison = none → (s.ctx s.unit).poisoned = none →
      e.flags.toNat &&& fld (s.ctx s.unit).csr.fpmode 8 5 = 0 → ∃ t c, exec .resultLanding s = .next t ∧ CtxOnly s t s.unit c ∧
        ((∀ x, (s.ctx s.unit).hold ≠ .ending x) → c.poisonRegs = (s.ctx s.unit).poisonRegs) ∧
        c = { s.ctx s.unit with land := [], s := c.s, g := c.g, v := c.v, k := c.k, fpAt := c.fpAt, poisonRegs := c.poisonRegs, csr := { (s.ctx s.unit).csr with
          fpstat := (s.ctx s.unit).csr.fpstat ||| e.flags.zeroExtend 64 } } ∧
        (∀ d, e.kind ≠ .scalar ∨ d ≠ e.dest → c.s.get 0 d = (s.ctx s.unit).s.get 0 d) ∧
        (∀ d, e.kind ≠ .guard ∨ d ≠ e.dest → c.g.get 0 d = (s.ctx s.unit).g.get 0 d) ∧
        (∀ d, e.kind ≠ .scale ∨ d ≠ e.dest → c.k.get 0 d = (s.ctx s.unit).k.get 0 d) ∧
        (∀ d, (e.kind ≠ .vec ∧ e.kind ≠ .row) ∨ d ≠ e.dest → c.v.get 0 d = (s.ctx s.unit).v.get 0 d) ∧
        (e.kind = .scalar → ∀ k : Nat, k < 64 → (c.s.get 0 e.dest).getLsbD k =
          if e.mask.getLsbD k then e.data.getLsbD k else ((s.ctx s.unit).s.get 0 e.dest).getLsbD k) ∧
        (e.kind = .guard → ∀ k : Nat, k < 33 → (c.g.get 0 e.dest).getLsbD k =
          if e.mask.getLsbD k then e.data.getLsbD k else ((s.ctx s.unit).g.get 0 e.dest).getLsbD k) ∧
        (e.kind = .scale → ∀ k : Nat, k < 256 → (c.k.get 0 e.dest).getLsbD k =
          if e.mask.getLsbD k then e.data.getLsbD k else ((s.ctx s.unit).k.get 0 e.dest).getLsbD k) ∧
        (e.kind = .vec ∨ e.kind = .row → ∀ k : Nat, k < 1024 → (c.v.get 0 e.dest).getLsbD k =
          if e.mask.getLsbD k then e.data.getLsbD k else ((s.ctx s.unit).v.get 0 e.dest).getLsbD k))) ∧
  ∀ s : State, ∃ t, exec .loadDataArrival s = .next t ∧ CtxOnly s t s.unit { s.ctx s.unit with land := (t.ctx s.unit).land } ∧
    (t.ctx s.unit).land.length = (s.ctx s.unit).land.length ∧
    ∀ (k : Nat) (e : LandEntry), (s.ctx s.unit).land[k]? = some e →
      (∀ x, e.arr = some x → e.op = s.arg → e.got = true → notYet ≤ x → (t.ctx s.unit).land[k]? = some { e with arr := some (x - notYet) }) ∧
      (e.op ≠ s.arg ∨ e.got = false ∨ e.arr = none → (t.ctx s.unit).land[k]? = some e)

/-- R156, R209, R211, R81: accesses as they perform. A queued access that may not perform stays; a load of this device's memory takes the row
as it stands, a store writes its enabled bits, and each leaves the queue; one to an address that holds no memory stops the machine. A
corrected row is stored back unchanged; the host reads and writes 64 B of stacks and channels, and of other memory only the description area, where a
store lands in the mailbox buffer; R11: in BADIMAGE the device answers none of it. -/
def Obligations.AccessesPerform : Prop :=
  (∀ (s : State) (q : QAcc), s.unit < 4096 → (s.ctx s.unit).q[s.arg]? = some q →
    let a := localOf q.addr
    let left := (s.ctx s.unit).q.filter fun p => !(p.op == q.op && p.idx == q.idx)
    (s.mayPerform s.unit s.arg = false → NoEffect s .queuedAccessPerform) ∧
    (s.mayPerform s.unit s.arg = true → q.ext = false → devOf q.addr = s.dev.devid.toNat →
      (homeOf a = .hole → (∃ d m p, q.what = .st d m p) ∨ q.what = .ld → exec .queuedAccessPerform s = .fault (.absentAddress a)) ∧
      (Plain s a →
        (∀ d m p, q.what = .st d m p → ∃ t, exec .queuedAccessPerform s = .next t ∧
          t = { s with mem := (s.storeMem a d m p).mem, poison := (s.storeMem a d m p).poison, ctxs := t.ctxs } ∧
          t.ctx s.unit = { s.ctx s.unit with q := left } ∧ ∀ n, n ≠ s.unit → t.ctx n = s.ctx n) ∧
        (q.what = .ld → bit (s.reg 0x301) 63 = false → s.isPoison a = false → ∃ t, exec .queuedAccessPerform s = .next t ∧
          CtxOnly s t s.unit { s.ctx s.unit with q := left, land := (t.ctx s.unit).land } ∧
          ∀ (k : Nat) (e : LandEntry), (s.ctx s.unit).land[k]? = some e →
            (e.op = q.op → e.sub = q.idx → e.got = false → e.kind = .row → ∃ e', (t.ctx s.unit).land[k]? = some e' ∧
              e' = { e with data := s.rawRow a, poison := none, got := true, arr := e'.arr }) ∧
            (e.op ≠ q.op ∨ e.sub ≠ q.idx ∨ e.got = true → (t.ctx s.unit).land[k]? = some e))))) ∧
  (∀ s : State, (s.isPoison s.unit = true ∨ s.lost s.unit = true → NoEffect s .correctedWriteback) ∧
    (s.wf → Plain s s.unit → s.isPoison s.unit = false → ∃ t, exec .correctedWriteback s = .next t ∧ t = { s with mem := t.mem } ∧
      ∀ b, t.byte b = s.byte b)) ∧
  ∀ (s : State) (a : Nat) (v : BitVec 512), s.wf → (s.dev.rst = .badImage → ∀ w, NoEffect s (.hostMemoryAccess a w v)) ∧ (s.dev.rst ≠ .badImage →
    (homeOf a = .desc → a < Config.capBase + 65536 → NoEffect s (.hostMemoryAccess a false v) ∧
      (0xC000 ≤ a - Config.capBase → a - Config.capBase < 0xD000 → ∃ t, exec (.hostMemoryAccess a true v) s = .next t ∧ t = { s with mem := t.mem } ∧
        ∀ b, t.byte b = if a / 64 * 64 ≤ b ∧ b < a / 64 * 64 + 64 then v.extractLsb' (8 * (b - a / 64 * 64)) 8 else s.byte b)) ∧
    ((homeOf a).array = 10 ∨ (homeOf a).array = 11 → s.lost a = false → s.isPoison a = false → bit (s.reg 0x301) 63 = false →
      NoEffect s (.hostMemoryAccess a false v) ∧ ∃ t, exec (.hostMemoryAccess a true v) s = .next t ∧ t = { s with mem := t.mem } ∧
        ∀ b, t.byte b = if a / 64 * 64 ≤ b ∧ b < a / 64 * 64 + 64 then v.extractLsb' (8 * (b - a / 64 * 64)) 8 else s.byte b) ∧
    ((homeOf a).array = 6 ∨ (homeOf a).array = 7 ∨ (homeOf a).array = 8 ∨ homeOf a = .hole → ∀ w, exec (.hostMemoryAccess a w v) s = .fault (.absentAddress a)))

/-- R25, R29, R36, R152, R153, R410: requests of other devices. A flit heard on a fibre of another die than its home's goes over the first bridge toward it; at its
home die WRITE stores its row, or a part of it under its mask (the form of which is the model's, log 26), READ answers with the row on VC3, an ATOMIC DEC of a
plain sync word takes one from it, RESP delivers a row to the load that waits for it; MAPNOTE does nothing but count as accepted; a flit from a slot that is
not locked is not taken. -/
def Obligations.DeviceRequests : Prop :=
  ∀ (s : State) (rx : Nat) (f : Flit),
    let a := localOf f.addr
    let links := fun t : State => t = { s with rxs := t.rxs, txs := t.txs, links := t.links }
    (rx < 256 → (s.rx rx).locked = false → ∀ i ∈ [Instr.write rx f, .read rx f, .atomic rx f, .resp rx f, .mapnote rx f], NoEffect s i) ∧
    (Heard s rx f ∨ 256 ≤ rx → ∃ t, exec (.mapnote rx f) s = .next t ∧ links t) ∧
    (∀ k, rx < 256 → Heard s rx f → s.hopFrom (slotDie rx) (flitHome f) = some k → ∀ i ∈ [Instr.write rx f, .read rx f, .atomic rx f, .resp rx f],
      ∃ t, exec i s = .next t ∧ links t ∧
        (t.links.get LinkQ.reset (linkKey (.bridge (bridgeAt (slotDie rx) k) (slotDie rx / 2 ^ k % 2 == 0)))).q.getLast? = some (f, 256 + flitHome f)) ∧
    (Taken s rx f →
      (homeOf a = .hole → exec (.read rx f) s = .fault (.absentAddress a) ∧ (f.rows ≠ 0 → exec (.write rx f) s = .fault (.absentAddress a))) ∧
      (s.wf → Plain s a → Plain s (rowBase a) → f.rows = 1 → ∃ t, exec (.write rx f) s = .next t ∧ RowIs s t a f.pay0 ∧ t.isPoison a = false ∧
        t = { s with mem := t.mem, poison := t.poison, rxs := t.rxs, txs := t.txs, links := t.links }) ∧
      (s.wf → Plain s a → Plain s (rowBase a) → isPart f = true → s.isPoison a = false → f.pay1 ≠ fullMask → ∃ t, exec (.write rx f) s = .next t ∧
        RowIs s t a ((s.rawRow a &&& ~~~f.pay1) ||| (f.pay0 &&& f.pay1)) ∧
        t = { s with mem := t.mem, rxs := t.rxs, txs := t.txs, links := t.links }) ∧
      (s.wp = none → Plain s a → s.isPoison a = false → bit (s.reg 0x301) 63 = false → ∃ t, exec (.read rx f) s = .next t ∧ links t ∧
        ∀ i : Nat, let r := s.flit 2 3 f.srcCore.toNat f.srcCtx.toNat f.part.toNat f.addr f.word.toNat 1 f.c (s.rawRow a) 0
          s.slotFor (rxDie rx) f.srcDev.toNat r = some i → slotDie i = rxDie rx → (t.tx i).q.getLast? = some r) ∧
      (let w := f.pay0.toNat / 2 ^ 512 % 2 ^ 32
       let y := rowBase a + 8 * (w % 2 ^ 5)
       bitsOf w 5 5 = 12 → bitsOf w 10 1 = 1 → bitsOf w 11 1 = 0 → bitsOf a 52 4 = 15 → s.syPresent y = true → SyncSound s y →
        (s.syWord y).kind = .plain → ∃ t, exec (.atomic rx f) s = .next t ∧
          SyncIs { s with rxs := t.rxs, txs := t.txs, links := t.links } t y ⟨.plain, (s.syWord y).val - 1⟩) ∧
      (∀ n q, s.tagHolder f = some n → n < 4096 → (s.ctx n).q.find? (fun q => (accRow f q).isSome && q.isLoad) = some q → q.what = .ld →
        ∃ t c, exec (.resp rx f) s = .next t ∧
        t = { s with rxs := t.rxs, txs := t.txs, links := t.links, ctxs := t.ctxs } ∧ t.ctx n = c ∧ (∀ m, m ≠ n → t.ctx m = s.ctx m) ∧
        c = { s.ctx n with land := c.land, q := (s.ctx n).q.filter fun p => !(p.op == q.op && p.idx == q.idx) } ∧
        ∀ (k : Nat) (e : LandEntry), (s.ctx n).land[k]? = some e → e.op = q.op → e.sub = q.idx → e.got = false → e.kind = .row →
          c.land[k]? = some { e with data := f.pay0, poison := none, got := true, arr := some (q.iss + 1400 + q.idx) }))

/-- R105, R106, R107, R332: sync words, of the SRAM and of the overflow area. A store through VIEW 0 makes a plain word, DEC counts down by the word's
kind, the last decrement of a bound DEP word fires its entry, which leaves the pool for the scheduler, an arrival counter starts again from its reload value
and takes its action; atomics work on plain words; an absent word changes nothing. -/
def Obligations.SyncWords : Prop :=
  ∀ (s : State) (x v cv : W64), devOf x = s.dev.devid.toNat →
    let a := localOf x
    let w := s.syWord a
    let n := fld w.val 0 32
    (s.syPresent a = false → ∀ i ∈ [Instr.syncStore x v, .syncDec x, .syncAtomic x 0 v cv true], ∃ t, exec i s = .next t ∧ t.sync = s.sync) ∧
    (s.syPresent a = true → SyncSound s a →
      (syView a = 0 → w.kind ≠ .dep → SyncPut s (.syncStore x v) a ⟨.plain, v⟩) ∧
      (syView a = 0 → w.kind = .dep → bit w.val 48 = false → SyncPut s (.syncStore x v) a ⟨.plain, v⟩) ∧
      (syView a = 0 → w.kind = .dep → bit w.val 48 = true → ∃ t, exec (.syncStore x v) s = .next t ∧ t.sync = s.sync) ∧
      (syView a = 2 → w.kind ≠ .dep → SyncPut s (.syncStore x v) a ⟨.arr, v⟩) ∧
      (syView a = 1 → w.kind ≠ .dep → SyncPut s (.syncStore x v) a ⟨.dep, BitVec.ofNat 64 (fld v 0 32)⟩) ∧
      (w.kind = .plain → SyncPut s (.syncDec x) a ⟨.plain, w.val - 1⟩ ∧
        SyncPut s (.syncAtomic x 0 v cv true) a ⟨.plain, w.val + v⟩ ∧ SyncPut s (.syncAtomic x 6 v cv true) a ⟨.plain, w.val &&& v⟩ ∧
        SyncPut s (.syncAtomic x 7 v cv true) a ⟨.plain, w.val ||| v⟩ ∧ SyncPut s (.syncAtomic x 8 v cv true) a ⟨.plain, w.val ^^^ v⟩ ∧
        SyncPut s (.syncAtomic x 9 v cv true) a ⟨.plain, v⟩ ∧
        SyncPut s (.syncAtomic x 10 v cv true) a ⟨.plain, if w.val = cv then v else w.val⟩) ∧
      (w.kind = .dep → 1 < n → ∃ u : W64, SyncPut s (.syncDec x) a ⟨.dep, u⟩ ∧ u.toNat + 1 = w.val.toNat) ∧
      (w.kind = .dep → n = 0 → ∃ u : W64, SyncPut s (.syncDec x) a ⟨.dep, u⟩ ∧ bit u 50 = true ∧ ∀ k : Nat, k ≠ 50 → u.getLsbD k = w.val.getLsbD k) ∧
      (w.kind = .dep → n = 1 → ∃ (t : State) (u : W64), exec (.syncDec x) s = .next t ∧
        SyncIs { s with entries := t.entries, pend := t.pend } t a ⟨.dep, u⟩ ∧
        fld u 0 32 = 0 ∧ bit u 49 = true ∧ bit u 48 = false ∧ fld u 32 16 = fld w.val 32 16 ∧
        (bit w.val 48 = false → t.entries = s.entries ∧ t.pend = s.pend) ∧
        ∀ e, let key := syDie a * 65536 + fld w.val 32 16
          bit w.val 48 = true → s.entries.find key = some e →
          t.entries.find (readyKey e) = some { e with st := .translating, order := maxOrder (s.entries.del key) + 1 } ∧
          ((s.entries.map Prod.fst).Nodup → t.entries.find key = none) ∧ (∀ m, m ≠ key → m ≠ readyKey e → t.entries.find m = s.entries.find m) ∧
          t.pend = s.pend ++ [.event (readyKey e) 0 .translationComplete]) ∧
      (w.kind = .arr → 1 < n → ∃ u : W64, SyncPut s (.syncDec x) a ⟨.arr, u⟩ ∧ u.toNat + 1 = w.val.toNat) ∧
      (w.kind = .arr → n ≤ 1 → ∃ (t : State) (u : W64), exec (.syncDec x) s = .next t ∧ t.syWord a = ⟨.arr, u⟩ ∧ fld u 0 32 = fld w.val 32 32 ∧
        fld u 32 32 = fld w.val 32 32 ∧
        (let act := (s.syAt (syKey a + 1)).val
         fld act 62 2 = 2 → t.pend = s.pend ++ [.event 0 0 (.syncDec (BitVec.ofNat 64 (s.dev.devid.toNat * 2 ^ 58 + fld act 0 58)))])))

/-- R284, R285: rendezvous. An arrival for an epoch that is over is answered at once, one for an epoch that has not come is refused; the first of several is
recorded; the last party's makes the word the next epoch and answers every arrival; an answer lets the waiting context go on, and RDVTO cycles without one,
no fewer, leave it to trap RDVTIMEOUT at its RDV. -/
def Obligations.Rendezvous : Prop :=
  (∀ (s : State) (x : W64) (e : W32) (rank parties n : Nat), devOf x = s.dev.devid.toNat → s.syPresent (localOf x) = true →
    (s.syWord (localOf x)).kind = .plain →
    let a := localOf x
    let v := (s.syWord a).val
    let d := s.die (syDie a)
    let i := Instr.rendezvousArrival x e rank parties n
    (e.toNat < v.toNat → exec i s = .next { s with pend := s.pend ++ [.event n x.toNat .rendezvousAnswer] }) ∧
    (v.toNat = e.toNat → d.rdv = [] → 1 < parties → ∃ t, exec i s = .next t ∧ t = { s with dies := t.dies } ∧
      t.die (syDie a) = { d with rdv := [⟨x, [rank], parties, [n]⟩] } ∧ ∀ m, m ≠ syDie a → t.die m = s.die m) ∧
    (v.toNat = e.toNat → d.rdv = [] → parties ≤ 1 → SyncSound s a → ∃ t, exec i s = .next t ∧
      SyncIs { s with pend := t.pend } t a ⟨.plain, v + 1⟩ ∧ t.pend = s.pend ++ [.event n x.toNat .rendezvousAnswer]) ∧
    (∀ r m, v.toNat = e.toNat → d.rdv = [⟨x, [r], 2, [m]⟩] → d.rdvWait = [] → r ≠ rank → m ≠ n → SyncSound s a → ∃ t, exec i s = .next t ∧
      SyncIs { s with dies := t.dies, pend := t.pend } t a ⟨.plain, v + 1⟩ ∧ t.die (syDie a) = { d with rdv := [] } ∧
      (∀ m, m ≠ syDie a → t.die m = s.die m) ∧
      t.pend = s.pend ++ [.event m x.toNat .rendezvousAnswer, .event n x.toNat .rendezvousAnswer]) ∧
    (v.toNat < e.toNat → n < 2048 → (s.ctx n).task.isSome → ∃ t c, exec i s = .next t ∧ t.ctx n = c ∧ t.sync = s.sync ∧
      c = { s.ctx n with hold := .none, reports := (s.ctx n).reports ++ [⟨0x01, x, 0, none⟩] })) ∧
  ∀ (s : State) (x : W64) (e : W32), (s.ctx s.unit).hold = .rdv x e false →
    (x.toNat = s.arg → ∃ t, exec .rendezvousAnswer s = .next t ∧ CtxOnly s t s.unit { s.ctx s.unit with hold := .rdv x e true }) ∧
    let lim := fld (s.ctx s.unit).csr.rdvto 0 32
    ((s.ctx s.unit).rdvAt = none ∨ lim = 0 → NoEffect s .rdvtimeout) ∧
    ∀ c, (s.ctx s.unit).rdvAt = some c → (s.cyc s.unit < c + lim → NoEffect s .rdvtimeout) ∧
      (lim ≠ 0 → c + lim ≤ s.cyc s.unit → ∃ t, exec .rdvtimeout s = .next t ∧ CtxOnly s t s.unit { s.ctx s.unit with hold := .late x })

/-- R11, R18, R82, R88, R115, R123, R212 to R214 and the register tables: what reset leaves, at the values the spec gives. -/
def Obligations.ResetValues : Prop :=
  let s := State.reset
  s.dev.rst = .image ∧ s.reg 0x304 = 2000 ∧ (∀ c, c < 8 → fld (s.reg 0x311) (5 * c) 5 = 18) ∧ fld (s.reg 0x311) 40 24 = 0 ∧
  fld (s.reg 0x312) 0 16 = 100 ∧ fld (s.reg 0x312) 16 16 = 50 ∧ fld (s.reg 0x312) 32 16 = 50 ∧ s.reg 0x316 = 4 ∧ s.reg 0x333 = 6 ∧
  (∀ n, n ∈ [0x300, 0x301, 0x310, 0x313, 0x314, 0x315, 0x317, 0x318, 0x320, 0x327, 0x328, 0x332, 0x334, 0x335, 0x336, 0x337, 0x338, 0x339, 0x33A] →
    s.reg n = 0) ∧
  (∀ n, (s.ctx n).task = none ∧ (s.ctx n).f = 0 ∧ (s.ctx n).schc = 0 ∧ (s.ctx n).req = false ∧ (s.ctx n).csr.pdl = 262144 ∧
    (s.ctx n).csr.ackver = 0 ∧ (s.ctx n).csr.rrb = 0 ∧ (s.ctx n).csr.fpstat = 0 ∧ (s.ctx n).csr.fpmode = 0 ∧ (s.ctx n).csr.rngsel = 0) ∧
  (∀ k, (s.core k).run = none ∧ (s.core k).katcfg = 3 ∧ (s.core k).errlog = 0) ∧
  (∀ q, s.hq q = ⟨0, 0, 0, 0, 0, 0x600, 0, 0, (s.hq q).tail⟩) ∧ ∀ a, (s.syWord a).val = 0

/-- R18, R109, R110, R122, R170 to R172: what the device does to a context between bundles. A report traps while no handler runs; the grace
timer reports RMSTALE; a drained task leaves its context and its group; the watchdog asks, kills, and fences what the kill has not freed; with REQMS 0 it does nothing. -/
def Obligations.TaskEvents : Prop :=
  ∀ s : State, s.unit < 2048 →
    let n := s.unit
    let c := s.ctx n
    ((s.core (n / 4)).run.isSome = true ∨ c.task = none → NoEffect s .reportTrap) ∧
    (∀ r rest, (s.core (n / 4)).run = none → c.task ≠ none → c.reports = r :: rest → r.cause < 256 → r.cause ≠ 0x0A →
      ((s.core (n / 4)).regionOf 0xFFFF).isSome = true → ∃ t, exec .reportTrap s = .next t ∧ t.cur = n ∧ t.hidden = true ∧
        (t.ctx n).csr.tcause = BitVec.ofNat 64 r.cause ∧ (t.ctx n).csr.tval = r.tval ∧ (t.ctx n).csr.tpc = c.pc.zeroExtend 64 ∧
        (t.ctx n).reports = rest ∧ (t.ctx (2048 + n / 4)).pc = c.csr.tvec.truncate 48 ∧ t.mem = s.mem) ∧
    (c.grace = false ∨ c.halted = true → NoEffect s .graceTimerExpiry) ∧
    (c.grace = true → c.halted = false → c.task ≠ none → c.hold = .none → ∃ t, exec .graceTimerExpiry s = .next t ∧
      CtxOnly s t n { c with grace := false, reports := c.reports ++ [⟨0x0E, s.reg 0x302, 0, none⟩] }) ∧
    (∀ k g, c.hold = .ending none → c.task = some k → s.groups.find k.group = some g →
      (s.drained n = false → NoEffect s .taskEndDrainComplete) ∧
      (s.drained n = true → 1 < g.live → ∃ t, exec .taskEndDrainComplete s = .next t ∧ (t.ctx n).task = none ∧ (t.ctx n).hold = .none ∧
        (t.ctx n).land = [] ∧ (t.ctx n).s = c.s ∧ (t.ctx n).q = c.q ∧ (∀ m, m ≠ n → t.ctx m = s.ctx m) ∧
        t.groups.find k.group = some { g with live := g.live - 1, ended := (n, c.ops) :: g.ended })) ∧
    (c.task ≠ none → c.watch = 0 → c.halted = false → fld (s.reg 0x312) 0 16 ≠ 0 → ∃ t c', exec .watchdogPreempt s = .next t ∧ CtxOnly s t n c' ∧
      c' = { c with req := true, watch := 1, remain := if c.req then c.remain else fld c.csr.pdl 0 31, held := c'.held }) ∧
    (fld (s.reg 0x312) 0 16 = 0 → NoEffect s .watchdogPreempt ∧ NoEffect s .watchdogKill ∧ NoEffect s .watchdogFence) ∧
    (c.halted = true → NoEffect s .watchdogPreempt ∧ NoEffect s .watchdogKill) ∧
    (∀ k d, c.task = some k → c.watch = 1 → c.halted = false → fld (s.reg 0x312) 0 16 ≠ 0 → c.hold ≠ .stuck → s.cmds.find k.cmd = some d → d.st ≠ .done →
      ∃ t, exec .watchdogKill s = .next t ∧ (t.ctx n).watch = 2 ∧ t.cmds.find k.cmd = some { d with st := .done, status := 7 } ∧
        (s.arg = 0 → (t.ctx n).task = none) ∧ (s.arg ≠ 0 → (t.ctx n).task = some k ∧ (t.ctx n).hold = .stuck)) ∧
    (c.watch ≠ 2 ∨ c.task = none → NoEffect s .watchdogFence) ∧
    (c.watch = 2 → c.task ≠ none → fld (s.reg 0x312) 0 16 ≠ 0 → ∃ t, exec .watchdogFence s = .next t ∧ t.map.cores.getLsbD (n / 4) = false)

/-- R217 to R221, R235: segments. A segment entry keeps the snapshot once nothing is to land and no matrix command of the context runs; the empty
bundle only advances the tick, with SEG as a segment entry; a rollback, its drain over, restores the snapshot, keeps flags set from
outside, takes the segment's priority collectives out of their queue and starts RDVTO anew for partners that wait at an RDV (R221), and after an irreversible
operation traps UNCORR instead. -/
def Obligations.Segments : Prop :=
  (∀ s : State, (s.segReady s.unit = false → NoEffect s .segmentEntry) ∧
    (s.segReady s.unit = true → ∃ t, exec .segmentEntry s = .next t ∧ t = { s with ctxs := t.ctxs, cores := t.cores } ∧
      (∀ m, m ≠ s.unit → t.ctx m = s.ctx m) ∧ t.ctx s.unit = let c := s.ctx s.unit
        { c with
          snap := some ⟨c.s, c.g, c.f, c.csr.rrb, c.pc, c.schc, c.ix, c.lp, c.csr.rngsel, c.rngKey, c.rngCtr, c.rngWait, c.csr.logh, c.csr.recst⟩
          irrev := false, outside := 0, rolled := false, eq := (t.ctx s.unit).eq })) ∧
  (∀ (s : State) (wf : BitVec 16), Me s (.emptyBundle false wf) { s.me with schc := s.me.schc + 1, pc := s.me.next } ∧
    (s.hidden = true → Me s (.emptyBundle true wf) { s.me with schc := s.me.schc + 1, pc := s.me.next }) ∧
    (s.hidden = false → ∃ t p, exec (.emptyBundle true wf) s = .next t ∧ (t.ctx s.act).snap = some p ∧ p.pc = s.me.pc ∧ p.schc = s.me.schc ∧
      p.s = s.me.s ∧ p.f = s.me.f ∧ (t.ctx s.act).schc = s.me.schc + 1 ∧ (t.ctx s.act).pc = s.me.next ∧ t.mem = s.mem)) ∧
  ∀ (s : State) (p : Snapshot) (array : Nat) (x : W64), s.unit < 2048 → (s.ctx s.unit).hold = .rollback → (s.ctx s.unit).snap = some p →
    (s.ctx s.unit).poisoned = some (array, x) →
    let n := s.unit
    let c := s.ctx n
    (s.rollReady n = false → NoEffect s .segmentRollback) ∧
    (s.rollReady n = true → c.irrev = true → (s.core (n / 4)).run = none → ((s.core (n / 4)).regionOf 0xFFFF).isSome = true →
      ∃ t, exec .segmentRollback s = .next t ∧ (t.core (n / 4)).run = some (n % 4) ∧ (t.ctx n).csr.tcause = 0x0D ∧
        (t.ctx n).csr.tval = (if array < 6 then BitVec.allOnes 64 else x) ∧ (t.ctx n).csr.tpc = c.pc.zeroExtend 64) ∧
    (s.rollReady n = true → c.irrev = false → ∃ t, exec .segmentRollback s = .next t ∧ (t.ctx n).s = p.s ∧ (t.ctx n).g = p.g ∧
      (t.ctx n).f = p.f ||| c.outside ∧ (t.ctx n).ix = p.ix ∧ (t.ctx n).lp = p.lp ∧ (t.ctx n).pc = p.pc ∧ (t.ctx n).schc = p.schc ∧
      (t.ctx n).csr.rrb = p.rrb ∧ (t.ctx n).land = [] ∧ (t.ctx n).hold = .none ∧ (t.ctx n).rolled = true ∧ (t.ctx n).v = c.v ∧
      (t.ctx n).k = c.k ∧ (t.ctx n).rngKey = p.rngKey ∧ (t.ctx n).rngCtr = p.rngCtr ∧ (t.ctx n).csr.logh = p.logh ∧ (t.ctx n).csr.recst = p.recst ∧
      (t.core (n / 4)).prio = (s.core (n / 4)).prio.filter (fun e => !(e.ctx == n && e.seg && c.task.any fun k => k.serial == e.serial)) ∧
      (∀ m, m ≠ n → t.ctx m = { s.ctx m with rdvAt := (t.ctx m).rdvAt }) ∧
      ∀ m x e k j, m ≠ n → (s.ctx m).hold = .rdv x e false → c.task = some k → (s.ctx m).task = some j →
        (t.ctx m).rdvAt = if j.group = k.group then (s.ctx m).rdvAt.map fun _ => s.cyc m else (s.ctx m).rdvAt)

/-- R107, R116, R121, R169, R181: saves. A context whose REMAIN has run out stops for a forced save if a save slot is free; a stopped context that
may be saved leaves its context for the lowest free slot and joins the scheduler again; a queued load of a saved task delivers into the save, and its data
stands in the image. -/
def Obligations.ContextSaves : Prop :=
  (∀ s : State, let c := s.ctx s.unit
    (c.req = false ∨ c.remain ≠ 0 → NoEffect s .forcedSave) ∧
    (c.req = true → c.remain = 0 → c.task ≠ none → (c.hold = .none ∨ ∃ a e, c.hold = .rdv a e false) →
      (s.freeSave (dieOfCore (s.unit / 4))).isSome = true → ∃ t, exec .forcedSave s = .next t ∧ CtxOnly s t s.unit { c with hold := .save 0x0F false })) ∧
  (∀ (s : State) (t : TaskRun) (why : Nat) (eng : Bool) (j : Nat), let n := s.unit
    let key := saveKey (dieOfCore (n / 4)) j
    (s.ctx n).task = some t → (s.ctx n).hold = .save why eng → why ≠ 0xC0 → s.freeSave (dieOfCore (n / 4)) = some j →
    (s.canSave n why = false → NoEffect s .contextSave) ∧
    (s.canSave n why = true → ∃ u v e, exec .contextSave s = .next u ∧ (u.ctx n).task = none ∧ (u.ctx n).hold = .none ∧ (u.ctx n).land = [] ∧
      u.saves.find key = some v ∧ v.addr = s.slotAddr (dieOfCore (n / 4)) j ∧ v.task = t ∧ v.ctx = n ∧
      u.entries.find (savedEntry key) = some e ∧ e.kind = .resumed ∧ e.st = .translating ∧ e.slot = key ∧ e.serial = t.serial ∧ e.group = t.group)) ∧
  ∀ (s : State) (v : Saved) (q : QAcc), s.saves.find s.unit = some v → v.q = [q] → q.what = .ld → q.isLoad = true →
    s.mayPerform (4096 + s.unit) 0 = true → q.ext = false → devOf q.addr = s.dev.devid.toNat → Plain s (localOf q.addr) →
    bit (s.reg 0x301) 63 = false → s.isPoison (localOf q.addr) = false →
    ∃ t w, exec .pendingLoadIntoImage s = .next t ∧ t.saves.find s.unit = some w ∧ w.q = [] ∧ w.task = v.task ∧ w.addr = v.addr ∧
      ∀ (k : Nat) (e : LandEntry), v.land[k]? = some e → e.op = q.op → e.sub = q.idx → e.got = false → e.kind = .row →
        (s.wf → v.addr % 128 = 0 → k < 96 → (∀ a, v.addr + 0x40D00 ≤ a → a < v.addr + 0x44000 → Plain s a) →
          t.rawRow (v.addr + 0x41000 + 128 * k) = s.rawRow (localOf q.addr)) ∧
        ∃ e', w.land[k]? = some e' ∧ e' = { e with data := s.rawRow (localOf q.addr), poison := none, got := true, arr := e'.arr }

/-- R148, R151, R187 to R189, R206, R233, R237: dictionary loads and bindings, the debug operations, code fetch and a stream's arrival. -/
def Obligations.DictionaryAndDebug : Prop :=
  (∀ (s : State) (st : Nat), s.dictRefused = some st → ∀ i ∈ [Instr.load, .bind], exec i s = .next (s.setReg 0x340 (BitVec.ofNat 64 (2 ^ 8 * st)))) ∧
  (∀ s : State, s.dictRefused = none →
    let src := localOf (s.reg 0x341) / 16 * 16
    (∃ t, exec .bind s = .next t ∧ (t.reg 0x340 = 0 ∨ t.reg 0x340 = BitVec.ofNat 64 (3 * 2 ^ 8)) ∧ (t.core s.dCore).dict = (s.core s.dCore).dict ∧
      (t.reg 0x340 = 0 → (t.core s.dCore).regionOf s.dId = some (s.dBase, s.dCount)) ∧ ∀ m, m ≠ s.dCore → t.core m = s.core m) ∧
    ((∀ i, i < s.dCount → entryOk (s.bytes (src + 48 * i) 48) = true) → ∃ t, exec .load s = .next t ∧
      (t.reg 0x340 = 0 ∨ t.reg 0x340 = BitVec.ofNat 64 (3 * 2 ^ 8)) ∧
      (∀ i, i < s.dCount → (t.core s.dCore).dict.get 0 (s.dBase + i) = BitVec.ofNat 384 (s.bytes (src + 48 * i) 48)) ∧
      (t.reg 0x340 = 0 → (t.core s.dCore).regionOf s.dId = some (s.dBase, s.dCount)) ∧ ∀ m, m ≠ s.dCore → t.core m = s.core m)) ∧
  (∀ s : State, s.map.cores.getLsbD s.dCore = true → ((s.core s.dCore).regionOf s.dId).isSome = true → ∃ t, exec .unbind s = .next t ∧
    (t.core s.dCore).regionOf s.dId = none ∧ t.reg 0x340 = 0) ∧
  (∀ s : State, (∃ t, exec .halt s = .next t ∧ t = { s with ctxs := t.ctxs, cores := t.cores } ∧ ∀ k, k < 512 → (ctxsOf k).any s.isTarget = true →
      (t.core k).mode = 1 ∧ ∀ n ∈ ctxsOf k, s.isTarget n = true → (t.ctx n).halted = true) ∧
    (∃ t, exec .resume s = .next t ∧ t = { s with ctxs := t.ctxs, cores := t.cores } ∧ ∀ k, k < 512 → (ctxsOf k).any s.isTarget = true →
      (t.core k).mode = 0 ∧ ∀ n ∈ ctxsOf k, (t.ctx n).halted = false) ∧
    (∃ t, exec .go s = .next t ∧ t = { s with ctxs := t.ctxs, cores := t.cores } ∧ (t.core s.unit).mode = 0 ∧
      (∀ n ∈ ctxsOf s.unit, (t.ctx n).halted = false) ∧ ∀ k, k ≠ s.unit → t.core k = s.core k) ∧
    ((s.core s.unit).mode ≠ 2 → NoEffect s .step) ∧
    ((s.core s.unit).mode = 2 → ∃ t k, exec .step s = .next t ∧ t = { s with cores := t.cores } ∧ t.core s.unit = k ∧
      k = { s.core s.unit with dbgcfg := k.dbgcfg } ∧ bit k.dbgcfg 9 = true ∧ (∀ j : Nat, j ≠ 9 → k.dbgcfg.getLsbD j = (s.core s.unit).dbgcfg.getLsbD j) ∧
      ∀ m, m ≠ s.unit → t.core m = s.core m)) ∧
  ∀ s : State, let n := s.unit
    let c := s.ctx n
    (c.rngWait = false → NoEffect s .streamEntryArrival) ∧
    (c.rngWait = true → let e := s.strEntry (fld c.csr.rngsel 0 12)
      ∃ t, exec .streamEntryArrival s = .next t ∧
        CtxOnly s t n { c with rngKey := BitVec.ofNat 64 (s.bytes e 8), rngCtr := BitVec.ofNat 64 (s.bytes (e + 8) 8), rngWait := false }) ∧
    (n < 2048 → c.task ≠ none → c.lp = none → c.hold = .none → s.arg = 0 →
      (8 ≤ c.fq.length → NoEffect s .codeFetch) ∧
      (Quiet s → c.fq = [] → ∃ t, exec .codeFetch s = .next t ∧ CtxOnly s t n { c with fq := [s.expand n 0 c.pc] }) ∧
      (∀ x, Quiet s → c.fq.length < 8 → c.fq.getLast? = some x → ∃ t, exec .codeFetch s = .next t ∧
        CtxOnly s t n { c with fq := c.fq ++ [s.expand n c.fq.length x.next] })) ∧
    (n < 2048 → c.task ≠ none → c.lp = none → c.hold = .none → ∀ k q x, s.arg = k + 1 → c.fq = q ++ [x] →
      (x.seen.length ≤ k → NoEffect s .codeFetch) ∧
      (k < x.seen.length → ∃ t y, exec .codeFetch s = .next t ∧ CtxOnly s t n { c with fq := q ++ [y] } ∧ y.pc = x.pc ∧
        let m := s.overlay (x.seen.eraseIdx k)
        y.parcels = (m.expand n q.length x.pc).parcels ∧ y.bad = (m.expand n q.length x.pc).bad)) ∧
    (∀ a d, s.wf → a % 128 = 0 → RowIs s (s.overlay [(a, d)]) a d)

namespace Sys2Proof.Claims

/-- A flit heard at a receive slot that gives no answer of its own: fewer than fifteen buffers of its channel are freed and no marker is unanswered. -/
def HeardPlain (s : State) (rx : Nat) (f : Flit) : Prop :=
  rx < 256 ∧ Heard s rx f ∧ (s.rx rx).freed.getD f.vc.toNat 0 < 15 ∧ (s.rx rx).marker = []

end Sys2Proof.Claims

/-- R25, R35, R39, R41, R42, R44, R79: link slots. One flit boundary sends the first flit of the pattern's owner, or of the first ready channel in the fixed
order, or the next flit of a replay; a flit off a bridge goes on, and at its home die it is taken; a CREDIT raises allowances to at most 64; a NAK starts a
replay, and after sixteen failed ones takes the slot out of service; an acknowledgement empties the replay buffer; markers and their answers pair up. A
control flit from a slot that is not locked is not taken. -/
def Obligations.LinkSlots : Prop :=
  (∀ (s : State) (n : Nat), let t := s.tx n
    let pick := if s.txReady n (arbOwner t.pos) then some (arbOwner t.pos) else [4, 1, 3, 2, 5, 0].find? (s.txReady n)
    let pos := (t.pos + 1) % 16
    let i := Instr.flitArbitration (.tx n)
    (t.locked = false ∨ t.owed = 0 → pick = none → exec i s = .next (s.setTx n { t with pos := pos })) ∧
    (∀ vc f, t.locked = false ∨ t.owed = 0 → pick = some vc → t.q.find? (fun f => f.vc.toNat == vc) = some f → isMarker f = false →
      ∃ u, exec i s = .next u ∧ (∀ m, m ≠ n → u.tx m = s.tx m) ∧
        (s.keyAt (s.txPeer n) f = .missing → u.tx n = { t with pos := pos, q := t.q.erase f }) ∧
        (s.keyAt (s.txPeer n) f ≠ .missing → ∃ d, u.tx n =
          { t with pos := pos, q := t.q.erase f, allow := t.allow.set vc (t.allow.getD vc 0 - 1), replay := t.replay ++ [f],
                   wire := t.wire ++ [d], since := incAt t.since vc 1 } ∧ d.addr = f.addr ∧ d.kind = f.kind ∧ d.word = f.word ∧
          u.mem = s.mem ∧ u.ctxs = s.ctxs)) ∧
    (∀ f, t.locked = true → t.owed ≠ 0 → t.replay[t.replay.length - t.owed]? = some f → ∃ u, exec i s = .next u ∧
      (s.keyAt (s.txPeer n) f = .wait → u.tx n = { t with pos := pos }) ∧
      (s.keyAt (s.txPeer n) f = .send → ∃ d, u.tx n = { t with pos := pos, owed := t.owed - 1, wire := t.wire ++ [d] } ∧ d.addr = f.addr ∧
        d.kind = f.kind ∧ d.word = f.word))) ∧
  (∀ (s : State) (b slot pos : Nat) (up : Bool) (f : Flit), s.links.get LinkQ.reset (linkKey (.bridge b up)) = ⟨[(f, slot)], pos⟩ → f.vc.toNat < 6 →
    let t := { s with links := s.links.put (linkKey (.bridge b up)) ⟨[], (pos + 1) % 16⟩ }
    exec (.flitArbitration (.bridge b up)) s = .next (t.atDie (bridgeEnd b up) slot f) ∧
      (slot = 256 + bridgeEnd b up →
        exec (.flitArbitration (.bridge b up)) s = .next { t with pend := s.pend ++ [.event 0 0 (homeStep (bridgeEnd b up) f)] })) ∧
  (∀ (s : State) (rx : Nat) (f : Flit), rx < 256 → (s.rx rx).locked = false →
    ∀ i ∈ [Instr.credit rx f, .nak rx f, .drainAnswer rx f, .drainMarker rx f], NoEffect s i) ∧
  (∀ (s : State) (rx n : Nat) (f : Flit), HeardPlain s rx f → isMarker f = false → s.txOf f = some n →
    let t := s.tx n
    let Only := fun (u : State) (t' : TxSlot) => u = { s with rxs := u.rxs, txs := u.txs } ∧ u.tx n = t' ∧ (∀ m, m ≠ n → u.tx m = s.tx m) ∧
      ∀ m, m ≠ rx → u.rx m = s.rx m
    (∃ u, exec (.credit rx f) s = .next u ∧ Only u { t with allow := (u.tx n).allow } ∧ (u.tx n).allow.length = 6 ∧
      ∀ v, v < 6 → (u.tx n).allow.getD v 0 = min 64 (t.allow.getD v 0 + f.pay0.toNat / 2 ^ (32 * v) % 2 ^ 32)) ∧
    (t.locked = false → ∃ u, exec (.nak rx f) s = .next u ∧ Only u t) ∧
    (t.locked = true → t.fails < 16 → ∃ u, exec (.nak rx f) s = .next u ∧ Only u { t with fails := t.fails + 1, owed := t.replay.length }) ∧
    (t.locked = true → 16 ≤ t.fails → ∃ u, exec (.nak rx f) s = .next u ∧ (u.tx n).locked = false ∧ (u.tx n).replay = [] ∧
      .event 0 0 (.mapEvent (.slotLost n)) ∈ u.pend) ∧
    (bit f.addr 32 = true → t.await = some (fld f.addr 0 32) → ∃ u, exec (.drainAnswer rx f) s = .next u ∧ Only u { t with await := none }) ∧
    (bit f.addr 32 = false ∨ t.await ≠ some (fld f.addr 0 32) → ∃ u, exec (.drainAnswer rx f) s = .next u ∧ Only u t)) ∧
  (∀ s : State, let t := s.tx s.unit
    let r := s.rx s.unit
    (r.freed.all (· == 0) = true → NoEffect s .creditBatchTimer) ∧
    (r.freed.all (· == 0) = false → ∃ u, exec .creditBatchTimer s = .next u ∧ u.rx s.unit = { r with freed := [0, 0, 0, 0, 0, 0] } ∧
      u = { s with rxs := u.rxs, txs := u.txs, links := u.links }) ∧
    (∃ u, exec .flitAcknowledgement s = .next u ∧ u.mem = s.mem ∧ (∀ m, m ≠ s.unit → u.tx m = s.tx m) ∧
      u.tx s.unit = { t with replay := t.replay.drop s.arg, fails := if s.arg = 0 then t.fails else 0, owed := min t.owed (t.replay.length - s.arg) })) ∧
  ∀ (s : State) (rx : Nat) (f : Flit), HeardPlain s rx f → f.kind = 7 → bit f.addr 32 = false →
    let counts := (List.range 6).map fun v => f.pay0.toNat / 2 ^ (32 * v) % 2 ^ 32
    ∃ u, exec (.drainMarker rx f) s = .next u ∧ (u.rx rx).latch = ((s.rx rx).latch || bit f.addr 33) ∧
      (counts = (s.rx rx).accepted → (u.rx rx).marker = [] ∧ (u.rx rx).accepted = [0, 0, 0, 0, 0, 0]) ∧
      (counts ≠ (s.rx rx).accepted → (u.rx rx).marker = [(fld f.addr 0 32, counts)] ∧ (u.rx rx).accepted = (s.rx rx).accepted)

/-- R32, R33, R80, R393: a running wavelength plan: the drain step ends with the fibres that change dark, the dark interval with training, lit slots lock
with their allowances, and the relock ends with the map event; flits queued meanwhile are held, but for control flits; without a plan none of these does
anything. -/
def Obligations.WavelengthPlan : Prop :=
  (∀ (s : State) (n : Nat) (l : List Nat), s.wp = none →
    ∀ i ∈ [Instr.wplanDrainDone, .retuneLatchTimeout, .darkIntervalEnd, .relockTimeout, .slotLock n l], NoEffect s i) ∧
  ∀ (s : State) (w : WpRun), s.wp = some w →
    (w.dark = false → s.drainOver w = false → NoEffect s .wplanDrainDone) ∧
    (w.dark = false → s.drainOver w = true → ∃ t, exec .wplanDrainDone s = .next t ∧ t.wp = some { w with dark := true } ∧
      t.reg 0x303 = BitVec.ofNat 64 (w.planId.toNat % 2 ^ 56 * 256 + 2) ∧ ∀ i, i < 256 →
        t.tx i = (if fibreChanges s.planTx w.tx (i / 8) then { s.tx i with locked := false } else s.tx i) ∧
        t.rx i = (if fibreChanges s.planRx w.rx (i / 8) then { s.rx i with locked := false } else s.rx i)) ∧
    (w.dark = false → exec .retuneLatchTimeout s = .next { s with wp := some { w with timeout := true } }) ∧
    (w.dark = true → NoEffect s .retuneLatchTimeout) ∧
    (w.dark = false ∨ w.relock = true → NoEffect s .darkIntervalEnd) ∧
    (w.dark = true → w.relock = false → ∃ t, exec .darkIntervalEnd s = .next t ∧ t.wp = some { w with relock := true } ∧
      t.reg 0x303 = BitVec.ofNat 64 (w.planId.toNat % 2 ^ 56 * 256 + 3) ∧
      t.pend = s.pend ++ (if s.allLocked w then [.event 0 0 (.mapEvent .planLoaded)] else [])) ∧
    (w.relock = true → exec .relockTimeout s = .next { s with pend := s.pend ++ [.event 0 0 (.mapEvent .planLoaded)] }) ∧
    (w.relock = false → NoEffect s .relockTimeout ∧ ∀ n l, NoEffect s (.slotLock n l)) ∧
    (∀ (i : Nat) (l : List Nat), i < 256 → w.relock = true →
      (slotLit (w.tx.get 0 i) = true → (s.tx i).locked = false → ∃ t, exec (.slotLock i l) s = .next t ∧ (t.tx i).locked = true ∧
        (∀ m, m ≠ i → t.tx m = s.tx m) ∧ (t.tx i).q = (s.tx i).q ∧
        (s.planTx.get 0 i = w.tx.get 0 i → t.tx i = { s.tx i with locked := true }) ∧
        (s.planTx.get 0 i ≠ w.tx.get 0 i → (t.tx i).allow = (List.range 6).map fun v => min 64 (l.getD v 0))) ∧
      (slotLit (w.rx.get 0 i) = true → (s.rx i).locked = false → ∃ t, exec (.slotLock (256 + i) l) s = .next t ∧ (t.rx i).locked = true ∧
        (∀ m, m ≠ i → t.rx m = s.rx m) ∧ (s.planRx.get 0 i = w.rx.get 0 i → t.rx i = { s.rx i with locked := true })) ∧
      (slotLit (w.tx.get 0 i) = false ∨ (s.tx i).locked = true → NoEffect s (.slotLock i l)) ∧
      (slotLit (w.rx.get 0 i) = false ∨ (s.rx i).locked = true → NoEffect s (.slotLock (256 + i) l))) ∧
    ∀ (i : Nat) (f : Flit), (f.vc ≠ 4 → s.queueAt i f = { s with wp := some { w with held := w.held ++ [(s.txPeer i, f)] } }) ∧
      (f.vc = 4 → s.queueAt i f = s.setTx i { s.tx i with q := (s.tx i).q ++ [f] })

/-- R46, R53 to R60: trees at work. A row at its seam is staged, folded once every expected port has it, and kept out with the seam as it was when it is
not the next of its port or not in the window; a delivered row goes into a receiving member's buffer; a slot miss asks the owner and holds the flit until a
slot is installed, for a tree of another device with the seam as its owner answers it (log 34); windows widen by CREDIT, an expired segment is sent
PARTIAL, late rows are counted, and a delivery writes its status record and counts down its arrival counter. -/
def Obligations.Trees : Prop :=
  (∀ (s : State) (f : Flit) (x : Seam), let e := s.seamEnt x
    let key := seamKey x.part x.handle x.place
    s.seams.find key = some x → x.part = f.part.toNat → x.handle = f.word → x.place < 2 ^ 17 → x.slot = true →
    (x.ports.idxOf? (fKey f) = none → f.rows ≠ 0 → exec (.treeup x.place f) s = .next (s.routerErr x.place)) ∧
    (∀ p, x.ports.idxOf? (fKey f) = some p → x.ph = .idle → x.seg = fSeg f → (s.expectedAt x x.seg).getLsbD p = true → f.rows ≠ 0 →
      fRow f ≠ x.recv.getD p 0 ∨ x.folded + placeW x.place < fRow f + f.rows.toNat ∨ teP e < fRow f + f.rows.toNat →
      exec (.treeup x.place f) s = .next (s.routerErr x.place)) ∧
    (∀ p, x.ports.idxOf? (fKey f) = some p → s.injHit 9 (routerName x.place) = false → x.ph = .opened → x.seg = fSeg f → x.expected.getLsbD p = true → x.frozen = false → f.rows = 1 →
      fRow f = x.recv.getD p 0 → fRow f + 1 ≤ x.folded + placeW x.place → fRow f + 1 ≤ teP e → x.folded < 256 → x.folded < teP e →
      (∀ q, q ≠ p → q < x.ports.length → x.expected.getLsbD q = true → x.staged.find (stKey q x.folded) = none →
        ∃ t y, exec (.treeup x.place f) s = .next t ∧ t = { s with seams := s.seams.put key y } ∧ y.staged = x.staged.put (stKey p (fRow f)) f.pay0 ∧
          y.recv = x.recv.set p (fRow f + 1) ∧ y.folded = x.folded ∧ y.ph = .opened ∧ y.seg = x.seg) ∧
      (x.expected = BitVec.ofNat 64 (2 ^ p) → x.staged = [] → fRow f = x.folded → x.folded + 1 < teP e → p < x.ports.length →
        ∃ t y, exec (.treeup x.place f) s = .next t ∧ t.seams = s.seams.put key y ∧ y.partials = x.partials.put x.folded (canonRow e f.pay0) ∧
          y.folded = x.folded + 1 ∧ y.ph = .opened ∧ y.staged = [] ∧ t.mem = s.mem)) ∧
    (∀ m, x.ports = [m] → m < 4096 → x.kidAt.map Prod.fst = [s.dev.devid.toNat] → placeLevel x.place ≠ 3 →
      (s.takesIn x.part x.handle e m (fSeg f) = false →
        exec (.treedown x.place f) s = .next { s with seams := s.seams.put key { x with used := s.cycle } }) ∧
      (s.takesIn x.part x.handle e m (fSeg f) = true →
        let d := destOf e (s.recOfMember x.part x.handle e m) (fSeg f) (fRow f)
        let d2 := destOf e (s.recOfMember x.part x.handle e m) (fSeg f) (fRow f + 1)
        devOf d = s.dev.devid.toNat → Plain s (localOf d) → (f.rows = 2 → devOf d2 = s.dev.devid.toNat ∧ Plain s (localOf d2)) → s.wf →
        ∃ t, exec (.treedown x.place f) s = .next t ∧ t.seams = s.seams.put key { x with used := s.cycle } ∧
          (f.rows ≠ 2 → RowIs s t (localOf d) f.pay0) ∧ (f.rows = 2 → ∃ u, RowIs s u (localOf d) f.pay0 ∧ RowIs u t (localOf d2) f.pay1) ∧
          t.pend = s.pend ++ (if fLast f then [.event x.part 0 (.deliveryStatus x.handle m (BitVec.ofNat 32 (fSeg f)) (fTorn f) (fPart f))] else []))) ∧
    (∀ p, x.ports.idxOf? (fKey f) = some p → (x.sub p).any (fun m => s.inTree x.handle e m (fSeg f)) = true → x.late.contains (fKey f, fSeg f) = false →
      hOwner x.handle = s.dev.devid.toNat → ∃ t y, exec (.lateMark x.place f) s = .next t ∧
      t.seams = s.seams.put key y ∧ y = { x with late := y.late } ∧ (fKey f, fSeg f) ∈ y.late ∧
      t.mem = (s.putTt x.part (hIdx x.handle) 0x48 8 (lnrF (s.ttRow x.part (hIdx x.handle)) 0x48 8 + 1)).mem)) ∧
  (∀ (s : State) (place : Nat) (f : Flit), place < 2 ^ 17 → f.srcDev = s.dev.devid →
    (s.seams.find (seamKey f.part.toNat f.word place) = none → hOwner f.word = s.dev.devid.toNat → placeLevel place ≠ 3 → ∀ i ∈ [Instr.treeup place f, .treedown place f],
      ∃ t x g, exec i s = .next t ∧ t.seams = s.seams.put (seamKey f.part.toNat f.word place) x ∧ x.held = [f] ∧ x.slot = false ∧
        t.pend = s.pend ++ [.event f.part.toNat 0 (.refill place g)] ∧ g.word = f.word) ∧
    exec (.refill place f) s = .next { s with pend := s.pend ++ [.event f.part.toNat 0 (.refillAnswer place f.word (if s.treeActive f.part.toNat f.word then .own else .refused))] }) ∧
  (∀ (s : State) (place : Nat) (h : W32) (x : Seam), s.seams.find (seamKey s.unit h place) = some x → x.ports ≠ [] →
    (x.handle = h → hOwner h = s.dev.devid.toNat → exec (.refillAnswer place h .own) s = .next { s with pend := s.pend ++ [.event s.unit 0 (.slotInstall place h)] }) ∧
    (x.slot = true → NoEffect s (.slotInstall place h)) ∧
    (x.slot = false → (s.seams.filter fun y => sameRouter y.2.place place && y.2.slot).length < slotsOf place →
      x.frozen = true ∨ x.ph = .idle → exec (.slotInstall place h) s = .next { s with
        seams := s.seams.put (seamKey x.part x.handle x.place) { x with slot := true, held := [], used := s.cycle }
        pend := s.pend ++ x.held.map fun f => .event x.part 0 (if f.kind = 5 then .treedown place f else .treeup place f) }) ∧
    (x.slot = false → slotsOf place ≤ (s.seams.filter fun y => sameRouter y.2.place place && y.2.slot).length →
      (∀ y ∈ s.seams, y.2.slot = true → y.2.idleNow = false) → NoEffect s (.slotInstall place h)) ∧
    (x.handle ≠ h ∨ x.ph ≠ .opened ∨ x.frozen = true ∨ x.slot = false ∨ s.cycle < x.timer → NoEffect s (.seamTimeout place h)) ∧
    (∀ q, x.handle = h → x.ph = .opened → x.frozen = false → x.slot = true → x.timer ≤ s.cycle → x.parent = some q →
      (s.win x.part x.handle (4096 + x.idx)).1 ≠ x.seg → 0 < teP (s.seamEnt x) → teP (s.seamEnt x) ≤ 256 → x.folded ≤ teP (s.seamEnt x) →
      ∃ t y, exec (.seamTimeout place h) s = .next t ∧ t.seams.find (seamKey x.part x.handle x.place) = some y ∧ y.ph = .send ∧ y.isPart = true ∧
        y.folded = teP (s.seamEnt x) ∧ y.seg = x.seg)) ∧
  (∀ (s : State) (place : Nat) (h : W32) (x : Seam) (i : FarSeam), s.seams.find (seamKey s.unit h place) = some x → x.ports = [] → x.place = place →
    x.part = s.unit → hOwner h ≠ s.dev.devid.toNat → teState i.entry = 1 → lnrF i.entry 0 4 = h.toNat →
    ∃ t y, exec (.refillAnswer place h (.other i)) s = .next t ∧ t.seams = s.seams.put (seamKey s.unit h place) y ∧ y.ent = some i.entry ∧
      y.idx = i.idx ∧ y.parent = i.parent ∧ y.pport = i.pport ∧ y.ports = i.ports ∧ y.kidAt = i.kidAt ∧ y.subs = i.subs ∧ y.held = x.held ∧
      y.slot = false ∧ y.ph = .idle ∧ t.pend = s.pend ++ [.event s.unit 0 (.slotInstall place h)]) ∧
  (∀ (s : State) (m : Nat) (f : Flit), let w := s.win f.part.toNat f.word m
    m < 4096 → fPart f = false → segLt (fSeg f) w.1 = false → exec (.treeCredit m f) s = .next { s with
      treeWin := s.treeWin.put (winKey f.part.toNat f.word m) (fSeg f, if fSeg f = w.1 then max w.2 (fRow f + 1) else fRow f + 1) }) ∧
  (∀ (s : State) (h : W32) (m : Nat) (seg : W32) (torn part : Bool), let e := s.entOf s.unit h
    let r := s.recOfMember s.unit h e m
    let a := mrStat r + BitVec.ofNat 64 (seg.toNat % teNbuf e * 16)
    devOf a = s.dev.devid.toNat → Plain s (localOf a) → s.isPoison (localOf a) = false → a.toNat % 16 = 0 → s.wf →
    ∃ t, exec (.deliveryStatus h m seg torn part) s = .next t ∧ t = { s with mem := t.mem, pend := t.pend } ∧
      t.bytes (localOf a) 16 = seg.toNat + (if part then 2 ^ 32 else 0) + (if torn then 2 ^ 33 else 0) + 2 ^ 64 * s.now.toNat ∧
      t.pend = s.pend ++ (if mrSync r = 0 then [] else [.event 0 0 (.syncDec (mrSync r))])) ∧
  (∀ (s : State) (h : W32) (m : Nat) (seg : W32) (status : Nat), ∃ t, exec (.postCompletionNotice h m seg status) s = .next t ∧
    t = { s with posted := t.posted } ∧ t.posted.length = s.posted.length ∧ ∀ (k : Nat) (p : Posted), s.posted[k]? = some p →
      t.posted[k]? = some (if p.part = s.unit ∧ p.handle = h ∧ p.member = m ∧ p.seg = seg.toNat ∧ p.status = none then { p with status := some status } else p)) ∧
  ∀ (s : State) (n : Nat) (v : W64), n < 8 → (s.ttBusy n = true ∨ s.mute = true → NoEffect s (.ttabWrite n v)) ∧
    (s.wf → s.mute = false → s.ttBusy n = false → fld v 0 5 ≠ 0 → v.toNat % 2 ^ 16 / 2 ^ 5 = 0 → fld v 0 5 ≤ 14 → v ≠ s.reg (0x308 + n) → ∃ t, exec (.ttabWrite n v) s = .next t ∧
      t.reg (0x308 + n) = v ∧ ∀ i, i < 2 ^ fld v 0 5 → t.ttRow n i = BitVec.ofNat 2048 (s.dev.devid.toNat * 2 ^ 26 + i * 2 ^ 12 + 1))

/-- R73, R74: expert routing. The first flit of a record chooses the reachable replica with the smallest QB, or completes NOEXPERT; a record reserves
its rows when the ring has room, and commits, acknowledged, once its rows have come; the acknowledgement lets QB fall and completes the ESEND that sent the
record, known by its context and sequence number. -/
def Obligations.ExpertExchange : Prop :=
  (∀ (s : State) (die : Nat) (f : Flit) (r : RunCmd), die < 8 → (s.core f.srcCore.toNat).mainE = some r → r.c.op = 7 → r.status = none → r.aux = 0 →
    let e := f.word.toNat % 2 ^ 16
    r.side % 2 ^ 32 = exSeq f →
    (s.chooseRep die e = none → ∃ t, exec (.expert die f) s = .next t ∧ t = { s with cores := t.cores } ∧
      t.core f.srcCore.toNat = { s.core f.srcCore.toNat with mainE := some { r with status := some 0x17 } }) ∧
    (∀ i, s.chooseRep die e = some i → let p := etRep (s.etRow die e) i
      let x := localOf (rpRing p)
      devOf (rpRing p) = s.dev.devid.toNat → exRow f = 0 → ∃ t, exec (.expert die f) s = .next t ∧
        t = { s with cores := t.cores, qb := t.qb, rings := t.rings, pend := s.pend ++ [.event x 0 .ringReserve] } ∧
        t.core f.srcCore.toNat = { s.core f.srcCore.toNat with mainE := some { r with aux := BitVec.ofNat 64 (i + 1), mapRow := p } } ∧
        t.qbOf die e i = s.qbOf die e i + 128 * (exRows f + 1) ∧
        ∃ g, t.rings.find x = some g ∧ g.waiting = (s.ringAt x (rpRows p)).waiting ++ [(recOf f die e i p, flitRows f)])) ∧
  (∀ (s : State) (g : Ring) (r : RingRec) (rows : List Row), s.rings.find s.unit = some g → g.waiting = [(r, rows)] →
    let used := (g.reserved + 2 ^ 32 - bitsOf (s.ringCtl s.unit) 32 32) % 2 ^ 32
    (g.size < used + (r.rows + 1) → NoEffect s .ringReserve) ∧
    (used + (r.rows + 1) ≤ g.size → r.void = false → ∃ t, exec .ringReserve s = .next t ∧
      t.rings.find s.unit = some { g with reserved := (g.reserved + r.rows + 1) % 2 ^ 32, waiting := [], recs := g.recs ++ [{ r with pos := g.reserved, got := rows.length, bufs := [] }] } ∧
      (r.rows ≤ rows.length → .event s.unit 0 .ringCommit ∈ t.pend))) ∧
  (∀ (s : State) (g : Ring) (r : RingRec), s.rings.find s.unit = some g → g.waiting = [] → g.recs = [r] →
    (r.got < r.rows → ∃ t, exec .ringCommit s = .next t ∧ t.rings = s.rings.put s.unit g ∧ t.mem = s.mem) ∧
    (r.rows ≤ r.got → s.wf → Plain s s.unit → s.isPoison s.unit = false → s.unit % 128 = 0 → r.src = s.dev.devid.toNat → ∃ t, exec .ringCommit s = .next t ∧
      t.rings = s.rings.put s.unit { g with recs := [] } ∧
      bitsOf (t.ringCtl s.unit) 0 32 = (bitsOf (s.ringCtl s.unit) 0 32 + r.rows + 1) % 2 ^ 32 ∧
      bitsOf (t.ringCtl s.unit) 32 96 = bitsOf (s.ringCtl s.unit) 32 96 ∧
      t.pend = s.pend ++ .event (trF r.hdr 0 16 / 2 ^ 42 % 2 ^ 9) 0 (.commitAcknowledgement r.die r.entry r.rep (128 * (r.rows + 1))
          ⟨s.here s.unit, trF r.hdr 0 16 / 2 ^ 40 % 4, trF r.hdr 8 4⟩) ::
        (if r.sync = 0 then [] else [.event 0 0 (.syncDec r.sync)]))) ∧
  ∀ (s : State) (die entry rep bytes : Nat) (ack : RingAck) (r : RunCmd), (s.core s.unit).mainE = some r → r.c.op = 7 → r.status = none →
    r.aux = BitVec.ofNat 64 (rep + 1) → rpRing r.mapRow = ack.ring → r.c.ctx < 2048 → r.c.ctx % 4 = ack.ctx → r.side % 2 ^ 32 = ack.seq →
    ∃ t, exec (.commitAcknowledgement die entry rep bytes ack) s = .next t ∧
      t.core s.unit = { s.core s.unit with mainE := some { r with status := some 0, count := rep } } ∧
      (rep < etNrep (s.etRow die entry) → rpRing (etRep (s.etRow die entry) rep) = ack.ring → t.qbOf die entry rep = s.qbOf die entry rep - bytes) ∧
      t = { s with cores := t.cores, qb := t.qb }

namespace Sys2Proof.Claims

/-- Command `k`, of queue `c.queue`, completes with a status and nothing else happens: its journal record is written if there is a journal,
and its completion record is due. -/
def Ends (s : State) (i : Instr) (k : Nat) (c : Cmd) (st : Nat) : Prop :=
  ∃ t, exec i s = .next t ∧ (s.jCount = 0 → t.mem = s.mem ∧ t.poison = s.poison) ∧
    t = { s with
      mem := t.mem, poison := t.poison, cmds := s.cmds.put k { c with st := .done, status := st }
      pend := s.pend ++ [.event c.queue 0 .completionRecord] }

/-- The urgency order of ready commands: tier, deadline, queue (R89). -/
def Before (a b : Nat × Cmd) : Prop :=
  let tier (x : Nat × Cmd) : Nat := enF x.2.entry 0x10 1
  tier a < tier b ∨ (tier a = tier b ∧ (entDeadline a.2.entry < entDeadline b.2.entry ∨
    (entDeadline a.2.entry = entDeadline b.2.entry ∧ a.2.queue < b.2.queue)))

end Sys2Proof.Claims

/-- R82 to R92, R95: host queues. The tail word is read, entries are accepted in SEQ order and refused with a status, duplicates are passed over, a
gap stops the queue; the most urgent ready command is chosen and a late one is dropped if it asks for that, else
runs with LATE in its completion, and every sixteenth decision with tier 7 waiting goes to the command accepted longest ago there; a completion record is
written and its command retired; the journal is read back once, with the publishes that mapping rows show. -/
def Obligations.HostQueues : Prop :=
  (∀ s : State, let q := s.unit
    let h := s.hq q
    let tailAt := h.qtaila.toNat / 8 * 8
    let entAt := h.qbase.toNat / 128 * 128 + h.qhead.toNat % h.size * 128
    let e : Row := BitVec.ofNat 1024 (s.ringGet h.loc entAt 128)
    (s.serving = false ∨ h.en = false ∨ h.stoppedQ = true → NoEffect s .tailWordRead ∧ NoEffect s .commandAccept) ∧
    (h.tail = h.qhead ∨ s.jCount = 0 ∨ s.dev.replayed = false → NoEffect s .commandAccept) ∧
    (h.en = true → NoEffect s .queueEnable) ∧
    (h.en = false → exec .queueEnable s = .next ((s.setHq q { h with
      qctl := h.qctl ||| 1, qstat := 0, tail := h.qhead
      qseq := if s.jCount = 0 ∨ s.highWater q = 2 ^ 64 - 1 then h.qseq else BitVec.ofNat 64 (max h.qseq.toNat (s.highWater q + 1)) }).post q 0
        .completionRecord)) ∧
    (∃ t h', exec .queueDisable s = .next t ∧ t = s.setHq q h' ∧ h' = { h with qctl := h'.qctl } ∧ h'.en = false ∧
      ∀ k : Nat, k ≠ 0 → h'.qctl.getLsbD k = h.qctl.getLsbD k) ∧
    (s.serving = true → h.en = true → h.stoppedQ = false →
      (s.ringOk h.loc tailAt = true → exec .tailWordRead s = .next (s.setHq q { h with tail := BitVec.ofNat 64 (s.ringGet h.loc tailAt 8) })) ∧
      (s.ringOk h.loc tailAt = false → exec .tailWordRead s = .next (s.setHq q { h with qstat := 258 })) ∧
      (h.tail ≠ h.qhead → s.jCount ≠ 0 → s.dev.replayed = true →
        (s.ringOk h.loc entAt = false → exec .commandAccept s = .next (s.setHq q { h with qstat := 258 })) ∧
        (s.ringOk h.loc entAt = true →
          (enSEQ e < h.qseq.toNat → exec .commandAccept s = .next (s.setHq q { h with qhead := h.qhead + 1 })) ∧
          (h.qseq.toNat < enSEQ e → exec .commandAccept s = .next (s.setHq q { h with qstat := 257 })) ∧
          (enSEQ e = h.qseq.toNat → (∀ c ∈ s.cmds, c.2.recNo % s.jCount ≠ s.dev.jpos % s.jCount) → h.slotFree (enSEQ e) = true →
            (∀ c, (s.cmdsOf q).head? = some c → c.2.st ≠ .done ∨ h.slotFree (enSEQ c.2.entry) = false) →
            ∃ t c, exec .commandAccept s = .next t ∧ t.cmds.find (cmdKey q (enSEQ e)) = some c ∧ c.queue = q ∧ c.entry = e ∧
              c.acc = s.now.toNat ∧ c.runs = 0 ∧ c.launch = none ∧ c.recNo = s.dev.jpos ∧ t.dev.jpos = s.dev.jpos + 1 ∧
              (entRefused h e = none → c.st = .accepted) ∧ (∀ st, entRefused h e = some st → c.st = .done ∧ c.status = st) ∧
              (t.hq q).qhead = h.qhead + 1 ∧ (t.hq q).qseq = h.qseq + 1 ∧ t.ctxs = s.ctxs))))) ∧
  (∀ s : State, let ready := s.cmds.filter s.readyCmd
    (ready = [] → exec .dispatchDecision s = .next { s with share := 0 }) ∧
    (s.serving = false → ∃ t, exec .dispatchDecision s = .next t ∧ t = { s with share := t.share }) ∧
    ∀ x : Nat × Cmd, s.serving = true → x ∈ ready → (∀ c ∈ ready, c ≠ x → Before x c) → (∀ c ∈ ready, enF c.2.entry 0x10 1 ≠ 7) →
      s.cmds.find x.1 = some x.2 →
      let late := decide (entDeadline x.2.entry < s.now.toNat)
      (late = false ∨ entFlags x.2.entry / 2 % 2 = 0 → entOp x.2.entry ≠ 1 → ∃ t, exec .dispatchDecision s = .next t ∧
        t.share = (if t.lowReady.isEmpty then 0 else 1) ∧ t.cmds.find x.1 = some { x.2 with st := .started, runs := x.2.runs + 1, late := late } ∧
        t.pend = s.pend ++ [.event x.1 0 (cmdStep x.2.entry)]) ∧
      (late = false ∨ entFlags x.2.entry / 2 % 2 = 0 → entOp x.2.entry = 1 → ∃ t l, exec .dispatchDecision s = .next t ∧
        t.cmds.find x.1 = some { x.2 with late := late, launch := some l } ∧ l.count = enF x.2.entry 0x30 4 ∧ l.spawn = 0 ∧ l.next = 0 ∧
        l.failed = false ∧ t.pend = s.pend ++ [.event x.1 0 .launch]) ∧
      (late = true → entFlags x.2.entry / 2 % 2 = 1 → ∃ t, exec .dispatchDecision s = .next t ∧
        t.cmds.find x.1 = some { x.2 with st := .done, status := 2 } ∧ t.ctxs = s.ctxs ∧ t.entries = s.entries ∧ t.groups = s.groups)) ∧
  (∀ (s : State) (x : Nat × Cmd), s.serving = true → s.share = 15 → x ∈ s.lowReady → s.cmds.find x.1 = some x.2 → s.now.toNat ≤ entDeadline x.2.entry →
    (∀ c ∈ s.lowReady, c ≠ x → x.2.acc < c.2.acc ∨ (x.2.acc = c.2.acc ∧ x.2.recNo < c.2.recNo)) → ∃ t, exec .dispatchDecision s = .next t ∧ t.share = 0 ∧
      ∃ c, t.cmds.find x.1 = some c ∧ t.pend = s.pend ++ [.event x.1 0 (cmdStep x.2.entry)] ∧
        (entOp x.2.entry ≠ 1 → c = { x.2 with st := .started, runs := x.2.runs + 1, late := false }) ∧
        (entOp x.2.entry = 1 → c = { x.2 with late := false, launch := c.launch } ∧ ∃ l, c.launch = some l ∧ l.share = true)) ∧
  (∀ s : State, let q := s.unit
    let h := s.hq q
    ((s.cmdsOf q).head? = none ∨ h.en = false → NoEffect s .completionRecord) ∧
    ∀ k c, (s.cmdsOf q).head? = some (k, c) →
      (c.st ≠ .done ∨ h.slotFree (enSEQ c.entry) = false → NoEffect s .completionRecord) ∧
      (c.st = .done → h.en = true → h.slotFree (enSEQ c.entry) = true → h.loc = false → c.status < 256 → s.wf →
        ∃ t, exec .completionRecord s = .next t ∧ t.cmds = s.cmds.del k ∧ t.pend = s.pend ++ [.event q 0 .completionRecord] ∧
          getBytes (h.qdone.toNat / 16 * 16 + enSEQ c.entry % h.size * 16) 16 t.hostMem = enSEQ c.entry + 2 ^ 64 * (c.status +
            2 ^ 8 * (if 1 < c.runs then 1 else 0) + 2 ^ 9 * (if c.late then 1 else 0)) ∧
          t.dev.msix = s.dev.msix ++ (if entFlags c.entry / 4 % 2 = 1 then [h.vec] else []))) ∧
  ∀ s : State, (s.jCount = 0 ∨ s.serving = false ∨ s.dev.replayed = true → NoEffect s .journalReplay) ∧
    (s.jCount ≠ 0 → s.serving = true → s.dev.replayed = false → ∃ t, exec .journalReplay s = .next t ∧ t.ctxs = s.ctxs ∧ t.dev.replayed = true ∧
      (s.dev.shown = [] → t.mem = s.mem) ∧
      ∀ j, j < s.jCount →
        let key (i : Nat) : Nat := cmdKey (enF (s.jGet (s.jRec i + 128)) 0 1) (enSEQ (s.jGet (s.jRec i)))
        let r := s.jGet (s.jRec j + 128)
        let pubs : BitVec 256 := BitVec.ofNat 256 (r.toNat / 2 ^ 128)
        1 ≤ enF r 1 1 → enF r 1 1 ≤ 3 → (∀ i, i < s.jCount → i ≠ j → key i ≠ key j) → ∃ c, t.cmds.find (key j) = some c ∧
          c.entry = s.jGet (s.jRec j) ∧ c.st = (if enF r 1 1 = 3 then .done else .accepted) ∧ c.runs = enF r 2 1 ∧ c.acc = enF r 8 8 ∧ c.launch = none ∧
          s.dev.jpos ≤ c.recNo ∧ c.recNo < t.dev.jpos ∧ c.recNo % s.jCount = j ∧ (s.dev.shown = [] → c.pubmap = pubs) ∧
          ∀ n x, s.dev.shown = [(key j, n, x)] → enF r 1 1 ≠ 3 → devOf x = s.dev.devid.toNat → shownIn (s.rawRow (localOf x)) (enSEQ c.entry) n = true →
            c.pubmap = pubs ||| BitVec.ofNat 256 (2 ^ n))

/-- R86, R93, R94, R98 to R101, R107, R183, R409: the commands of the host queues do what their opcode says and complete with its status. -/
def Obligations.HostCommands : Prop :=
  (∀ s : State, ∀ x ∈ [(Instr.nopCommand, 0), (.copyh, 2), (.ctxsave, 3), (.ctxload, 4), (.variant, 5), (.mapsetRemove, 6), (.mapsetReturn, 6),
      (.signal, 7), (.waitv, 8), (.waitvPoll, 8), (.fenceCommand, 9)], s.running s.unit x.2 = none → NoEffect s x.1) ∧
  (∀ (s : State) (c : Cmd), let k := s.unit
    let e := c.entry
    s.cmds.find k = some c →
    (∀ l, c.launch = some l → c.st ≠ .done → l.failed = false → l.next < l.count →
      (l.spawn = 0 →
        (∀ st, s.launchRefused l (enF e 0x28 4) = some st → Ends s .launch k c st) ∧
        (s.launchRefused l (enF e 0x28 4) = none → exec .launch s = .next ({ s with
          cmds := s.cmds.put k { c with launch := some { l with spawn := l.count } } }.post k 0 .launch))) ∧
      (l.spawn ≠ 0 → ∀ r d g, s.template (l.image.toNat % 2 ^ 58) (enF e 0x28 4) = some r → s.homeDie (s.needsOf k) l.level (trRank r + 1) l.next = some d →
        let r' := trSet (trFor r l.next l.level) 0x60 24 (s.bytes (enF e 0x38 8 % 2 ^ 58 + 24 * l.next) 24)
        trDep r' = 0 → s.freeGref d = some g → s.wf → ∃ t, exec .launch s = .next t ∧
          t.groups.find (groupKey k l.next) = some ⟨k, l.next, l.level, trRank r + 1, d, r', BitVec.ofNat 16 (enF e 0x2E 2), false, false,
            trRank r + 1, [], g⟩ ∧ t.bytes (s.poolAddr d g) 128 = r'.toNat ∧
          t.serial = s.serial + (trRank r + 1) ∧ t.cmds.find k = some { c with launch := some { l with next := l.next + 1 } } ∧
          ∃ x, t.entries.find (2 ^ 90 + s.serial) = some x ∧ x.kind = .new ∧ x.st = .translating ∧ x.group = groupKey k l.next ∧ x.serial = s.serial ∧
            x.trec = r')) ∧
    (c.st = .started → entOp e = 0 → Ends s .nopCommand k c 0) ∧
    (c.st = .started → entOp e = 2 → enF e 0x30 8 = 128 →
      let src := enF e 0x20 8 / 128 * 128
      let dst := enF e 0x28 8 / 128 * 128
      (enF e 0x38 1 = 0 → let x : W64 := BitVec.ofNat 64 dst
        devOf x = s.dev.devid.toNat → Plain s (localOf x) → s.wf → ∃ u : State, exec .copyh s = .next (u.finishCmd k 0) ∧
          RowIs s u (localOf x) (BitVec.ofNat 1024 (getBytes src 128 s.hostMem)) ∧ u.isPoison (localOf x) = false ∧
          u = { s with mem := u.mem, poison := u.poison }) ∧
      (enF e 0x38 1 = 1 → let x : W64 := BitVec.ofNat 64 src
        devOf x = s.dev.devid.toNat → Plain s (localOf x) → s.isPoison (localOf x) = false → bit (s.reg 0x301) 63 = false → s.wf →
        ∃ u : State, exec .copyh s = .next (u.finishCmd k 0) ∧ u = { s with hostMem := u.hostMem } ∧
          getBytes dst 128 u.hostMem = (s.rawRow (localOf x)).toNat)) ∧
    (c.st = .started → entOp e = 3 → let area := enF e 0x28 8 % 2 ^ 58
      (s.toSave (cmdKey c.queue (enF e 0x20 8)) = [] → Ends s .ctxsave k c 0) ∧
      ∀ n, s.toSave (cmdKey c.queue (enF e 0x20 8)) = [n] → (s.ctx n).hold = .none → (s.modCtx n Ctx.stopSave).canSave n 0xC0 = true →
        ∃ t v, exec .ctxsave s = .next t ∧ (t.ctx n).task = none ∧ t.saves.find (s.areaNext area).1 = some v ∧ v.ctx = n ∧
          v.addr = (s.areaNext area).2 ∧ some v.task = (s.ctx n).task ∧ .event k 0 .ctxsave ∈ t.pend) ∧
    (c.st = .started → entOp e = 4 → let area := enF e 0x20 8 % 2 ^ 58
      (s.im area 0x40000 4 ≠ 1 → s.areaLoads area 2048 = []) ∧
      (s.areaLoads area 2048 = [] → Ends s .ctxload k c (if c.launch.isSome then 0 else 5)) ∧
      ∀ x, s.areaLoads area 2048 = [x] → s.entries.find (savedEntry x.1) = none →
        (s.loadCore x.2 = none → Ends s .ctxload k c 4) ∧
        (∀ n, s.loadCore x.2 = some n → ∃ t y, exec .ctxload s = .next t ∧ t.entries.find (savedEntry x.1) = some y ∧ y.kind = .resumed ∧
          y.st = .translating ∧ y.core = n ∧ y.slot = x.1 ∧ y.group = x.2.task.group ∧ y.serial = x.2.task.serial ∧
          t.pend = s.pend ++ [.event (savedEntry x.1) 0 .translationComplete])) ∧
    (c.st = .started → entOp e = 5 → let a := enF e 0x20 8 % 2 ^ 58
      let v := enF e 0x28 2
      let earlier (d : Nat × Cmd) : Prop := entOp d.2.entry = 1 ∧ d.2.st ≠ .done ∧ enF d.2.entry 0x20 8 = enF e 0x20 8 ∧ accLt d (k, c) = true
      ((∃ d ∈ s.cmds, earlier d) → NoEffect s .variant) ∧
      ((∀ d ∈ s.cmds, ¬earlier d) →
        (s.imageOk a = false ∨ (∀ x ∈ s.sections a, x.1 ≠ 6 ∨ x.2.2.2 ≠ v) → Ends s .variant k c 1) ∧
        (s.imageOk a = true → (∃ x ∈ s.sections a, x.1 = 6 ∧ x.2.2.2 = v) →
          (Config.planFits a (s.variants.get 0 a) v s.dev.fresh = true → ∃ t, exec .variant s = .next t ∧ t.variants = s.variants.put a v ∧
            t.cmds.find k = some { c with st := .done, status := 0 } ∧ t.ctxs = s.ctxs) ∧
          (Config.planFits a (s.variants.get 0 a) v s.dev.fresh = false → Ends s .variant k c 3)))) ∧
    (c.st = .started → entOp e = 6 → let kind := enF e 0x20 1
      let unit := enF e 0x22 2
      (enF e 0x24 1 = 0 → exec .mapsetRemove s = .next ((s.mapReport (lossOf kind unit)).finishCmd k 0) ∧ NoEffect s .mapsetReturn ∧
        ∀ b l n, NoEffect s (.mapsetRetestDone k b l n)) ∧
      (enF e 0x24 1 = 1 → NoEffect s .mapsetRemove ∧ (s.map.unitLive kind unit = true → Ends s .mapsetReturn k c 0) ∧
        (s.map.unitLive kind unit = false → NoEffect s .mapsetReturn) ∧ ∀ l n, Ends s (.mapsetRetestDone k true l n) k c 5 ∧
          (((s.map.report (.returned kind unit l n)).close.unitLive kind unit) = false → Ends s (.mapsetRetestDone k false l n) k c 5) ∧
          (((s.map.report (.returned kind unit l n)).close.unitLive kind unit) = true →
            exec (.mapsetRetestDone k false l n) s = .next ((s.mapReport (.returned kind unit l n)).finishCmd k 0)))) ∧
    (c.st = .started → entOp e = 7 → let x : W64 := BitVec.ofNat 64 (enF e 0x20 8)
      let a := localOf x
      (c.pubmap.getLsbD 255 = true → Ends s .signal k c 0) ∧
      (c.pubmap.getLsbD 255 = false → devOf x = s.dev.devid.toNat → s.syPresent a = true → (s.syWord a).kind = .plain → syView a = 0 → SyncSound s a →
        ∃ u, SyncIs s u a ⟨.plain, if enF e 0x28 1 = 1 then (s.syWord a).val - 1 else BitVec.ofNat 64 (enF e 0x30 8)⟩ ∧
          exec .signal s = .next ((u.setPub k 255).finishCmd k 0))) ∧
    (c.st = .started → entOp e = 8 → let r := s.word64 (BitVec.ofNat 64 (enF e 0x20 8))
      let w := r.2
      let v : W64 := BitVec.ofNat 64 (enF e 0x30 8)
      let cmp := enF e 0x28 1
      let hit : Prop := (cmp = 0 ∧ v.toNat ≤ w.toNat) ∨ (cmp = 1 ∧ w = v) ∨ (2 ≤ cmp ∧ w ≠ v)
      let polled := { r.1 with dev := { r.1.dev with fresh := r.1.dev.fresh + 1 } }
      ∀ i ∈ [Instr.waitv, .waitvPoll], (hit → exec i s = .next (polled.finishCmd k 0)) ∧ (¬hit → exec i s = .next polled)) ∧
    (c.st = .started → entOp e = 9 →
      let held (d : Nat × Cmd) : Prop := accLt d (k, c) = true ∧ d.2.st ≠ .done ∧ (enF e 0x20 1 = 1 ∨ d.2.queue = c.queue)
      ((∃ d ∈ s.cmds, held d) → NoEffect s .fenceCommand) ∧ ((∀ d ∈ s.cmds, ¬held d) → Ends s .fenceCommand k c 0))) ∧
  ∀ (s : State) (x : W64), devOf x = s.dev.devid.toNat → let a := localOf x / 8 * 8
    (Plain s (localOf x) → (s.word64 x).1 = s ∧ (s.word64 x).2.toNat = s.bytes a 8) ∧
    (∀ n, homeOf a = .sync n → (s.syPresent a = true → s.word64 x = (s, (s.syWord a).val)) ∧ (s.syPresent a = false → s.word64 x = (s.syRefuse a, 0)))

/-- R100, R102, R112, R114, R117 to R120: the die schedulers. Translation fills the extents and makes an entry ready, or parks it with a fault record; a
ready task of one is placed and begins as the spec lists, with an empty engine queue; the XCTL operations act on their partition and clear BUSY. -/
def Obligations.Scheduling : Prop :=
  (∀ (s : State) (part va : Nat), let root := s.reg (0x328 + part)
    let p1 := s.pteAt (fld root 0 58 / 4096 * 4096) (bitsOf va 39 9)
    let p2 := s.pteAt (pteAddr p1) (bitsOf va 30 9)
    let p3 := s.pteAt (pteAddr p2) (bitsOf va 21 9)
    (bit root 0 = false → s.walk part va = .fault .notPresent ∧ ∀ die, s.leafOf die part va = (s, .fault .notPresent)) ∧
    (bit root 0 = true → (∀ p ∈ [p1, p2], bit p 0 = true ∧ fld p 4 8 = 0 ∧ bit p 1 = false ∧ fld p 58 6 = s.dev.devid.toNat) →
      (bit p3 0 = false → s.walk part va = .fault .notPresent) ∧
      (bit p3 0 = true → fld p3 4 8 = 0 → bit p3 1 = true → pteAddr p3 % 2 ^ 21 = 0 → s.walk part va = .leaf p3 false))) ∧
  (∀ (s : State) (e : Entry), s.entries.find s.unit = some e →
    (e.st ≠ .translating → NoEffect s .translationComplete) ∧
    (e.st = .translating →
      let mask := match s.groups.find e.group with | some g => g.resmask | none => 0
      let r := (s.extentsOf (s.dieOfEntry e) (s.partOf e.group) e.trec).2
      (∀ es, r = .ok es → ∃ t, exec .translationComplete s = .next t ∧ t = { s with
        dies := t.dies, entries := s.entries.put s.unit { e with st := .ready, ext := markRes mask es, order := maxOrder s.entries + 1 } }) ∧
      (∀ f i va, r = .error (f, i, va) →
        let n := 2 ^ fld (s.reg 0x316) 0 5
        let p := (s.reg 0x317).toNat
        let used := (p + 2 ^ 64 - (s.reg 0x318).toNat) % 2 ^ 64
        (n ≤ used → ∃ t, exec .translationComplete s = .next t ∧ t = { s with dies := t.dies }) ∧
        (used < n → s.wf → ∃ t, exec .translationComplete s = .next t ∧ t.entries = s.entries.put s.unit { e with st := .parked } ∧
          t.reg 0x317 = s.reg 0x317 + 1 ∧ t.ctxs = s.ctxs ∧
          t.bytes (fld (s.reg 0x316) 0 58 / 4096 * 4096 + p % n * 32) 32 = s.faultRecord e f i va % 2 ^ 256)))) ∧
  (∀ (s : State) (key n : Nat) (e : Entry) (g : Group) (c : Cmd),
    s.entries.filter (fun x => x.2.st == .ready && s.dieOfEntry x.2 == s.unit) = [(key, e)] → e.kind = .new → s.groups.find e.group = some g →
    g.size = 1 → s.place key e = some [n] → s.cmds.find g.cmd = some c → c.st = .accepted →
    ∃ t r, exec .taskDispatch s = .next t ∧ t.entries = s.entries.del key ∧
      t.cmds.find g.cmd = some { c with st := .started, runs := c.runs + 1 } ∧ (∀ m, m ≠ n → t.ctx m = s.ctx m) ∧
      let d := t.ctx n
      d.task = some r ∧ r.serial = e.serial ∧ r.group = e.group ∧ r.rank = 0 ∧ r.size = 1 ∧ r.cmd = g.cmd ∧ r.cont = false ∧ r.prio = trPrio e.trec ∧
        d.pc = trEntry e.trec ∧ d.f = 0 ∧ d.s = [] ∧ d.g = [] ∧ d.v = [] ∧ d.k = [] ∧ d.schc = 0 ∧ d.ext = e.ext ∧ d.csr.ackver = s.reg 0x302 ∧
        d.csr.rrb = 0 ∧ d.q = (s.ctx n).q ∧ d.eq = [] ∧ d.past = (s.ctx n).engs) ∧
  (∀ s : State,
    (∀ x ∈ [(Instr.inval, 1), (.revoke, 2), (.remap, 3), (.retry, 4), (.failpark, 5)], s.xOn x.2 = false → NoEffect s x.1) ∧
    (s.xOn 1 = true → ∃ t, exec .inval s = .next t ∧ t.reg 0x313 = 0 ∧ t = { s with dies := t.dies, regs := t.regs } ∧
      ∀ d, (t.die d).tc = (s.die d).tc.filter fun x => !(x.part == s.xPart && overlap (x.page * x.bytes) x.bytes s.xLo (s.xHi - s.xLo))) ∧
    (s.xOn 2 = true → ∃ t, exec .revoke s = .next t ∧ (t.outIn s.xPart s.xLo s.xHi = false → t.reg 0x313 = 0) ∧
      (t.outIn s.xPart s.xLo s.xHi = true → t.reg 0x313 = s.reg 0x313) ∧
      ∀ n r, n < 2048 → (s.ctx n).task = some r → r.part = s.xPart → (t.ctx n).ext = (s.ctx n).ext.map fun e =>
        if e.meets s.xLo s.xHi && !e.revoked then { e with revoked := true, refused := false } else e) ∧
    (s.xOn 3 = true → ∃ t, exec .remap s = .next t ∧ t.reg 0x313 = 0 ∧
      ∀ n r, n < 2048 → (s.ctx n).task = some r → r.part = s.xPart →
        (t.ctx n).ext = (s.ctx n).ext.map (({ s with dies := [] } : State).walkAgain s.xPart)) ∧
    (s.xOn 4 = true → ∃ t, exec .retry s = .next t ∧ t.reg 0x313 = 0 ∧
      ∀ x ∈ s.entries, x.2.st = .parked → s.partOf x.2.group = s.xPart → (∀ y ∈ s.entries, y.1 = x.1 → y = x) →
        t.entries.find x.1 = some { x.2 with st := .translating } ∧ .event x.1 0 .translationComplete ∈ t.pend) ∧
    (∀ key e g c l, s.xOn 5 = true → s.groups.find e.group = some g → s.cmds.find g.cmd = some c → c.launch = some l →
      (s.entries.filter fun x => x.2.st == .parked && s.partOf x.2.group == s.xPart &&
        (match (s.groups.find x.2.group).bind fun g => s.cmds.find g.cmd with | some c => enSEQ c.entry == (s.reg 0x314).toNat | none => false)) =
          [(key, e)] → e.kind = .new → ∃ t d, exec .failpark s = .next t ∧ t.reg 0x313 = 0 ∧ t.entries = s.entries.del key ∧
        t.groups = (mapVals (fun x => if x.cmd = g.cmd then { x with never := true } else x) s.groups).del e.group ∧ t.cmds.find g.cmd = some d ∧ d.launch = some { l with failed := true })) ∧
  ∀ (s : State) (part : Nat) (e : Extent), (e.valid = false ∨ e.revoked = false → s.walkAgain part e = e) ∧
    (e.valid = true → e.revoked = true → ∀ p, (s.pieces 0 part e.va (128 * e.len) false [] (e.len / 2 ^ 14 + 2)).2 = .ok [p] →
      (p.rows = e.len → p.w = e.w → p.c = e.conf → s.walkAgain part e = { e with base := p.base, revoked := false, refused := false }) ∧
      (p.rows ≠ e.len ∨ p.w ≠ e.w ∨ p.c ≠ e.conf → s.walkAgain part e = { e with refused := true }))

namespace Sys2Proof.Claims

/-- No report to the map waits in a list of turns. -/
def NoReport (l : List Turn) : Prop := ∀ u a q, Turn.event u a (.mapEvent q) ∉ l

end Sys2Proof.Claims

/-- R8 to R18: the reset sequence, power and the map. Each state of the sequence takes only its own step; a warm reset keeps second-tier memory, the version,
the serial numbers and how far the journal has gone; a report changes its unit and publishes one more version, which sets f15 where it has not been
acknowledged; of two reports of one cycle the one of lower CAUSE, then unit, is taken first. That each thermal event is a step of its own is the model's
choice (log 117), as is which die steps down (log 118). -/
def Obligations.ResetSequence : Prop :=
  (∀ s : State, exec .coldReset s = .next { State.reset with
    dev := { Device.reset with image := s.dev.image, fresh := s.dev.fresh }
    hostMem := s.hostMem, agenda := s.agenda, unit := s.unit, arg := s.arg }) ∧
  (∀ s : State, s.wf → ∃ t, exec .warmReset s = .next t ∧ t.dev.keptVersion = s.dev.keptVersion ∧ t.serial = s.serial ∧ t.dev.rst = .image ∧
    t.dev.jpos = s.dev.jpos ∧ t.dev.shown = s.dev.shown ∧ t.dev.replayed = false ∧
    t.ctxs = State.reset.ctxs ∧ t.cmds = State.reset.cmds ∧
    ∀ a, t.byte a = if Config.tierBase ≤ a ∧ a < Config.tierBase + Config.tierBytes then s.byte a else 0) ∧
  (∀ s : State, let i := s.dev.image
    let good := Config.imageSignatureOk i.body i.sig && decide (2000 ≤ i.cap) && decide (i.cap ≤ 4400)
    (s.dev.rst ≠ .image → NoEffect s .imageCheck) ∧
    (s.dev.rst = .image → good = true → exec .imageCheck s = .next { s with
      dev := { s.dev with rst := .arrays, devid := i.devid }, planTx := i.tx, planRx := i.rx }) ∧
    (s.dev.rst = .image → good = false → exec .imageCheck s = .next { s with dev := { s.dev with rst := .badImage } }) ∧
    (∀ img, (s.dev.rst ≠ .badImage → NoEffect s (.newImageAccept img)) ∧
      (s.dev.rst = .badImage → exec (.newImageAccept img) s = .next { s with dev := { s.dev with image := img, rst := .image } })) ∧
    (∀ fails, (s.dev.rst ≠ .arrays → NoEffect s (.arrayTest fails)) ∧
      (s.dev.rst = .arrays → ∃ t, exec (.arrayTest fails) s = .next t ∧ t.dev.rst = .cores ∧
        (∀ n : Nat, n < 512 → (t.map.cores.getLsbD n = true ↔ s.map.cores.getLsbD n = true ∧
          ∀ f ∈ fails, f.array = 6 → f.unit = n → 100 * f.rows ≤ Config.spRows)) ∧
        ∀ n : Nat, n < 32 → (t.map.panels.getLsbD n = true ↔ s.map.panels.getLsbD n = true ∧
          ∀ f ∈ fails, f.array = 7 → f.unit = n → 100 * f.rows ≤ Config.psRows))) ∧
    (∀ failed, (s.dev.rst ≠ .cores → NoEffect s (.coreSelfTest failed)) ∧
      (s.dev.rst = .cores → ∃ t, exec (.coreSelfTest failed) s = .next t ∧ t.dev.rst = .memory ∧
        ∀ n : Nat, n < 512 → (t.map.cores.getLsbD n = true ↔ s.map.cores.getLsbD n = true ∧ n ∉ failed))) ∧
    (∀ r, (s.dev.rst ≠ .memory → NoEffect s (.memoryTest r)) ∧
      (s.dev.rst = .memory → ∃ t, exec (.memoryTest r) s = .next t ∧ t.dev.rst = .links ∧
        (∀ n : Nat, n < 16 → (t.map.hbms.getLsbD n = true ↔ s.map.hbms.getLsbD n = true ∧ n ∉ r.hbms)) ∧
        (∀ n : Nat, n < 48 → (t.map.tierch.getLsbD n = true ↔ s.map.tierch.getLsbD n = true ∧ n ∉ r.chans)) ∧
        ∀ p ∈ r.pages, t.dev.retired.find p = some 1)) ∧
    ∀ r, (s.dev.rst ≠ .links → NoEffect s (.linkBringup r)) ∧
      (s.dev.rst = .links → ∃ t, exec (.linkBringup r) s = .next t ∧ t.dev.rst = (if t.enough r.hostUp then .ready else .failed) ∧
        t.map.version = s.dev.keptVersion + 1 ∧ t.dev.keptVersion = s.dev.keptVersion + 1 ∧ t.reg 0x302 = s.dev.keptVersion + 1 ∧ t.map.cause = 1 ∧
        ((∀ h ∈ r.heard, s.rxPeer h.1 = h.2) → ∀ i ∈ r.locked, (t.tx i).locked = true) ∧
        ((∃ h ∈ r.heard, s.rxPeer h.1 ≠ h.2) → ∀ i, t.tx i = s.tx i))) ∧
  (∀ (s : State) (watts : List Nat), let hist := (sumOf watts :: s.dev.watts).take 100
    let cap := s.dev.image.cap * hist.length
    let meas (wait under : Nat) : State := { s with dev := { s.dev with watts := hist, downWait := wait, under := under } }
    (s.serving = false → NoEffect s (.powerMeasurement watts) ∧ NoEffect s .thermalLimit ∧ ∀ r, NoEffect s (.mapEvent r)) ∧
    (s.serving = true →
      (cap < sumOf hist → s.dev.downWait ≠ 0 → exec (.powerMeasurement watts) s = .next (meas (s.dev.downWait - 1) 0)) ∧
      (∀ d, cap < sumOf hist → s.dev.downWait = 0 → s.hottest watts = some d →
        exec (.powerMeasurement watts) s = .next ((meas 9 0).post 0 0 (.mapEvent (.clockStep d (stepDown (s.map.clock d)))))) ∧
      (sumOf hist ≤ cap → 9 * cap < 10 * sumOf hist → exec (.powerMeasurement watts) s = .next (meas 0 0)) ∧
      (sumOf hist ≤ cap → 10 * sumOf hist ≤ 9 * cap → s.dev.under < 999 → exec (.powerMeasurement watts) s = .next (meas 0 (s.dev.under + 1))) ∧
      (let d := s.unit
       (s.dieLive d = false ∨ s.arg ≤ 105 → NoEffect s .thermalLimit) ∧
       (s.dieLive d = true → 105 < s.arg → s.arg < 115 → 1200 < s.map.clock d →
         exec .thermalLimit s = .next (s.post 0 0 (.mapEvent (.clockStep d (stepDown (s.map.clock d)))))) ∧
       (s.dieLive d = true → 115 ≤ s.arg ∨ (105 < s.arg ∧ s.map.clock d ≤ 1200) → exec .thermalLimit s = .next (s.post 0 0 (.mapEvent (.dieLost d))))))) ∧
  (∀ (s : State) (r : MapReport), s.serving = true → r ≠ .planLoaded → NoReport s.pend → NoReport s.agenda → let m := (s.map.report r).close
    (m.same s.map = true → NoEffect s (.mapEvent r)) ∧
    (m.same s.map = false → ∃ t, exec (.mapEvent r) s = .next t ∧ t.reg 0x302 = s.dev.keptVersion + 1 ∧ t.dev.keptVersion = s.dev.keptVersion + 1 ∧
      t.map = { m with version := s.dev.keptVersion + 1, cause := BitVec.ofNat 16 (causeOf r), time := s.now })) ∧
  (∀ (s : State) (q r : MapReport) (u a : Nat), s.serving = true → s.pend = [.event u a (.mapEvent q)] → NoReport s.agenda →
    causeOf q < causeOf r ∨ (causeOf q = causeOf r ∧ unitOf q < unitOf r) →
    exec (.mapEvent r) s = exec (.mapEvent q) { s with pend := [.event u a (.mapEvent r)] }) ∧
  (∀ (s : State) (n : Nat), let m := (s.map.report (.coreLost n)).close
    n < 512 → m.cores.getLsbD n = false ∧ ∀ k : Nat, k < 512 → k ≠ n → s.map.close = s.map → m.cores.getLsbD k = s.map.cores.getLsbD k) ∧
  ∀ (s : State) (cause n : Nat), n < 2048 → let v := s.dev.keptVersion + 1
    let c := s.ctx n
    ((s.publish cause).ctx n) = if c.csr.ackver.toNat < v.toNat then
      { c with
        f := c.f ||| 0x8000, outside := c.outside ||| 0x8000, grace := c.grace || !(c.f.getLsbD 15), fset := c.fset ||| 0x8000
        fnew := c.fnew ||| (0x8000 &&& ~~~c.f) } else c

/-- R20, R39, R40, R224 to R229, R383: the security mailbox, parity groups and recovery. A mailbox command answers in its buffer and with MBSTAT and clears BUSY; SEAL and LOST
move a group through its states, a fill advances by steps of 32 rows and restarts when a survivor has moved, a fill and a seal end CLEAN; reconciliation
refuses a record that does not check, and its second pass sets a skewed stream's counter at its binding core and clears SKEW; a walk passes over an entry
whose result nobody asks for. -/
def Obligations.MailboxAndRecovery : Prop :=
  (∀ s : State, let b := mbBase
    (s.dev.mbbusy = false → ∀ i ∈ [Instr.ident, .attest, .keywrap, .keyretire], NoEffect s i) ∧
    (s.dev.mbbusy = true → s.dev.rst = .badImage → ∀ i ∈ [Instr.attest, .keywrap, .keyretire],
      exec i s = .next { s with dev := { s.dev with mbstat := 1, mbbusy := false } }) ∧
    (s.dev.mbbusy = true → s.wf → ∃ t, exec .ident s = .next t ∧ t = { s with mem := t.mem, dev := { s.dev with mbstat := 0, mbbusy := false } } ∧
      (∀ i, i < 384 → t.byte (b + i) = Config.identityModulus i) ∧ (∀ i, i < 4 → t.byte (b + 0x180 + i) = Config.identityExponent i) ∧
      ∀ a, a < b ∨ b + 0x184 ≤ a → t.byte a = s.byte a) ∧
    (s.dev.mbbusy = true → s.dev.rst ≠ .badImage → s.wf →
      (∃ t, exec .attest s = .next t ∧ t = { s with mem := t.mem, dev := { s.dev with mbstat := 0, mbbusy := false } } ∧
        (∀ i, i < 64 → t.byte (b + i) = s.byte (b + i)) ∧ (∀ i, i < 32 → t.byte (b + 0x40 + i) = (sha256 s.dev.image.body).getD i 0) ∧
        t.byte (b + 0x60) = s.dev.devid.zeroExtend 8 ∧ t.byte (b + 0x61) = BitVec.ofNat 8 (rstCode s.dev.rst) ∧
        (∀ i, 0x62 ≤ i → i < 0x68 → t.byte (b + i) = 0) ∧
        ∀ i, i < 384 → t.byte (b + 0x80 + i) = Config.identitySign (t.mbGet 0 0x68) i) ∧
      (Config.oaepDecrypt (s.mbGet 0 384) = none → exec .keywrap s = .next { s with dev := { s.dev with mbstat := 2, mbbusy := false } }) ∧
      (∀ r, Config.oaepDecrypt (s.mbGet 0 384) = some r →
        let x (i : Nat) : Nat := (r.getD i 0).toNat
        let right : Prop := r.length = 48 ∧ x 32 ≤ 63 ∧ x 33 ≤ 7 ∧ x 34 ≤ 1 ∧ x 35 ≤ 1 ∧ ∀ y ∈ r.drop 36, y = 0
        (¬right → exec .keywrap s = .next { s with dev := { s.dev with mbstat := 3, mbbusy := false } }) ∧
        (right → x 34 = 0 → s.selected (x 32) (x 33) (x 35) = true → exec .keywrap s = .next { s with dev := { s.dev with mbstat := 4, mbbusy := false } }) ∧
        (right → x 34 = 1 ∨ s.selected (x 32) (x 33) (x 35) = false → ∃ t, exec .keywrap s = .next t ∧ t.mem = s.mem ∧ t.dev.mbstat = 0 ∧
          t.dev.mbbusy = false ∧ t.dev.keys.find (keyId (x 34) (x 32) (x 33) (x 35)) = some ⟨BitVec.ofNat 256 (bytesVal (r.take 32)), 0⟩)) ∧
      (let x (i : Nat) : Nat := (s.byte (b + i)).toNat
       let right : Prop := x 0 ≤ 63 ∧ x 1 ≤ 7 ∧ x 2 ≤ 1 ∧ x 3 ≤ 1 ∧ ∀ i, 4 ≤ i → i < 128 → x i = 0
       (¬right → exec .keyretire s = .next { s with dev := { s.dev with mbstat := 3, mbbusy := false } }) ∧
       (right → exec .keyretire s = .next { s with dev := { s.dev with
         mbstat := 0, mbbusy := false, keys := s.dev.keys.del (keyId (x 2) (x 0) (x 1) (x 3)) } })))) ∧
  (∀ s : State, let g := fld (s.reg 0x339) 0 32
    let a := s.pgAt g
    let ctl (k : Nat) : W64 := setFld (setFld (s.reg 0x33A) 63 1 0) 8 8 k
    let Refused (i : Instr) : Prop := ∃ t, exec i s = .next t ∧ t = { s with regs := t.regs } ∧ t.reg 0x33A = ctl 1 ∧ ∀ n, n ≠ 0x33A → t.reg n = s.reg n
    (s.pgCount ≤ g ∨ s.pgF g 4 1 ≠ 1 → Refused .seal) ∧
    (s.wf → g < s.pgCount → s.pgF g 4 1 = 1 → ∃ t, exec .seal s = .next t ∧ t = { s with mem := t.mem, regs := t.regs } ∧ t.reg 0x33A = ctl 0 ∧
      t.byte (a + 4) = 2 ∧ ∀ b, b ≠ a + 4 → t.byte b = s.byte b) ∧
    (s.pgCount ≤ g ∨ (s.pgF g 4 1 ≠ 1 ∧ s.pgF g 4 1 ≠ 2) → Refused .lost) ∧
    (∀ j, s.wf → g < s.pgCount → s.pgF g 4 1 = 1 → s.pgSpare g = some j → ∃ t, exec .lost s = .next t ∧ t.reg 0x33A = ctl 0 ∧ t.pgF g 4 1 = 3 ∧
      t.pgF g 5 1 = fld (s.reg 0x339) 32 3 ∧ t.pgF g 0x68 8 = (s.reg 0x302).toNat ∧ t.pgF g 0x78 4 = 0 ∧ (∃ f, t.dev.fills.find g = some f ∧ f.spare = j ∧ f.row = 0) ∧
      ∀ b, b < a ∨ a + 128 ≤ b → t.byte b = s.byte b) ∧
    (s.wf → g < s.pgCount → s.pgF g 4 1 = 2 → s.pgCmds g = [] → ∃ t, exec .lost s = .next t ∧ t.reg 0x33A = ctl 2 ∧ t.pgF g 4 1 = 4 ∧
      ∀ b, b ≠ a + 4 → t.byte b = s.byte b)) ∧
  (∀ s : State, let g := s.unit
    (s.pgCount ≤ g ∨ s.pgF g 4 1 ≠ 2 → NoEffect s .sealComplete) ∧
    (s.dev.fills.find g = none ∨ s.pgCount ≤ g ∨ s.pgF g 4 1 ≠ 3 → NoEffect s .parityFillComplete) ∧
    (s.wf → g < s.pgCount → s.pgF g 4 1 = 2 → ∃ t, exec .sealComplete s = .next t ∧ t.pgF g 4 1 = 1) ∧
    (∀ f, s.wf → g < s.pgCount → s.pgF g 4 1 = 3 → s.dev.fills.find g = some f →
      (s.pgMoved g f = true → ∃ t, exec .parityFillComplete s = .next t ∧ t.pgF g 0x78 4 = 0 ∧
        t.dev.fills.find g = some ⟨f.spare, (List.range 8).map (s.pgMemb g), 0⟩) ∧
      (s.pgMoved g f = false → s.arg ≠ 0 → f.row + 32 * s.arg < s.pgF g 8 8 → ∃ t, exec .parityFillComplete s = .next t ∧
        t.pgF g 0x78 4 = (f.row + 32 * s.arg) % 2 ^ 32 ∧ t.dev.fills.find g = some { f with row := f.row + 32 * s.arg }) ∧
      (s.pgMoved g f = false → s.arg = 0 ∨ s.pgF g 8 8 ≤ f.row + 32 * s.arg → ∃ t, exec .parityFillComplete s = .next t ∧ t.pgF g 4 1 = 1 ∧
        t.pgF g 5 1 = 0xFF ∧ t.dev.fills = s.dev.fills.del g)) ∧
    ∀ (r : Nat) (l : List Nat), let at' (i : Nat) : W64 := s.pgMemb g i + BitVec.ofNat 64 (128 * r)
      (∀ i ∈ l, devOf (at' i) = s.dev.devid.toNat ∧ Plain s (localOf (at' i)) ∧ s.isPoison (localOf (at' i)) = false) → bit (s.reg 0x301) 63 = false →
      s.pgXor g r l = (s, l.foldr (fun i x => s.rawRow (localOf (at' i)) ^^^ x) 0, false)) ∧
  (∀ s : State, let n := fld (s.reg 0x332) 0 13
    let base := localOf (s.reg 0x336) / 128 * 128
    let d := s.engReads ((List.range ((512 + 32 * n + 127) / 128)).map fun k => s.here (base + 128 * k))
    let x := packRegs 1024 (fun i => (d.2.1.getD i 0).toNat) d.2.1.length % 2 ^ (8 * (512 + 32 * n))
    let right : Prop := d.2.2 = false ∧ bitsOf x 224 32 = n ∧ (crc32c (x - bitsOf x 256 32 * 2 ^ 256) (512 + 32 * n)).toNat = bitsOf x 256 32
    (∀ v, bit (s.reg 0x337) 63 = true → s.writeDevHigh 0x337 v = s) ∧
    (s.dev.recon = [] → ¬right → ∃ t, exec .recctlGo s = .next t ∧ t.reg 0x337 = 2 * 2 ^ 48) ∧
    (s.dev.recon = [] → right → d.1 = s → (∃ k, k < n ∧ s.bytes (s.strEntry k + 0x15) 1 / 4 % 2 = 1) →
      exec .recctlGo s = .next (s.setReg 0x337 (BitVec.ofNat 64 (3 * 2 ^ 48)))) ∧
    (s.dev.recon = [] → right → n = 0 → bitsOf x 192 16 = 0 → ∃ t, exec .recctlGo s = .next t ∧ t.reg 0x337 = 0) ∧
    (s.dev.recon ≠ [] → ∃ t, exec .recctlGo s = .next t ∧ t.dev.recon = [] ∧ bit (t.reg 0x337) 63 = false ∧ fld (t.reg 0x337) 48 8 = 1) ∧
    ∀ (c : Nat) (k v : Nat), s.dev.recon = [(k, BitVec.ofNat 64 v)] → bit (s.ctx c).csr.rngsel 63 = true → fld (s.ctx c).csr.rngsel 0 12 = k →
      (s.ctxs.find c).isSome = true → (s.ctx c).rngWait = false → ∃ t, exec .recctlGo s = .next t ∧ (t.ctx c).rngCtr = BitVec.ofNat 64 v ∧
        bit (t.ctx c).csr.rngsel 62 = false ∧ bit (t.ctx c).csr.rngsel 63 = true) ∧
  ∀ s : State, ((s.core s.unit).recE = none → NoEffect s .unpickEntry) ∧
    ∀ r, (s.core s.unit).recE = some r → (r.status.isSome = true ∨ s.haltedCmd r.c = true → NoEffect s .unpickEntry) ∧
      (r.status = none → s.haltedCmd r.c = false → r.prog = noEntry → (s.unpickOpen s.unit r).2.status = none →
        ∃ t, exec .unpickEntry s = .next t ∧ (t.core s.unit).recE = some (s.unpickOpen s.unit r).2) ∧
      (r.status = none → s.haltedCmd r.c = false → r.prog ≠ noEntry →
        (s.ukEntry s.unit r r.prog = .pause → exec .unpickEntry s = .next (s.setEng s.unit .record (some { r with paused := true }))) ∧
        (∀ u st, s.ukEntry s.unit r r.prog = .stop u st → exec .unpickEntry s = .next (u.unpickEnd s.unit r st)) ∧
        ∀ u rows v0 v1 x y, s.ukEntry s.unit r r.prog = .ok u rows x y → slotView r.gm (rows.headD 0) 0 = .ok v0 →
          (if enQld (rows.headD 0) then .ok none else slotView r.gm (rows.headD 0) 1) = .ok v1 → slotView r.gm (rows.headD 0) 3 = .ok none →
          exec .unpickEntry s = .next (u.unpickNext s.unit { r with paused := false, count := r.count + 1 } (rows.headD 0)) ∧
          (aF r 0x10 8 < enSeq (rows.headD 0) → trF (rows.headD 0) 0x18 8 ≠ 2 ^ 64 - 1 →
            ((u.unpickNext s.unit r (rows.headD 0)).core s.unit).recE = some { r with prog := enPrev (rows.headD 0) }))
end

