-- ==== Sys2Proof/Laws/State.lean ====
section
/-! SUPPORT. One equation per field and update of the state, and what reading a part back after writing it gives. -/

namespace Sys2Proof

/-- Reading a table back at the key written. -/
@[simp] theorem AMap.get_put_same {α : Type} (d : α) (k : Nat) (v : α) (m : AMap α) : (AMap.put k v m).get d k = v := by
  induction m with
  | nil => simp [AMap.put, AMap.get]
  | cons e m ih =>
    obtain ⟨k', v'⟩ := e
    simp only [AMap.put]
    split
    · simp [AMap.get]
    · split <;> simp_all [AMap.get]

/-- Reading a table at another key. -/
theorem AMap.get_put_ne {α : Type} (d : α) {k k' : Nat} (h : k' ≠ k) (v : α) (m : AMap α) :
    (AMap.put k v m).get d k' = AMap.get d k' m := by
  induction m with
  | nil => simp [AMap.put, AMap.get, h]
  | cons e m ih =>
    obtain ⟨k2, v2⟩ := e
    simp only [AMap.put]
    split
    · simp [AMap.get, h]
    · split
      · subst_vars; simp [AMap.get, h]
      · simp [AMap.get, ih]

@[simp] theorem AMap.find_put_same {α : Type} (k : Nat) (v : α) (m : AMap α) : (AMap.put k v m).find k = some v := by
  induction m with
  | nil => simp [AMap.put, AMap.find]
  | cons e m ih =>
    obtain ⟨k', v'⟩ := e
    simp only [AMap.put]
    split
    · simp [AMap.find]
    · split <;> simp_all [AMap.find]

theorem AMap.find_put_ne {α : Type} {k k' : Nat} (h : k' ≠ k) (v : α) (m : AMap α) :
    (AMap.put k v m).find k' = AMap.find k' m := by
  induction m with
  | nil => simp [AMap.put, AMap.find, h]
  | cons e m ih =>
    obtain ⟨k2, v2⟩ := e
    simp only [AMap.put]
    split
    · simp [AMap.find, h]
    · split
      · subst_vars; simp [AMap.find, h]
      · simp [AMap.find, ih]

end Sys2Proof

namespace Sys2Proof.Machine

@[simp] theorem State.setCtx_dev (s : State) (n : Nat) (c : Ctx) : (s.setCtx n c).dev = s.dev := rfl
@[simp] theorem State.setCtx_map (s : State) (n : Nat) (c : Ctx) : (s.setCtx n c).map = s.map := rfl
@[simp] theorem State.setCtx_mem (s : State) (n : Nat) (c : Ctx) : (s.setCtx n c).mem = s.mem := rfl
@[simp] theorem State.setCtx_poison (s : State) (n : Nat) (c : Ctx) : (s.setCtx n c).poison = s.poison := rfl
@[simp] theorem State.setCtx_hostMem (s : State) (n : Nat) (c : Ctx) : (s.setCtx n c).hostMem = s.hostMem := rfl
@[simp] theorem State.setCtx_regs (s : State) (n : Nat) (c : Ctx) : (s.setCtx n c).regs = s.regs := rfl
@[simp] theorem State.setCtx_sync (s : State) (n : Nat) (c : Ctx) : (s.setCtx n c).sync = s.sync := rfl
@[simp] theorem State.setCtx_ctxs (s : State) (n : Nat) (c : Ctx) : (s.setCtx n c).ctxs = s.ctxs.put n c := rfl
@[simp] theorem State.setCtx_cores (s : State) (n : Nat) (c : Ctx) : (s.setCtx n c).cores = s.cores := rfl
@[simp] theorem State.setCtx_dies (s : State) (n : Nat) (c : Ctx) : (s.setCtx n c).dies = s.dies := rfl
@[simp] theorem State.setCtx_timed (s : State) (n : Nat) (c : Ctx) : (s.setCtx n c).timed = s.timed := rfl
@[simp] theorem State.setCtx_txs (s : State) (n : Nat) (c : Ctx) : (s.setCtx n c).txs = s.txs := rfl
@[simp] theorem State.setCtx_rxs (s : State) (n : Nat) (c : Ctx) : (s.setCtx n c).rxs = s.rxs := rfl
@[simp] theorem State.setCtx_links (s : State) (n : Nat) (c : Ctx) : (s.setCtx n c).links = s.links := rfl
@[simp] theorem State.setCtx_planTx (s : State) (n : Nat) (c : Ctx) : (s.setCtx n c).planTx = s.planTx := rfl
@[simp] theorem State.setCtx_planRx (s : State) (n : Nat) (c : Ctx) : (s.setCtx n c).planRx = s.planRx := rfl
@[simp] theorem State.setCtx_wp (s : State) (n : Nat) (c : Ctx) : (s.setCtx n c).wp = s.wp := rfl
@[simp] theorem State.setCtx_seams (s : State) (n : Nat) (c : Ctx) : (s.setCtx n c).seams = s.seams := rfl
@[simp] theorem State.setCtx_treeWin (s : State) (n : Nat) (c : Ctx) : (s.setCtx n c).treeWin = s.treeWin := rfl
@[simp] theorem State.setCtx_posted (s : State) (n : Nat) (c : Ctx) : (s.setCtx n c).posted = s.posted := rfl
@[simp] theorem State.setCtx_etab (s : State) (n : Nat) (c : Ctx) : (s.setCtx n c).etab = s.etab := rfl
@[simp] theorem State.setCtx_qb (s : State) (n : Nat) (c : Ctx) : (s.setCtx n c).qb = s.qb := rfl
@[simp] theorem State.setCtx_rings (s : State) (n : Nat) (c : Ctx) : (s.setCtx n c).rings = s.rings := rfl
@[simp] theorem State.setCtx_queues (s : State) (n : Nat) (c : Ctx) : (s.setCtx n c).queues = s.queues := rfl
@[simp] theorem State.setCtx_cmds (s : State) (n : Nat) (c : Ctx) : (s.setCtx n c).cmds = s.cmds := rfl
@[simp] theorem State.setCtx_share (s : State) (n : Nat) (c : Ctx) : (s.setCtx n c).share = s.share := rfl
@[simp] theorem State.setCtx_variants (s : State) (n : Nat) (c : Ctx) : (s.setCtx n c).variants = s.variants := rfl
@[simp] theorem State.setCtx_groups (s : State) (n : Nat) (c : Ctx) : (s.setCtx n c).groups = s.groups := rfl
@[simp] theorem State.setCtx_entries (s : State) (n : Nat) (c : Ctx) : (s.setCtx n c).entries = s.entries := rfl
@[simp] theorem State.setCtx_saves (s : State) (n : Nat) (c : Ctx) : (s.setCtx n c).saves = s.saves := rfl
@[simp] theorem State.setCtx_serial (s : State) (n : Nat) (c : Ctx) : (s.setCtx n c).serial = s.serial := rfl
@[simp] theorem State.setCtx_cur (s : State) (n : Nat) (c : Ctx) : (s.setCtx n c).cur = s.cur := rfl
@[simp] theorem State.setCtx_turn (s : State) (n : Nat) (c : Ctx) : (s.setCtx n c).turn = s.turn := rfl
@[simp] theorem State.setCtx_cycle (s : State) (n : Nat) (c : Ctx) : (s.setCtx n c).cycle = s.cycle := rfl
@[simp] theorem State.setCtx_agenda (s : State) (n : Nat) (c : Ctx) : (s.setCtx n c).agenda = s.agenda := rfl
@[simp] theorem State.setCtx_pend (s : State) (n : Nat) (c : Ctx) : (s.setCtx n c).pend = s.pend := rfl
@[simp] theorem State.setCtx_unit (s : State) (n : Nat) (c : Ctx) : (s.setCtx n c).unit = s.unit := rfl
@[simp] theorem State.setCtx_arg (s : State) (n : Nat) (c : Ctx) : (s.setCtx n c).arg = s.arg := rfl

@[simp] theorem State.modCtx_dev (s : State) (n : Nat) (f : Ctx → Ctx) : (s.modCtx n f).dev = s.dev := rfl
@[simp] theorem State.modCtx_map (s : State) (n : Nat) (f : Ctx → Ctx) : (s.modCtx n f).map = s.map := rfl
@[simp] theorem State.modCtx_mem (s : State) (n : Nat) (f : Ctx → Ctx) : (s.modCtx n f).mem = s.mem := rfl
@[simp] theorem State.modCtx_poison (s : State) (n : Nat) (f : Ctx → Ctx) : (s.modCtx n f).poison = s.poison := rfl
@[simp] theorem State.modCtx_hostMem (s : State) (n : Nat) (f : Ctx → Ctx) : (s.modCtx n f).hostMem = s.hostMem := rfl
@[simp] theorem State.modCtx_regs (s : State) (n : Nat) (f : Ctx → Ctx) : (s.modCtx n f).regs = s.regs := rfl
@[simp] theorem State.modCtx_sync (s : State) (n : Nat) (f : Ctx → Ctx) : (s.modCtx n f).sync = s.sync := rfl
@[simp] theorem State.modCtx_ctxs (s : State) (n : Nat) (f : Ctx → Ctx) : (s.modCtx n f).ctxs = s.ctxs.put n (f (s.ctx n)) := rfl
@[simp] theorem State.modCtx_cores (s : State) (n : Nat) (f : Ctx → Ctx) : (s.modCtx n f).cores = s.cores := rfl
@[simp] theorem State.modCtx_dies (s : State) (n : Nat) (f : Ctx → Ctx) : (s.modCtx n f).dies = s.dies := rfl
@[simp] theorem State.modCtx_timed (s : State) (n : Nat) (f : Ctx → Ctx) : (s.modCtx n f).timed = s.timed := rfl
@[simp] theorem State.modCtx_txs (s : State) (n : Nat) (f : Ctx → Ctx) : (s.modCtx n f).txs = s.txs := rfl
@[simp] theorem State.modCtx_rxs (s : State) (n : Nat) (f : Ctx → Ctx) : (s.modCtx n f).rxs = s.rxs := rfl
@[simp] theorem State.modCtx_links (s : State) (n : Nat) (f : Ctx → Ctx) : (s.modCtx n f).links = s.links := rfl
@[simp] theorem State.modCtx_planTx (s : State) (n : Nat) (f : Ctx → Ctx) : (s.modCtx n f).planTx = s.planTx := rfl
@[simp] theorem State.modCtx_planRx (s : State) (n : Nat) (f : Ctx → Ctx) : (s.modCtx n f).planRx = s.planRx := rfl
@[simp] theorem State.modCtx_wp (s : State) (n : Nat) (f : Ctx → Ctx) : (s.modCtx n f).wp = s.wp := rfl
@[simp] theorem State.modCtx_seams (s : State) (n : Nat) (f : Ctx → Ctx) : (s.modCtx n f).seams = s.seams := rfl
@[simp] theorem State.modCtx_treeWin (s : State) (n : Nat) (f : Ctx → Ctx) : (s.modCtx n f).treeWin = s.treeWin := rfl
@[simp] theorem State.modCtx_posted (s : State) (n : Nat) (f : Ctx → Ctx) : (s.modCtx n f).posted = s.posted := rfl
@[simp] theorem State.modCtx_etab (s : State) (n : Nat) (f : Ctx → Ctx) : (s.modCtx n f).etab = s.etab := rfl
@[simp] theorem State.modCtx_qb (s : State) (n : Nat) (f : Ctx → Ctx) : (s.modCtx n f).qb = s.qb := rfl
@[simp] theorem State.modCtx_rings (s : State) (n : Nat) (f : Ctx → Ctx) : (s.modCtx n f).rings = s.rings := rfl
@[simp] theorem State.modCtx_queues (s : State) (n : Nat) (f : Ctx → Ctx) : (s.modCtx n f).queues = s.queues := rfl
@[simp] theorem State.modCtx_cmds (s : State) (n : Nat) (f : Ctx → Ctx) : (s.modCtx n f).cmds = s.cmds := rfl
@[simp] theorem State.modCtx_share (s : State) (n : Nat) (f : Ctx → Ctx) : (s.modCtx n f).share = s.share := rfl
@[simp] theorem State.modCtx_variants (s : State) (n : Nat) (f : Ctx → Ctx) : (s.modCtx n f).variants = s.variants := rfl
@[simp] theorem State.modCtx_groups (s : State) (n : Nat) (f : Ctx → Ctx) : (s.modCtx n f).groups = s.groups := rfl
@[simp] theorem State.modCtx_entries (s : State) (n : Nat) (f : Ctx → Ctx) : (s.modCtx n f).entries = s.entries := rfl
@[simp] theorem State.modCtx_saves (s : State) (n : Nat) (f : Ctx → Ctx) : (s.modCtx n f).saves = s.saves := rfl
@[simp] theorem State.modCtx_serial (s : State) (n : Nat) (f : Ctx → Ctx) : (s.modCtx n f).serial = s.serial := rfl
@[simp] theorem State.modCtx_cur (s : State) (n : Nat) (f : Ctx → Ctx) : (s.modCtx n f).cur = s.cur := rfl
@[simp] theorem State.modCtx_turn (s : State) (n : Nat) (f : Ctx → Ctx) : (s.modCtx n f).turn = s.turn := rfl
@[simp] theorem State.modCtx_cycle (s : State) (n : Nat) (f : Ctx → Ctx) : (s.modCtx n f).cycle = s.cycle := rfl
@[simp] theorem State.modCtx_agenda (s : State) (n : Nat) (f : Ctx → Ctx) : (s.modCtx n f).agenda = s.agenda := rfl
@[simp] theorem State.modCtx_pend (s : State) (n : Nat) (f : Ctx → Ctx) : (s.modCtx n f).pend = s.pend := rfl
@[simp] theorem State.modCtx_unit (s : State) (n : Nat) (f : Ctx → Ctx) : (s.modCtx n f).unit = s.unit := rfl
@[simp] theorem State.modCtx_arg (s : State) (n : Nat) (f : Ctx → Ctx) : (s.modCtx n f).arg = s.arg := rfl

@[simp] theorem State.setCore_dev (s : State) (n : Nat) (c : Core) : (s.setCore n c).dev = s.dev := rfl
@[simp] theorem State.setCore_map (s : State) (n : Nat) (c : Core) : (s.setCore n c).map = s.map := rfl
@[simp] theorem State.setCore_mem (s : State) (n : Nat) (c : Core) : (s.setCore n c).mem = s.mem := rfl
@[simp] theorem State.setCore_poison (s : State) (n : Nat) (c : Core) : (s.setCore n c).poison = s.poison := rfl
@[simp] theorem State.setCore_hostMem (s : State) (n : Nat) (c : Core) : (s.setCore n c).hostMem = s.hostMem := rfl
@[simp] theorem State.setCore_regs (s : State) (n : Nat) (c : Core) : (s.setCore n c).regs = s.regs := rfl
@[simp] theorem State.setCore_sync (s : State) (n : Nat) (c : Core) : (s.setCore n c).sync = s.sync := rfl
@[simp] theorem State.setCore_ctxs (s : State) (n : Nat) (c : Core) : (s.setCore n c).ctxs = s.ctxs := rfl
@[simp] theorem State.setCore_cores (s : State) (n : Nat) (c : Core) : (s.setCore n c).cores = s.cores.put n c := rfl
@[simp] theorem State.setCore_dies (s : State) (n : Nat) (c : Core) : (s.setCore n c).dies = s.dies := rfl
@[simp] theorem State.setCore_timed (s : State) (n : Nat) (c : Core) : (s.setCore n c).timed = s.timed := rfl
@[simp] theorem State.setCore_txs (s : State) (n : Nat) (c : Core) : (s.setCore n c).txs = s.txs := rfl
@[simp] theorem State.setCore_rxs (s : State) (n : Nat) (c : Core) : (s.setCore n c).rxs = s.rxs := rfl
@[simp] theorem State.setCore_links (s : State) (n : Nat) (c : Core) : (s.setCore n c).links = s.links := rfl
@[simp] theorem State.setCore_planTx (s : State) (n : Nat) (c : Core) : (s.setCore n c).planTx = s.planTx := rfl
@[simp] theorem State.setCore_planRx (s : State) (n : Nat) (c : Core) : (s.setCore n c).planRx = s.planRx := rfl
@[simp] theorem State.setCore_wp (s : State) (n : Nat) (c : Core) : (s.setCore n c).wp = s.wp := rfl
@[simp] theorem State.setCore_seams (s : State) (n : Nat) (c : Core) : (s.setCore n c).seams = s.seams := rfl
@[simp] theorem State.setCore_treeWin (s : State) (n : Nat) (c : Core) : (s.setCore n c).treeWin = s.treeWin := rfl
@[simp] theorem State.setCore_posted (s : State) (n : Nat) (c : Core) : (s.setCore n c).posted = s.posted := rfl
@[simp] theorem State.setCore_etab (s : State) (n : Nat) (c : Core) : (s.setCore n c).etab = s.etab := rfl
@[simp] theorem State.setCore_qb (s : State) (n : Nat) (c : Core) : (s.setCore n c).qb = s.qb := rfl
@[simp] theorem State.setCore_rings (s : State) (n : Nat) (c : Core) : (s.setCore n c).rings = s.rings := rfl
@[simp] theorem State.setCore_queues (s : State) (n : Nat) (c : Core) : (s.setCore n c).queues = s.queues := rfl
@[simp] theorem State.setCore_cmds (s : State) (n : Nat) (c : Core) : (s.setCore n c).cmds = s.cmds := rfl
@[simp] theorem State.setCore_share (s : State) (n : Nat) (c : Core) : (s.setCore n c).share = s.share := rfl
@[simp] theorem State.setCore_variants (s : State) (n : Nat) (c : Core) : (s.setCore n c).variants = s.variants := rfl
@[simp] theorem State.setCore_groups (s : State) (n : Nat) (c : Core) : (s.setCore n c).groups = s.groups := rfl
@[simp] theorem State.setCore_entries (s : State) (n : Nat) (c : Core) : (s.setCore n c).entries = s.entries := rfl
@[simp] theorem State.setCore_saves (s : State) (n : Nat) (c : Core) : (s.setCore n c).saves = s.saves := rfl
@[simp] theorem State.setCore_serial (s : State) (n : Nat) (c : Core) : (s.setCore n c).serial = s.serial := rfl
@[simp] theorem State.setCore_cur (s : State) (n : Nat) (c : Core) : (s.setCore n c).cur = s.cur := rfl
@[simp] theorem State.setCore_turn (s : State) (n : Nat) (c : Core) : (s.setCore n c).turn = s.turn := rfl
@[simp] theorem State.setCore_cycle (s : State) (n : Nat) (c : Core) : (s.setCore n c).cycle = s.cycle := rfl
@[simp] theorem State.setCore_agenda (s : State) (n : Nat) (c : Core) : (s.setCore n c).agenda = s.agenda := rfl
@[simp] theorem State.setCore_pend (s : State) (n : Nat) (c : Core) : (s.setCore n c).pend = s.pend := rfl
@[simp] theorem State.setCore_unit (s : State) (n : Nat) (c : Core) : (s.setCore n c).unit = s.unit := rfl
@[simp] theorem State.setCore_arg (s : State) (n : Nat) (c : Core) : (s.setCore n c).arg = s.arg := rfl

@[simp] theorem State.modCore_dev (s : State) (n : Nat) (f : Core → Core) : (s.modCore n f).dev = s.dev := rfl
@[simp] theorem State.modCore_map (s : State) (n : Nat) (f : Core → Core) : (s.modCore n f).map = s.map := rfl
@[simp] theorem State.modCore_mem (s : State) (n : Nat) (f : Core → Core) : (s.modCore n f).mem = s.mem := rfl
@[simp] theorem State.modCore_poison (s : State) (n : Nat) (f : Core → Core) : (s.modCore n f).poison = s.poison := rfl
@[simp] theorem State.modCore_hostMem (s : State) (n : Nat) (f : Core → Core) : (s.modCore n f).hostMem = s.hostMem := rfl
@[simp] theorem State.modCore_regs (s : State) (n : Nat) (f : Core → Core) : (s.modCore n f).regs = s.regs := rfl
@[simp] theorem State.modCore_sync (s : State) (n : Nat) (f : Core → Core) : (s.modCore n f).sync = s.sync := rfl
@[simp] theorem State.modCore_ctxs (s : State) (n : Nat) (f : Core → Core) : (s.modCore n f).ctxs = s.ctxs := rfl
@[simp] theorem State.modCore_cores (s : State) (n : Nat) (f : Core → Core) : (s.modCore n f).cores = s.cores.put n (f (s.core n)) := rfl
@[simp] theorem State.modCore_dies (s : State) (n : Nat) (f : Core → Core) : (s.modCore n f).dies = s.dies := rfl
@[simp] theorem State.modCore_timed (s : State) (n : Nat) (f : Core → Core) : (s.modCore n f).timed = s.timed := rfl
@[simp] theorem State.modCore_txs (s : State) (n : Nat) (f : Core → Core) : (s.modCore n f).txs = s.txs := rfl
@[simp] theorem State.modCore_rxs (s : State) (n : Nat) (f : Core → Core) : (s.modCore n f).rxs = s.rxs := rfl
@[simp] theorem State.modCore_links (s : State) (n : Nat) (f : Core → Core) : (s.modCore n f).links = s.links := rfl
@[simp] theorem State.modCore_planTx (s : State) (n : Nat) (f : Core → Core) : (s.modCore n f).planTx = s.planTx := rfl
@[simp] theorem State.modCore_planRx (s : State) (n : Nat) (f : Core → Core) : (s.modCore n f).planRx = s.planRx := rfl
@[simp] theorem State.modCore_wp (s : State) (n : Nat) (f : Core → Core) : (s.modCore n f).wp = s.wp := rfl
@[simp] theorem State.modCore_seams (s : State) (n : Nat) (f : Core → Core) : (s.modCore n f).seams = s.seams := rfl
@[simp] theorem State.modCore_treeWin (s : State) (n : Nat) (f : Core → Core) : (s.modCore n f).treeWin = s.treeWin := rfl
@[simp] theorem State.modCore_posted (s : State) (n : Nat) (f : Core → Core) : (s.modCore n f).posted = s.posted := rfl
@[simp] theorem State.modCore_etab (s : State) (n : Nat) (f : Core → Core) : (s.modCore n f).etab = s.etab := rfl
@[simp] theorem State.modCore_qb (s : State) (n : Nat) (f : Core → Core) : (s.modCore n f).qb = s.qb := rfl
@[simp] theorem State.modCore_rings (s : State) (n : Nat) (f : Core → Core) : (s.modCore n f).rings = s.rings := rfl
@[simp] theorem State.modCore_queues (s : State) (n : Nat) (f : Core → Core) : (s.modCore n f).queues = s.queues := rfl
@[simp] theorem State.modCore_cmds (s : State) (n : Nat) (f : Core → Core) : (s.modCore n f).cmds = s.cmds := rfl
@[simp] theorem State.modCore_share (s : State) (n : Nat) (f : Core → Core) : (s.modCore n f).share = s.share := rfl
@[simp] theorem State.modCore_variants (s : State) (n : Nat) (f : Core → Core) : (s.modCore n f).variants = s.variants := rfl
@[simp] theorem State.modCore_groups (s : State) (n : Nat) (f : Core → Core) : (s.modCore n f).groups = s.groups := rfl
@[simp] theorem State.modCore_entries (s : State) (n : Nat) (f : Core → Core) : (s.modCore n f).entries = s.entries := rfl
@[simp] theorem State.modCore_saves (s : State) (n : Nat) (f : Core → Core) : (s.modCore n f).saves = s.saves := rfl
@[simp] theorem State.modCore_serial (s : State) (n : Nat) (f : Core → Core) : (s.modCore n f).serial = s.serial := rfl
@[simp] theorem State.modCore_cur (s : State) (n : Nat) (f : Core → Core) : (s.modCore n f).cur = s.cur := rfl
@[simp] theorem State.modCore_turn (s : State) (n : Nat) (f : Core → Core) : (s.modCore n f).turn = s.turn := rfl
@[simp] theorem State.modCore_cycle (s : State) (n : Nat) (f : Core → Core) : (s.modCore n f).cycle = s.cycle := rfl
@[simp] theorem State.modCore_agenda (s : State) (n : Nat) (f : Core → Core) : (s.modCore n f).agenda = s.agenda := rfl
@[simp] theorem State.modCore_pend (s : State) (n : Nat) (f : Core → Core) : (s.modCore n f).pend = s.pend := rfl
@[simp] theorem State.modCore_unit (s : State) (n : Nat) (f : Core → Core) : (s.modCore n f).unit = s.unit := rfl
@[simp] theorem State.modCore_arg (s : State) (n : Nat) (f : Core → Core) : (s.modCore n f).arg = s.arg := rfl

@[simp] theorem State.setDie_dev (s : State) (n : Nat) (d : Die) : (s.setDie n d).dev = s.dev := rfl
@[simp] theorem State.setDie_map (s : State) (n : Nat) (d : Die) : (s.setDie n d).map = s.map := rfl
@[simp] theorem State.setDie_mem (s : State) (n : Nat) (d : Die) : (s.setDie n d).mem = s.mem := rfl
@[simp] theorem State.setDie_poison (s : State) (n : Nat) (d : Die) : (s.setDie n d).poison = s.poison := rfl
@[simp] theorem State.setDie_hostMem (s : State) (n : Nat) (d : Die) : (s.setDie n d).hostMem = s.hostMem := rfl
@[simp] theorem State.setDie_regs (s : State) (n : Nat) (d : Die) : (s.setDie n d).regs = s.regs := rfl
@[simp] theorem State.setDie_sync (s : State) (n : Nat) (d : Die) : (s.setDie n d).sync = s.sync := rfl
@[simp] theorem State.setDie_ctxs (s : State) (n : Nat) (d : Die) : (s.setDie n d).ctxs = s.ctxs := rfl
@[simp] theorem State.setDie_cores (s : State) (n : Nat) (d : Die) : (s.setDie n d).cores = s.cores := rfl
@[simp] theorem State.setDie_dies (s : State) (n : Nat) (d : Die) : (s.setDie n d).dies = s.dies.put n d := rfl
@[simp] theorem State.setDie_timed (s : State) (n : Nat) (d : Die) : (s.setDie n d).timed = s.timed := rfl
@[simp] theorem State.setDie_txs (s : State) (n : Nat) (d : Die) : (s.setDie n d).txs = s.txs := rfl
@[simp] theorem State.setDie_rxs (s : State) (n : Nat) (d : Die) : (s.setDie n d).rxs = s.rxs := rfl
@[simp] theorem State.setDie_links (s : State) (n : Nat) (d : Die) : (s.setDie n d).links = s.links := rfl
@[simp] theorem State.setDie_planTx (s : State) (n : Nat) (d : Die) : (s.setDie n d).planTx = s.planTx := rfl
@[simp] theorem State.setDie_planRx (s : State) (n : Nat) (d : Die) : (s.setDie n d).planRx = s.planRx := rfl
@[simp] theorem State.setDie_wp (s : State) (n : Nat) (d : Die) : (s.setDie n d).wp = s.wp := rfl
@[simp] theorem State.setDie_seams (s : State) (n : Nat) (d : Die) : (s.setDie n d).seams = s.seams := rfl
@[simp] theorem State.setDie_treeWin (s : State) (n : Nat) (d : Die) : (s.setDie n d).treeWin = s.treeWin := rfl
@[simp] theorem State.setDie_posted (s : State) (n : Nat) (d : Die) : (s.setDie n d).posted = s.posted := rfl
@[simp] theorem State.setDie_etab (s : State) (n : Nat) (d : Die) : (s.setDie n d).etab = s.etab := rfl
@[simp] theorem State.setDie_qb (s : State) (n : Nat) (d : Die) : (s.setDie n d).qb = s.qb := rfl
@[simp] theorem State.setDie_rings (s : State) (n : Nat) (d : Die) : (s.setDie n d).rings = s.rings := rfl
@[simp] theorem State.setDie_queues (s : State) (n : Nat) (d : Die) : (s.setDie n d).queues = s.queues := rfl
@[simp] theorem State.setDie_cmds (s : State) (n : Nat) (d : Die) : (s.setDie n d).cmds = s.cmds := rfl
@[simp] theorem State.setDie_share (s : State) (n : Nat) (d : Die) : (s.setDie n d).share = s.share := rfl
@[simp] theorem State.setDie_variants (s : State) (n : Nat) (d : Die) : (s.setDie n d).variants = s.variants := rfl
@[simp] theorem State.setDie_groups (s : State) (n : Nat) (d : Die) : (s.setDie n d).groups = s.groups := rfl
@[simp] theorem State.setDie_entries (s : State) (n : Nat) (d : Die) : (s.setDie n d).entries = s.entries := rfl
@[simp] theorem State.setDie_saves (s : State) (n : Nat) (d : Die) : (s.setDie n d).saves = s.saves := rfl
@[simp] theorem State.setDie_serial (s : State) (n : Nat) (d : Die) : (s.setDie n d).serial = s.serial := rfl
@[simp] theorem State.setDie_cur (s : State) (n : Nat) (d : Die) : (s.setDie n d).cur = s.cur := rfl
@[simp] theorem State.setDie_turn (s : State) (n : Nat) (d : Die) : (s.setDie n d).turn = s.turn := rfl
@[simp] theorem State.setDie_cycle (s : State) (n : Nat) (d : Die) : (s.setDie n d).cycle = s.cycle := rfl
@[simp] theorem State.setDie_agenda (s : State) (n : Nat) (d : Die) : (s.setDie n d).agenda = s.agenda := rfl
@[simp] theorem State.setDie_pend (s : State) (n : Nat) (d : Die) : (s.setDie n d).pend = s.pend := rfl
@[simp] theorem State.setDie_unit (s : State) (n : Nat) (d : Die) : (s.setDie n d).unit = s.unit := rfl
@[simp] theorem State.setDie_arg (s : State) (n : Nat) (d : Die) : (s.setDie n d).arg = s.arg := rfl

@[simp] theorem State.setReg_dev (s : State) (n : Nat) (v : W64) : (s.setReg n v).dev = s.dev := rfl
@[simp] theorem State.setReg_map (s : State) (n : Nat) (v : W64) : (s.setReg n v).map = s.map := rfl
@[simp] theorem State.setReg_mem (s : State) (n : Nat) (v : W64) : (s.setReg n v).mem = s.mem := rfl
@[simp] theorem State.setReg_poison (s : State) (n : Nat) (v : W64) : (s.setReg n v).poison = s.poison := rfl
@[simp] theorem State.setReg_hostMem (s : State) (n : Nat) (v : W64) : (s.setReg n v).hostMem = s.hostMem := rfl
@[simp] theorem State.setReg_regs (s : State) (n : Nat) (v : W64) : (s.setReg n v).regs = s.regs.put n v := rfl
@[simp] theorem State.setReg_sync (s : State) (n : Nat) (v : W64) : (s.setReg n v).sync = s.sync := rfl
@[simp] theorem State.setReg_ctxs (s : State) (n : Nat) (v : W64) : (s.setReg n v).ctxs = s.ctxs := rfl
@[simp] theorem State.setReg_cores (s : State) (n : Nat) (v : W64) : (s.setReg n v).cores = s.cores := rfl
@[simp] theorem State.setReg_dies (s : State) (n : Nat) (v : W64) : (s.setReg n v).dies = s.dies := rfl
@[simp] theorem State.setReg_timed (s : State) (n : Nat) (v : W64) : (s.setReg n v).timed = s.timed := rfl
@[simp] theorem State.setReg_txs (s : State) (n : Nat) (v : W64) : (s.setReg n v).txs = s.txs := rfl
@[simp] theorem State.setReg_rxs (s : State) (n : Nat) (v : W64) : (s.setReg n v).rxs = s.rxs := rfl
@[simp] theorem State.setReg_links (s : State) (n : Nat) (v : W64) : (s.setReg n v).links = s.links := rfl
@[simp] theorem State.setReg_planTx (s : State) (n : Nat) (v : W64) : (s.setReg n v).planTx = s.planTx := rfl
@[simp] theorem State.setReg_planRx (s : State) (n : Nat) (v : W64) : (s.setReg n v).planRx = s.planRx := rfl
@[simp] theorem State.setReg_wp (s : State) (n : Nat) (v : W64) : (s.setReg n v).wp = s.wp := rfl
@[simp] theorem State.setReg_seams (s : State) (n : Nat) (v : W64) : (s.setReg n v).seams = s.seams := rfl
@[simp] theorem State.setReg_treeWin (s : State) (n : Nat) (v : W64) : (s.setReg n v).treeWin = s.treeWin := rfl
@[simp] theorem State.setReg_posted (s : State) (n : Nat) (v : W64) : (s.setReg n v).posted = s.posted := rfl
@[simp] theorem State.setReg_etab (s : State) (n : Nat) (v : W64) : (s.setReg n v).etab = s.etab := rfl
@[simp] theorem State.setReg_qb (s : State) (n : Nat) (v : W64) : (s.setReg n v).qb = s.qb := rfl
@[simp] theorem State.setReg_rings (s : State) (n : Nat) (v : W64) : (s.setReg n v).rings = s.rings := rfl
@[simp] theorem State.setReg_queues (s : State) (n : Nat) (v : W64) : (s.setReg n v).queues = s.queues := rfl
@[simp] theorem State.setReg_cmds (s : State) (n : Nat) (v : W64) : (s.setReg n v).cmds = s.cmds := rfl
@[simp] theorem State.setReg_share (s : State) (n : Nat) (v : W64) : (s.setReg n v).share = s.share := rfl
@[simp] theorem State.setReg_variants (s : State) (n : Nat) (v : W64) : (s.setReg n v).variants = s.variants := rfl
@[simp] theorem State.setReg_groups (s : State) (n : Nat) (v : W64) : (s.setReg n v).groups = s.groups := rfl
@[simp] theorem State.setReg_entries (s : State) (n : Nat) (v : W64) : (s.setReg n v).entries = s.entries := rfl
@[simp] theorem State.setReg_saves (s : State) (n : Nat) (v : W64) : (s.setReg n v).saves = s.saves := rfl
@[simp] theorem State.setReg_serial (s : State) (n : Nat) (v : W64) : (s.setReg n v).serial = s.serial := rfl
@[simp] theorem State.setReg_cur (s : State) (n : Nat) (v : W64) : (s.setReg n v).cur = s.cur := rfl
@[simp] theorem State.setReg_turn (s : State) (n : Nat) (v : W64) : (s.setReg n v).turn = s.turn := rfl
@[simp] theorem State.setReg_cycle (s : State) (n : Nat) (v : W64) : (s.setReg n v).cycle = s.cycle := rfl
@[simp] theorem State.setReg_agenda (s : State) (n : Nat) (v : W64) : (s.setReg n v).agenda = s.agenda := rfl
@[simp] theorem State.setReg_pend (s : State) (n : Nat) (v : W64) : (s.setReg n v).pend = s.pend := rfl
@[simp] theorem State.setReg_unit (s : State) (n : Nat) (v : W64) : (s.setReg n v).unit = s.unit := rfl
@[simp] theorem State.setReg_arg (s : State) (n : Nat) (v : W64) : (s.setReg n v).arg = s.arg := rfl

@[simp] theorem State.putMem_dev (s : State) (a n v : Nat) : (s.putMem a n v).dev = s.dev := rfl
@[simp] theorem State.putMem_map (s : State) (a n v : Nat) : (s.putMem a n v).map = s.map := rfl
@[simp] theorem State.putMem_mem (s : State) (a n v : Nat) : (s.putMem a n v).mem = putBytes a n v s.mem := rfl
@[simp] theorem State.putMem_poison (s : State) (a n v : Nat) : (s.putMem a n v).poison = s.poison := rfl
@[simp] theorem State.putMem_hostMem (s : State) (a n v : Nat) : (s.putMem a n v).hostMem = s.hostMem := rfl
@[simp] theorem State.putMem_regs (s : State) (a n v : Nat) : (s.putMem a n v).regs = s.regs := rfl
@[simp] theorem State.putMem_sync (s : State) (a n v : Nat) : (s.putMem a n v).sync = s.sync := rfl
@[simp] theorem State.putMem_ctxs (s : State) (a n v : Nat) : (s.putMem a n v).ctxs = s.ctxs := rfl
@[simp] theorem State.putMem_cores (s : State) (a n v : Nat) : (s.putMem a n v).cores = s.cores := rfl
@[simp] theorem State.putMem_dies (s : State) (a n v : Nat) : (s.putMem a n v).dies = s.dies := rfl
@[simp] theorem State.putMem_timed (s : State) (a n v : Nat) : (s.putMem a n v).timed = s.timed := rfl
@[simp] theorem State.putMem_txs (s : State) (a n v : Nat) : (s.putMem a n v).txs = s.txs := rfl
@[simp] theorem State.putMem_rxs (s : State) (a n v : Nat) : (s.putMem a n v).rxs = s.rxs := rfl
@[simp] theorem State.putMem_links (s : State) (a n v : Nat) : (s.putMem a n v).links = s.links := rfl
@[simp] theorem State.putMem_planTx (s : State) (a n v : Nat) : (s.putMem a n v).planTx = s.planTx := rfl
@[simp] theorem State.putMem_planRx (s : State) (a n v : Nat) : (s.putMem a n v).planRx = s.planRx := rfl
@[simp] theorem State.putMem_wp (s : State) (a n v : Nat) : (s.putMem a n v).wp = s.wp := rfl
@[simp] theorem State.putMem_seams (s : State) (a n v : Nat) : (s.putMem a n v).seams = s.seams := rfl
@[simp] theorem State.putMem_treeWin (s : State) (a n v : Nat) : (s.putMem a n v).treeWin = s.treeWin := rfl
@[simp] theorem State.putMem_posted (s : State) (a n v : Nat) : (s.putMem a n v).posted = s.posted := rfl
@[simp] theorem State.putMem_etab (s : State) (a n v : Nat) : (s.putMem a n v).etab = s.etab := rfl
@[simp] theorem State.putMem_qb (s : State) (a n v : Nat) : (s.putMem a n v).qb = s.qb := rfl
@[simp] theorem State.putMem_rings (s : State) (a n v : Nat) : (s.putMem a n v).rings = s.rings := rfl
@[simp] theorem State.putMem_queues (s : State) (a n v : Nat) : (s.putMem a n v).queues = s.queues := rfl
@[simp] theorem State.putMem_cmds (s : State) (a n v : Nat) : (s.putMem a n v).cmds = s.cmds := rfl
@[simp] theorem State.putMem_share (s : State) (a n v : Nat) : (s.putMem a n v).share = s.share := rfl
@[simp] theorem State.putMem_variants (s : State) (a n v : Nat) : (s.putMem a n v).variants = s.variants := rfl
@[simp] theorem State.putMem_groups (s : State) (a n v : Nat) : (s.putMem a n v).groups = s.groups := rfl
@[simp] theorem State.putMem_entries (s : State) (a n v : Nat) : (s.putMem a n v).entries = s.entries := rfl
@[simp] theorem State.putMem_saves (s : State) (a n v : Nat) : (s.putMem a n v).saves = s.saves := rfl
@[simp] theorem State.putMem_serial (s : State) (a n v : Nat) : (s.putMem a n v).serial = s.serial := rfl
@[simp] theorem State.putMem_cur (s : State) (a n v : Nat) : (s.putMem a n v).cur = s.cur := rfl
@[simp] theorem State.putMem_turn (s : State) (a n v : Nat) : (s.putMem a n v).turn = s.turn := rfl
@[simp] theorem State.putMem_cycle (s : State) (a n v : Nat) : (s.putMem a n v).cycle = s.cycle := rfl
@[simp] theorem State.putMem_agenda (s : State) (a n v : Nat) : (s.putMem a n v).agenda = s.agenda := rfl
@[simp] theorem State.putMem_pend (s : State) (a n v : Nat) : (s.putMem a n v).pend = s.pend := rfl
@[simp] theorem State.putMem_unit (s : State) (a n v : Nat) : (s.putMem a n v).unit = s.unit := rfl
@[simp] theorem State.putMem_arg (s : State) (a n v : Nat) : (s.putMem a n v).arg = s.arg := rfl

@[simp] theorem State.post_dev (s : State) (u g : Nat) (i : Instr) : (s.post u g i).dev = s.dev := rfl
@[simp] theorem State.post_map (s : State) (u g : Nat) (i : Instr) : (s.post u g i).map = s.map := rfl
@[simp] theorem State.post_mem (s : State) (u g : Nat) (i : Instr) : (s.post u g i).mem = s.mem := rfl
@[simp] theorem State.post_poison (s : State) (u g : Nat) (i : Instr) : (s.post u g i).poison = s.poison := rfl
@[simp] theorem State.post_hostMem (s : State) (u g : Nat) (i : Instr) : (s.post u g i).hostMem = s.hostMem := rfl
@[simp] theorem State.post_regs (s : State) (u g : Nat) (i : Instr) : (s.post u g i).regs = s.regs := rfl
@[simp] theorem State.post_sync (s : State) (u g : Nat) (i : Instr) : (s.post u g i).sync = s.sync := rfl
@[simp] theorem State.post_ctxs (s : State) (u g : Nat) (i : Instr) : (s.post u g i).ctxs = s.ctxs := rfl
@[simp] theorem State.post_cores (s : State) (u g : Nat) (i : Instr) : (s.post u g i).cores = s.cores := rfl
@[simp] theorem State.post_dies (s : State) (u g : Nat) (i : Instr) : (s.post u g i).dies = s.dies := rfl
@[simp] theorem State.post_timed (s : State) (u g : Nat) (i : Instr) : (s.post u g i).timed = s.timed := rfl
@[simp] theorem State.post_txs (s : State) (u g : Nat) (i : Instr) : (s.post u g i).txs = s.txs := rfl
@[simp] theorem State.post_rxs (s : State) (u g : Nat) (i : Instr) : (s.post u g i).rxs = s.rxs := rfl
@[simp] theorem State.post_links (s : State) (u g : Nat) (i : Instr) : (s.post u g i).links = s.links := rfl
@[simp] theorem State.post_planTx (s : State) (u g : Nat) (i : Instr) : (s.post u g i).planTx = s.planTx := rfl
@[simp] theorem State.post_planRx (s : State) (u g : Nat) (i : Instr) : (s.post u g i).planRx = s.planRx := rfl
@[simp] theorem State.post_wp (s : State) (u g : Nat) (i : Instr) : (s.post u g i).wp = s.wp := rfl
@[simp] theorem State.post_seams (s : State) (u g : Nat) (i : Instr) : (s.post u g i).seams = s.seams := rfl
@[simp] theorem State.post_treeWin (s : State) (u g : Nat) (i : Instr) : (s.post u g i).treeWin = s.treeWin := rfl
@[simp] theorem State.post_posted (s : State) (u g : Nat) (i : Instr) : (s.post u g i).posted = s.posted := rfl
@[simp] theorem State.post_etab (s : State) (u g : Nat) (i : Instr) : (s.post u g i).etab = s.etab := rfl
@[simp] theorem State.post_qb (s : State) (u g : Nat) (i : Instr) : (s.post u g i).qb = s.qb := rfl
@[simp] theorem State.post_rings (s : State) (u g : Nat) (i : Instr) : (s.post u g i).rings = s.rings := rfl
@[simp] theorem State.post_queues (s : State) (u g : Nat) (i : Instr) : (s.post u g i).queues = s.queues := rfl
@[simp] theorem State.post_cmds (s : State) (u g : Nat) (i : Instr) : (s.post u g i).cmds = s.cmds := rfl
@[simp] theorem State.post_share (s : State) (u g : Nat) (i : Instr) : (s.post u g i).share = s.share := rfl
@[simp] theorem State.post_variants (s : State) (u g : Nat) (i : Instr) : (s.post u g i).variants = s.variants := rfl
@[simp] theorem State.post_groups (s : State) (u g : Nat) (i : Instr) : (s.post u g i).groups = s.groups := rfl
@[simp] theorem State.post_entries (s : State) (u g : Nat) (i : Instr) : (s.post u g i).entries = s.entries := rfl
@[simp] theorem State.post_saves (s : State) (u g : Nat) (i : Instr) : (s.post u g i).saves = s.saves := rfl
@[simp] theorem State.post_serial (s : State) (u g : Nat) (i : Instr) : (s.post u g i).serial = s.serial := rfl
@[simp] theorem State.post_cur (s : State) (u g : Nat) (i : Instr) : (s.post u g i).cur = s.cur := rfl
@[simp] theorem State.post_turn (s : State) (u g : Nat) (i : Instr) : (s.post u g i).turn = s.turn := rfl
@[simp] theorem State.post_cycle (s : State) (u g : Nat) (i : Instr) : (s.post u g i).cycle = s.cycle := rfl
@[simp] theorem State.post_agenda (s : State) (u g : Nat) (i : Instr) : (s.post u g i).agenda = s.agenda := rfl
@[simp] theorem State.post_pend (s : State) (u g : Nat) (i : Instr) : (s.post u g i).pend = s.pend ++ [.event u g i] := rfl
@[simp] theorem State.post_unit (s : State) (u g : Nat) (i : Instr) : (s.post u g i).unit = s.unit := rfl
@[simp] theorem State.post_arg (s : State) (u g : Nat) (i : Instr) : (s.post u g i).arg = s.arg := rfl

@[simp] theorem State.time_dev (s : State) (t : TAcc) : (s.time t).dev = s.dev := rfl
@[simp] theorem State.time_map (s : State) (t : TAcc) : (s.time t).map = s.map := rfl
@[simp] theorem State.time_mem (s : State) (t : TAcc) : (s.time t).mem = s.mem := rfl
@[simp] theorem State.time_poison (s : State) (t : TAcc) : (s.time t).poison = s.poison := rfl
@[simp] theorem State.time_hostMem (s : State) (t : TAcc) : (s.time t).hostMem = s.hostMem := rfl
@[simp] theorem State.time_regs (s : State) (t : TAcc) : (s.time t).regs = s.regs := rfl
@[simp] theorem State.time_sync (s : State) (t : TAcc) : (s.time t).sync = s.sync := rfl
@[simp] theorem State.time_ctxs (s : State) (t : TAcc) : (s.time t).ctxs = s.ctxs := rfl
@[simp] theorem State.time_cores (s : State) (t : TAcc) : (s.time t).cores = s.cores := rfl
@[simp] theorem State.time_dies (s : State) (t : TAcc) : (s.time t).dies = s.dies := rfl
@[simp] theorem State.time_timed (s : State) (t : TAcc) : (s.time t).timed = s.timed ++ [t] := rfl
@[simp] theorem State.time_txs (s : State) (t : TAcc) : (s.time t).txs = s.txs := rfl
@[simp] theorem State.time_rxs (s : State) (t : TAcc) : (s.time t).rxs = s.rxs := rfl
@[simp] theorem State.time_links (s : State) (t : TAcc) : (s.time t).links = s.links := rfl
@[simp] theorem State.time_planTx (s : State) (t : TAcc) : (s.time t).planTx = s.planTx := rfl
@[simp] theorem State.time_planRx (s : State) (t : TAcc) : (s.time t).planRx = s.planRx := rfl
@[simp] theorem State.time_wp (s : State) (t : TAcc) : (s.time t).wp = s.wp := rfl
@[simp] theorem State.time_seams (s : State) (t : TAcc) : (s.time t).seams = s.seams := rfl
@[simp] theorem State.time_treeWin (s : State) (t : TAcc) : (s.time t).treeWin = s.treeWin := rfl
@[simp] theorem State.time_posted (s : State) (t : TAcc) : (s.time t).posted = s.posted := rfl
@[simp] theorem State.time_etab (s : State) (t : TAcc) : (s.time t).etab = s.etab := rfl
@[simp] theorem State.time_qb (s : State) (t : TAcc) : (s.time t).qb = s.qb := rfl
@[simp] theorem State.time_rings (s : State) (t : TAcc) : (s.time t).rings = s.rings := rfl
@[simp] theorem State.time_queues (s : State) (t : TAcc) : (s.time t).queues = s.queues := rfl
@[simp] theorem State.time_cmds (s : State) (t : TAcc) : (s.time t).cmds = s.cmds := rfl
@[simp] theorem State.time_share (s : State) (t : TAcc) : (s.time t).share = s.share := rfl
@[simp] theorem State.time_variants (s : State) (t : TAcc) : (s.time t).variants = s.variants := rfl
@[simp] theorem State.time_groups (s : State) (t : TAcc) : (s.time t).groups = s.groups := rfl
@[simp] theorem State.time_entries (s : State) (t : TAcc) : (s.time t).entries = s.entries := rfl
@[simp] theorem State.time_saves (s : State) (t : TAcc) : (s.time t).saves = s.saves := rfl
@[simp] theorem State.time_serial (s : State) (t : TAcc) : (s.time t).serial = s.serial := rfl
@[simp] theorem State.time_cur (s : State) (t : TAcc) : (s.time t).cur = s.cur := rfl
@[simp] theorem State.time_turn (s : State) (t : TAcc) : (s.time t).turn = s.turn := rfl
@[simp] theorem State.time_cycle (s : State) (t : TAcc) : (s.time t).cycle = s.cycle := rfl
@[simp] theorem State.time_agenda (s : State) (t : TAcc) : (s.time t).agenda = s.agenda := rfl
@[simp] theorem State.time_pend (s : State) (t : TAcc) : (s.time t).pend = s.pend := rfl
@[simp] theorem State.time_unit (s : State) (t : TAcc) : (s.time t).unit = s.unit := rfl
@[simp] theorem State.time_arg (s : State) (t : TAcc) : (s.time t).arg = s.arg := rfl

@[simp] theorem State.core_at_setCtx (s : State) (n : Nat) (c : Ctx) (m : Nat) : (s.setCtx n c).core m = s.core m := rfl
@[simp] theorem State.die_at_setCtx (s : State) (n : Nat) (c : Ctx) (m : Nat) : (s.setCtx n c).die m = s.die m := rfl
@[simp] theorem State.reg_at_setCtx (s : State) (n : Nat) (c : Ctx) (m : Nat) : (s.setCtx n c).reg m = s.reg m := rfl
@[simp] theorem State.byte_at_setCtx (s : State) (n : Nat) (c : Ctx) (x : Nat) : (s.setCtx n c).byte x = s.byte x := rfl
@[simp] theorem State.bytes_at_setCtx (s : State) (n : Nat) (c : Ctx) (x y : Nat) : (s.setCtx n c).bytes x y = s.bytes x y := rfl
@[simp] theorem State.coreNo_at_setCtx (s : State) (n : Nat) (c : Ctx) : (s.setCtx n c).coreNo = s.coreNo := rfl
@[simp] theorem State.hidden_at_setCtx (s : State) (n : Nat) (c : Ctx) : (s.setCtx n c).hidden = s.hidden := rfl
@[simp] theorem State.act_at_setCtx (s : State) (n : Nat) (c : Ctx) : (s.setCtx n c).act = s.act := rfl

@[simp] theorem State.core_at_modCtx (s : State) (n : Nat) (f : Ctx → Ctx) (m : Nat) : (s.modCtx n f).core m = s.core m := rfl
@[simp] theorem State.die_at_modCtx (s : State) (n : Nat) (f : Ctx → Ctx) (m : Nat) : (s.modCtx n f).die m = s.die m := rfl
@[simp] theorem State.reg_at_modCtx (s : State) (n : Nat) (f : Ctx → Ctx) (m : Nat) : (s.modCtx n f).reg m = s.reg m := rfl
@[simp] theorem State.byte_at_modCtx (s : State) (n : Nat) (f : Ctx → Ctx) (x : Nat) : (s.modCtx n f).byte x = s.byte x := rfl
@[simp] theorem State.bytes_at_modCtx (s : State) (n : Nat) (f : Ctx → Ctx) (x y : Nat) : (s.modCtx n f).bytes x y = s.bytes x y := rfl
@[simp] theorem State.coreNo_at_modCtx (s : State) (n : Nat) (f : Ctx → Ctx) : (s.modCtx n f).coreNo = s.coreNo := rfl
@[simp] theorem State.hidden_at_modCtx (s : State) (n : Nat) (f : Ctx → Ctx) : (s.modCtx n f).hidden = s.hidden := rfl
@[simp] theorem State.act_at_modCtx (s : State) (n : Nat) (f : Ctx → Ctx) : (s.modCtx n f).act = s.act := rfl

@[simp] theorem State.ctx_at_setCore (s : State) (n : Nat) (c : Core) (m : Nat) : (s.setCore n c).ctx m = s.ctx m := rfl
@[simp] theorem State.die_at_setCore (s : State) (n : Nat) (c : Core) (m : Nat) : (s.setCore n c).die m = s.die m := rfl
@[simp] theorem State.reg_at_setCore (s : State) (n : Nat) (c : Core) (m : Nat) : (s.setCore n c).reg m = s.reg m := rfl
@[simp] theorem State.byte_at_setCore (s : State) (n : Nat) (c : Core) (x : Nat) : (s.setCore n c).byte x = s.byte x := rfl
@[simp] theorem State.bytes_at_setCore (s : State) (n : Nat) (c : Core) (x y : Nat) : (s.setCore n c).bytes x y = s.bytes x y := rfl

@[simp] theorem State.ctx_at_modCore (s : State) (n : Nat) (f : Core → Core) (m : Nat) : (s.modCore n f).ctx m = s.ctx m := rfl
@[simp] theorem State.die_at_modCore (s : State) (n : Nat) (f : Core → Core) (m : Nat) : (s.modCore n f).die m = s.die m := rfl
@[simp] theorem State.reg_at_modCore (s : State) (n : Nat) (f : Core → Core) (m : Nat) : (s.modCore n f).reg m = s.reg m := rfl
@[simp] theorem State.byte_at_modCore (s : State) (n : Nat) (f : Core → Core) (x : Nat) : (s.modCore n f).byte x = s.byte x := rfl
@[simp] theorem State.bytes_at_modCore (s : State) (n : Nat) (f : Core → Core) (x y : Nat) : (s.modCore n f).bytes x y = s.bytes x y := rfl

@[simp] theorem State.ctx_at_setDie (s : State) (n : Nat) (d : Die) (m : Nat) : (s.setDie n d).ctx m = s.ctx m := rfl
@[simp] theorem State.core_at_setDie (s : State) (n : Nat) (d : Die) (m : Nat) : (s.setDie n d).core m = s.core m := rfl
@[simp] theorem State.reg_at_setDie (s : State) (n : Nat) (d : Die) (m : Nat) : (s.setDie n d).reg m = s.reg m := rfl
@[simp] theorem State.byte_at_setDie (s : State) (n : Nat) (d : Die) (x : Nat) : (s.setDie n d).byte x = s.byte x := rfl
@[simp] theorem State.bytes_at_setDie (s : State) (n : Nat) (d : Die) (x y : Nat) : (s.setDie n d).bytes x y = s.bytes x y := rfl
@[simp] theorem State.coreNo_at_setDie (s : State) (n : Nat) (d : Die) : (s.setDie n d).coreNo = s.coreNo := rfl
@[simp] theorem State.hidden_at_setDie (s : State) (n : Nat) (d : Die) : (s.setDie n d).hidden = s.hidden := rfl
@[simp] theorem State.act_at_setDie (s : State) (n : Nat) (d : Die) : (s.setDie n d).act = s.act := rfl

@[simp] theorem State.ctx_at_setReg (s : State) (n : Nat) (v : W64) (m : Nat) : (s.setReg n v).ctx m = s.ctx m := rfl
@[simp] theorem State.core_at_setReg (s : State) (n : Nat) (v : W64) (m : Nat) : (s.setReg n v).core m = s.core m := rfl
@[simp] theorem State.die_at_setReg (s : State) (n : Nat) (v : W64) (m : Nat) : (s.setReg n v).die m = s.die m := rfl
@[simp] theorem State.byte_at_setReg (s : State) (n : Nat) (v : W64) (x : Nat) : (s.setReg n v).byte x = s.byte x := rfl
@[simp] theorem State.bytes_at_setReg (s : State) (n : Nat) (v : W64) (x y : Nat) : (s.setReg n v).bytes x y = s.bytes x y := rfl
@[simp] theorem State.coreNo_at_setReg (s : State) (n : Nat) (v : W64) : (s.setReg n v).coreNo = s.coreNo := rfl
@[simp] theorem State.hidden_at_setReg (s : State) (n : Nat) (v : W64) : (s.setReg n v).hidden = s.hidden := rfl
@[simp] theorem State.act_at_setReg (s : State) (n : Nat) (v : W64) : (s.setReg n v).act = s.act := rfl

@[simp] theorem State.ctx_at_putMem (s : State) (a n v : Nat) (m : Nat) : (s.putMem a n v).ctx m = s.ctx m := rfl
@[simp] theorem State.core_at_putMem (s : State) (a n v : Nat) (m : Nat) : (s.putMem a n v).core m = s.core m := rfl
@[simp] theorem State.die_at_putMem (s : State) (a n v : Nat) (m : Nat) : (s.putMem a n v).die m = s.die m := rfl
@[simp] theorem State.reg_at_putMem (s : State) (a n v : Nat) (m : Nat) : (s.putMem a n v).reg m = s.reg m := rfl
@[simp] theorem State.coreNo_at_putMem (s : State) (a n v : Nat) : (s.putMem a n v).coreNo = s.coreNo := rfl
@[simp] theorem State.hidden_at_putMem (s : State) (a n v : Nat) : (s.putMem a n v).hidden = s.hidden := rfl
@[simp] theorem State.act_at_putMem (s : State) (a n v : Nat) : (s.putMem a n v).act = s.act := rfl

@[simp] theorem State.ctx_at_post (s : State) (u g : Nat) (i : Instr) (m : Nat) : (s.post u g i).ctx m = s.ctx m := rfl
@[simp] theorem State.core_at_post (s : State) (u g : Nat) (i : Instr) (m : Nat) : (s.post u g i).core m = s.core m := rfl
@[simp] theorem State.die_at_post (s : State) (u g : Nat) (i : Instr) (m : Nat) : (s.post u g i).die m = s.die m := rfl
@[simp] theorem State.reg_at_post (s : State) (u g : Nat) (i : Instr) (m : Nat) : (s.post u g i).reg m = s.reg m := rfl
@[simp] theorem State.byte_at_post (s : State) (u g : Nat) (i : Instr) (x : Nat) : (s.post u g i).byte x = s.byte x := rfl
@[simp] theorem State.bytes_at_post (s : State) (u g : Nat) (i : Instr) (x y : Nat) : (s.post u g i).bytes x y = s.bytes x y := rfl
@[simp] theorem State.coreNo_at_post (s : State) (u g : Nat) (i : Instr) : (s.post u g i).coreNo = s.coreNo := rfl
@[simp] theorem State.hidden_at_post (s : State) (u g : Nat) (i : Instr) : (s.post u g i).hidden = s.hidden := rfl
@[simp] theorem State.act_at_post (s : State) (u g : Nat) (i : Instr) : (s.post u g i).act = s.act := rfl

@[simp] theorem State.ctx_at_time (s : State) (t : TAcc) (m : Nat) : (s.time t).ctx m = s.ctx m := rfl
@[simp] theorem State.core_at_time (s : State) (t : TAcc) (m : Nat) : (s.time t).core m = s.core m := rfl
@[simp] theorem State.die_at_time (s : State) (t : TAcc) (m : Nat) : (s.time t).die m = s.die m := rfl
@[simp] theorem State.reg_at_time (s : State) (t : TAcc) (m : Nat) : (s.time t).reg m = s.reg m := rfl
@[simp] theorem State.byte_at_time (s : State) (t : TAcc) (x : Nat) : (s.time t).byte x = s.byte x := rfl
@[simp] theorem State.bytes_at_time (s : State) (t : TAcc) (x y : Nat) : (s.time t).bytes x y = s.bytes x y := rfl
@[simp] theorem State.coreNo_at_time (s : State) (t : TAcc) : (s.time t).coreNo = s.coreNo := rfl
@[simp] theorem State.hidden_at_time (s : State) (t : TAcc) : (s.time t).hidden = s.hidden := rfl
@[simp] theorem State.act_at_time (s : State) (t : TAcc) : (s.time t).act = s.act := rfl

@[simp] theorem State.ctx_setCtx_same (s : State) (n : Nat) (c : Ctx) : (s.setCtx n c).ctx n = c := AMap.get_put_same _ _ _ _
theorem State.ctx_setCtx_ne (s : State) {n m : Nat} (h : m ≠ n) (c : Ctx) : (s.setCtx n c).ctx m = s.ctx m := AMap.get_put_ne _ h _ _
@[simp] theorem State.core_setCore_same (s : State) (n : Nat) (c : Core) : (s.setCore n c).core n = c := AMap.get_put_same _ _ _ _
theorem State.core_setCore_ne (s : State) {n m : Nat} (h : m ≠ n) (c : Core) : (s.setCore n c).core m = s.core m := AMap.get_put_ne _ h _ _
@[simp] theorem State.die_setDie_same (s : State) (n : Nat) (d : Die) : (s.setDie n d).die n = d := AMap.get_put_same _ _ _ _
theorem State.die_setDie_ne (s : State) {n m : Nat} (h : m ≠ n) (d : Die) : (s.setDie n d).die m = s.die m := AMap.get_put_ne _ h _ _
@[simp] theorem State.reg_setReg_same (s : State) (n : Nat) (v : W64) : (s.setReg n v).reg n = v := AMap.get_put_same _ _ _ _
theorem State.reg_setReg_ne (s : State) {n m : Nat} (h : m ≠ n) (v : W64) : (s.setReg n v).reg m = s.reg m := AMap.get_put_ne _ h _ _
@[simp] theorem State.ctx_modCtx_same (s : State) (n : Nat) (f : Ctx → Ctx) : (s.modCtx n f).ctx n = f (s.ctx n) := AMap.get_put_same _ _ _ _
theorem State.ctx_modCtx_ne (s : State) {n m : Nat} (h : m ≠ n) (f : Ctx → Ctx) : (s.modCtx n f).ctx m = s.ctx m := AMap.get_put_ne _ h _ _
@[simp] theorem State.core_modCore_same (s : State) (n : Nat) (f : Core → Core) : (s.modCore n f).core n = f (s.core n) := AMap.get_put_same _ _ _ _
theorem State.core_modCore_ne (s : State) {n m : Nat} (h : m ≠ n) (f : Core → Core) : (s.modCore n f).core m = s.core m := AMap.get_put_ne _ h _ _

@[simp] theorem State.modMe_me (s : State) (f : Ctx → Ctx) : (s.modMe f).me = f s.me := State.ctx_modCtx_same s s.act f
@[simp] theorem State.modTgt_tgt (s : State) (f : Ctx → Ctx) : (s.modTgt f).tgt = f s.tgt := State.ctx_modCtx_same s s.cur f

end Sys2Proof.Machine
end

