-- ==== Sys2Proof/Laws/Build.lean ====
section
/-! SUPPORT. What a result built from elements holds, bit by bit (R305, R306). -/

namespace Sys2Proof.Machine

/-- One more field on top of a number that lies below it: its bits, and that the sum stays below the next field. -/
theorem add_field {a b w n : Nat} (ha : a < 2 ^ (w * n)) (hb : b < 2 ^ w) :
    a + b * 2 ^ (w * n) < 2 ^ (w * (n + 1)) ∧
      ∀ i, (a + b * 2 ^ (w * n)).testBit i = if i < w * n then a.testBit i else b.testBit (i - w * n) := by
  constructor
  · rw [Nat.mul_add, Nat.mul_one, Nat.pow_add, Nat.mul_comm (2 ^ (w * n))]
    have : (b + 1) * 2 ^ (w * n) ≤ 2 ^ w * 2 ^ (w * n) := Nat.mul_le_mul_right _ hb
    rw [Nat.add_mul, Nat.one_mul] at this
    omega
  · intro i
    rw [Nat.add_comm, Nat.mul_comm, Nat.testBit_two_pow_mul_add _ ha]

/-- The mask of a built result: the bits of the elements that are on, among the first `n` of width `w`; and it lies below
`2 ^ (w * n)`, as the data does. -/
theorem build_spec (w : Nat) (on : Nat → Bool) (f : Nat → Nat × Nat) (n : Nat) :
    (build w on f n).mask < 2 ^ (w * n) ∧ (build w on f n).data < 2 ^ (w * n) ∧
      ∀ j k, j < n → k < w → (build w on f n).mask.testBit (w * j + k) = on j ∧
        (build w on f n).data.testBit (w * j + k) = (on j && (f j).1.testBit k) := by
  induction n with
  | zero => exact ⟨by simp [build], by simp [build], fun j k h => absurd h (Nat.not_lt_zero _)⟩
  | succ n ih =>
    obtain ⟨hm, hd, hb⟩ := ih
    have low : ∀ j k, j < n → k < w → w * j + k < w * n := by
      intro j k hj hk
      have := Nat.mul_le_mul_left w (Nat.succ_le_of_lt hj)
      rw [Nat.mul_succ] at this; omega
    simp only [build]
    split
    · rename_i hon
      have h1 := add_field hm (b := 2 ^ w - 1) (Nat.sub_lt (Nat.two_pow_pos w) (by decide))
      have h2 := add_field hd (b := (f n).1 % 2 ^ w) (Nat.mod_lt _ (Nat.two_pow_pos w))
      refine ⟨h1.1, h2.1, fun j k hj hk => ?_⟩
      simp only [h1.2, h2.2]
      rcases Nat.lt_or_ge j n with h | h
      · simpa [low j k h hk] using hb j k h hk
      · obtain rfl : j = n := by omega
        have : ¬ w * j + k < w * j := by omega
        simp [this, hon, hk, Nat.testBit_two_pow_sub_one, Nat.testBit_mod_two_pow]
    · rename_i hon
      have up : 2 ^ (w * n) ≤ 2 ^ (w * (n + 1)) := Nat.pow_le_pow_right (by decide) (Nat.mul_le_mul_left _ (by omega))
      refine ⟨Nat.lt_of_lt_of_le hm up, Nat.lt_of_lt_of_le hd up, fun j k hj hk => ?_⟩
      rcases Nat.lt_or_ge j n with h | h
      · exact hb j k h hk
      · obtain rfl : j = n := by omega
        have : ∀ x, x < 2 ^ (w * j) → x.testBit (w * j + k) = false := fun x hx =>
          Nat.testBit_lt_two_pow (Nat.lt_of_lt_of_le hx (Nat.pow_le_pow_right (by decide) (by omega)))
        simp [this _ hm, this _ hd, hon]

/-- The flags of a built result are those that its elements raise. -/
theorem build_flags (w : Nat) (on : Nat → Bool) (f : Nat → Nat × Nat) (n k : Nat) :
    (build w on f n).flags.testBit k = true ↔ ∃ j, j < n ∧ on j = true ∧ (f j).2.testBit k = true := by
  induction n with
  | zero => simp [build]
  | succ n ih =>
    simp only [build]
    split
    · rename_i hon
      simp only [orN, Nat.testBit_or, Bool.or_eq_true, ih]
      constructor
      · rintro (⟨j, h⟩ | h)
        · exact ⟨j, by omega, h.2⟩
        · exact ⟨n, by omega, hon, h⟩
      · rintro ⟨j, hj, h⟩
        rcases Nat.lt_or_ge j n with hlt | hge
        · exact .inl ⟨j, hlt, h⟩
        · obtain rfl : j = n := by omega
          exact .inr h.2
    · rename_i hon
      rw [ih]
      constructor
      · rintro ⟨j, h⟩
        exact ⟨j, by omega, h.2⟩
      · rintro ⟨j, hj, h⟩
        rcases Nat.lt_or_ge j n with hlt | hge
        · exact ⟨j, hlt, h⟩
        · obtain rfl : j = n := by omega
          exact absurd h.1 hon

end Sys2Proof.Machine
end

