-- ==== Sys2Proof/Laws/Memory.lean ====
section
/-! SUPPORT. The memory operations keep the canonical form of memory. -/

namespace Sys2Proof.Machine

theorem wfFrom_mono {lo lo' : Nat} {m : List Host.Cell} (h : lo ≤ lo') (w : Memory.wfFrom lo' m = true) : Memory.wfFrom lo m = true := by
  rcases m with _ | ⟨⟨a, b⟩, m⟩
  · rfl
  · simp only [Memory.wfFrom, Bool.and_eq_true, decide_eq_true_eq] at *; exact ⟨⟨by omega, w.1.2⟩, w.2⟩

theorem wfFrom_dropBelow {lo lo' : Nat} {m : List Host.Cell} (w : Memory.wfFrom lo m = true) : Memory.wfFrom lo' (dropBelow lo' m) = true := by
  induction m generalizing lo with
  | nil => rfl
  | cons c m ih =>
    obtain ⟨a, b⟩ := c
    simp only [Memory.wfFrom, Bool.and_eq_true, decide_eq_true_eq] at w
    simp only [dropBelow]
    split
    · exact ih w.2
    · simp only [Memory.wfFrom, Bool.and_eq_true, decide_eq_true_eq]; exact ⟨⟨by omega, w.1.2⟩, w.2⟩

theorem wfFrom_cellsOf (base v n : Nat) (m : List Host.Cell) (w : Memory.wfFrom (base + n) m = true) :
    Memory.wfFrom base (cellsOf base v n ++ m) = true := by
  induction n generalizing base v with
  | zero => simpa [cellsOf] using w
  | succ n ih =>
    have ih' := ih (base + 1) (v / 256) (by rwa [Nat.add_assoc, Nat.add_comm 1 n])
    simp only [cellsOf]
    split
    · exact wfFrom_mono (by omega) ih'
    · rename_i hv
      simp only [List.cons_append, Memory.wfFrom, Bool.and_eq_true, decide_eq_true_eq, Nat.le_refl, bne_iff_ne, ne_eq, true_and]
      refine ⟨fun h => hv ?_, ih'⟩
      have := congrArg BitVec.toNat h
      simpa using this

theorem wfFrom_putBytes (lo base n v : Nat) (m : List Host.Cell) (hl : lo ≤ base) (w : Memory.wfFrom lo m = true) :
    Memory.wfFrom lo (putBytes base n v m) = true := by
  induction m generalizing lo with
  | nil => simpa [putBytes] using wfFrom_mono hl (wfFrom_cellsOf base v n [] rfl)
  | cons c m ih =>
    obtain ⟨a, b⟩ := c
    simp only [putBytes]
    split
    · simp only [Memory.wfFrom, Bool.and_eq_true, decide_eq_true_eq] at *
      exact ⟨w.1, ih _ (by omega) w.2⟩
    · exact wfFrom_mono hl (wfFrom_cellsOf _ _ _ _ (wfFrom_dropBelow w))

theorem wf_putBytes {base n v : Nat} {m : List Host.Cell} (w : Memory.wf m = true) : Memory.wf (putBytes base n v m) = true :=
  wfFrom_putBytes 0 base n v m (Nat.zero_le _) w

theorem wfFrom_between {lo hi : Nat} {m : List Host.Cell} {k : Nat} (w : Memory.wfFrom k m = true) : Memory.wfFrom k (between lo hi m) = true := by
  induction m generalizing k with
  | nil => rfl
  | cons c m ih =>
    obtain ⟨a, b⟩ := c
    simp only [Memory.wfFrom, Bool.and_eq_true, decide_eq_true_eq] at w
    simp only [between]
    split
    · exact ih (wfFrom_mono (by omega) w.2)
    · split
      · simp only [Memory.wfFrom, Bool.and_eq_true, decide_eq_true_eq]
        exact ⟨w.1, ih w.2⟩
      · rfl

theorem wf_between {lo hi : Nat} {m : List Host.Cell} (w : Memory.wf m = true) : Memory.wf (between lo hi m) = true := wfFrom_between w

/-- Memory at reset lists nothing. -/
theorem reset_wf : State.reset.wf := ⟨rfl, rfl⟩

end Sys2Proof.Machine
end

