-- ==== Sys2Proof/Laws/Ops.lean ====
section
/-! SUPPORT. What the shared operations do, said once: results entering the landing buffer, timed accesses, row addresses and the
issue of a checked operation. -/

namespace Sys2Proof.Machine

/-- A checked operation that finds no trap takes its effect; one that finds one takes the trap at its own bundle. -/
@[simp] theorem issue_none (s eff : State) : issue s none eff = .next eff := rfl
@[simp] theorem issue_some (s eff : State) (t : Nat × Nat) :
    issue s (some t) eff = .next (s.takeTrap t.1 (BitVec.ofNat 64 t.2) s.me.pc) := rfl

/-- A row of timed accesses, placed one after another, is a list at the end. -/
theorem time_foldl (f : Nat → TAcc) (ks : List Nat) (s : State) :
    ks.foldl (fun s k => s.time (f k)) s = { s with timed := s.timed ++ ks.map f } := by
  induction ks generalizing s with
  | nil => simp
  | cons k ks ih => rw [List.foldl_cons, ih]; simp [State.time]

/-- The row address of step `k`, as the sum that it is modulo 2^64. -/
theorem rowK_rowAddr (s : State) (a : MArgs) (stride : Int) (k : Nat) :
    rowK (s.rowAddr a) stride k = ((((s.rdS a.base).toNat : Int) + a.off.toInt + stride * (k : Int)) % 2 ^ 64).toNat := by
  unfold rowK State.rowAddr
  have h : s.rdS a.base + a.off.signExtend 64 + BitVec.ofInt 64 (stride * (k : Int)) =
      BitVec.ofInt 64 (((s.rdS a.base).toNat : Int) + a.off.toInt + stride * (k : Int)) := by
    rw [BitVec.ofInt_add, BitVec.ofInt_add]
    congr 2
    · apply BitVec.eq_of_toNat_eq; simp
  rw [h, BitVec.toNat_ofInt]
  rfl

/-- The same row within the scratchpad. -/
theorem rowK_mod (s : State) (a : MArgs) (stride : Int) (k : Nat) :
    rowK (s.rowAddr a) stride k % Config.spRows =
      ((((s.rdS a.base).toNat : Int) + a.off.toInt + stride * (k : Int)) % 32768).toNat := by
  rw [rowK_rowAddr]
  simp only [Config.spRows]
  omega

/-- Entries of a load join the landing buffer, and the operation counter goes on. -/
theorem newOp_fst (s : State) : s.newOp.1 = s.modMe fun c => { c with ops := c.ops + 1 } := rfl
@[simp] theorem newOp_snd (s : State) : s.newOp.2 = s.me.ops + 1 := rfl

theorem crc64Bit_lt (c : Nat) : crc64Bit c < 2 ^ 64 := by
  unfold crc64Bit
  split
  · exact Nat.xor_lt_two_pow (Nat.mod_lt (c * 2) (by decide)) (by decide)
  · omega
theorem crc64Byte_lt (c b : Nat) : crc64Byte c b < 2 ^ 64 := by
  unfold crc64Byte; exact crc64Bit_lt _
theorem crc64From_lt (n : Nat) : ∀ c x, c < 2 ^ 64 → crc64From c x n < 2 ^ 64 := by
  induction n with
  | zero => intro c x h; unfold crc64From; exact h
  | succ n ih => intro c x _; unfold crc64From; exact ih _ _ (crc64Byte_lt _ _)
/-- A CRC has 64 bits. -/
theorem flitCrc_lt (f : Flit) : flitCrc f < 2 ^ 64 := by unfold flitCrc; exact crc64From_lt _ _ _ (by decide)
/-- The CRC of a flit does not depend on its trailer, and fits in it. -/
theorem flitCrc_trailer (f : Flit) :
    (BitVec.ofNat 128 (flitCrc f)).toNat = flitCrc { f with trailer := BitVec.ofNat 128 (flitCrc f) } := by
  have h : flitCrc { f with trailer := BitVec.ofNat 128 (flitCrc f) } = flitCrc f := by simp only [flitCrc, flitHdr, flitPay]
  rw [h, BitVec.toNat_ofNat]
  exact Nat.mod_eq_of_lt (Nat.lt_trans (flitCrc_lt f) (show (2:Nat) ^ 64 < 2 ^ 128 by decide))

end Sys2Proof.Machine
end

