-- ==== Sys2Proof/Laws/Wf.lean ====
section
/-! SUPPORT. Canonical memory through answers, branches and folds: the rules that the lemmas of the other files use. -/

namespace Sys2Proof.Machine

theorem State.wf.mem {s : State} (h : s.wf) : Memory.wf s.mem = true := h.1

theorem State.wf.host {s : State} (h : s.wf) : Memory.wf s.hostMem = true := h.2

theorem State.wf.mk {s : State} (hm : Memory.wf s.mem = true) (hh : Memory.wf s.hostMem = true) : s.wf := ⟨hm, hh⟩

theorem wf_mk {x0 x1 x2 x3 x4 x5 x6 x7 x8 x9 x10 x11 x12 x13 x14 x15 x16 x17 x18 x19 x20 x21 x22 x23 x24 x25 x26 x27 x28 x29 x30 x31 x32 x33 x34 x35 x36 x37} (hm : Memory.wf x2 = true) (hh : Memory.wf x4 = true) :
    State.wf ⟨x0, x1, x2, x3, x4, x5, x6, x7, x8, x9, x10, x11, x12, x13, x14, x15, x16, x17, x18, x19, x20, x21, x22, x23, x24, x25, x26, x27, x28, x29, x30, x31, x32, x33, x34, x35, x36, x37⟩ := ⟨hm, hh⟩

theorem wf_ite {c : Prop} [Decidable c] {s t : State} (hs : s.wf) (ht : t.wf) : (if c then s else t).wf := by split <;> assumption

theorem wf_foldl {α : Type} {f : State → α → State} {l : List α} {s : State} (hs : s.wf) (hf : ∀ s a, s.wf → (f s a).wf) : (l.foldl f s).wf := by
  induction l generalizing s with
  | nil => exact hs
  | cons a l ih => exact ih (hf _ _ hs)

/-- A state that an optional answer holds is in canonical form. -/
def wfOpt : Option State → Prop
  | some s => s.wf
  | none => True

/-- The same of an optional answer with a value beside the state. -/
def wfOptP {α : Type} : Option (State × α) → Prop
  | some s => s.1.wf
  | none => True

/-- The next state of an outcome, if it has one, is in canonical form. -/
def wfOut : Host.Outcome State Fault Refusal → Prop
  | .next s => s.wf
  | _ => True

theorem wfOpt.some {s : State} (h : s.wf) : wfOpt (.some s) := h

theorem wfOpt.none : wfOpt .none := trivial

theorem wfOptP.some {α : Type} {s : State × α} (h : s.1.wf) : wfOptP (.some s) := h

theorem wfOptP.none {α : Type} : wfOptP (.none : Option (State × α)) := trivial

theorem wfOut.next {s : State} (h : s.wf) : wfOut (.next s) := h

theorem wfOut.fault (f) : wfOut (.fault f) := trivial

theorem wfOut.refused (f) : wfOut (.refused f) := trivial

theorem wfOut_ite {c : Prop} [Decidable c] {s t} (hs : wfOut s) (ht : wfOut t) : wfOut (if c then s else t) := by split <;> assumption

theorem wfOpt_ite {c : Prop} [Decidable c] {s t} (hs : wfOpt s) (ht : wfOpt t) : wfOpt (if c then s else t) := by split <;> assumption

theorem wfOptP_ite {α : Type} {c : Prop} [Decidable c] {s t : Option (State × α)} (hs : wfOptP s) (ht : wfOptP t) : wfOptP (if c then s else t) := by split <;> assumption

theorem wfP_ite {α : Type} {c : Prop} [Decidable c] {s t : State × α} (hs : s.1.wf) (ht : t.1.wf) : (if c then s else t).1.wf := by split <;> assumption

theorem wfP_mk {α : Type} {a : State} {b : α} (h : a.wf) : (a, b).1.wf := h

theorem wf_pair {α : Type} {p : State × α} {a : State} {b : α} (e : p = (a, b)) (h : p.1.wf) : a.wf := by subst e; exact h

theorem wf_optSome {p : Option State} {a : State} (e : p = .some a) (h : wfOpt p) : a.wf := by subst e; exact h

theorem wf_optPSome {α : Type} {p : Option (State × α)} {a : State × α} (e : p = .some a) (h : wfOptP p) : a.1.wf := by subst e; exact h

theorem wf_optPSome' {α : Type} {p : Option (State × α)} {a : State} {b : α} (e : p = .some (a, b)) (h : wfOptP p) : a.wf := by subst e; exact h

theorem wf_outNext {p} {a : State} (e : p = .next a) (h : wfOut p) : a.wf := by subst e; exact h

/-- The state an accepted seam change leaves is in canonical form. -/
def wfMade : Made → Prop
  | .ok s => s.wf
  | _ => True

theorem wfMade.ok {s : State} (h : s.wf) : wfMade (.ok s) := h

theorem wfMade_ite {c : Prop} [Decidable c] {s t} (hs : wfMade s) (ht : wfMade t) : wfMade (if c then s else t) := by split <;> assumption

theorem wf_madeOk {p} {a : State} (e : p = Made.ok a) (h : wfMade p) : a.wf := by subst e; exact h

theorem wfMade.full : wfMade .full := trivial

theorem wfMade.refused : wfMade .refused := trivial

theorem wfOpt_map {α : Type} {f : α → State} {o : Option α} (h : ∀ a, (f a).wf) : wfOpt (o.map f) := by
  cases o
  · trivial
  · exact h _

theorem wf_getD {o : Option State} {s : State} (h : wfOpt o) (hs : s.wf) : (o.getD s).wf := by
  cases o
  · exact hs
  · exact h

theorem wfOptP_map {α β : Type} {f : α → State × β} {o : Option α} (h : ∀ a, (f a).1.wf) : wfOptP (o.map f) := by
  cases o
  · trivial
  · exact h _

theorem wf_foldlP {α β : Type} {f : State × β → α → State × β} {l : List α} {p : State × β} (hs : p.1.wf) (hf : ∀ q a, q.1.wf → (f q a).1.wf) :
    (l.foldl f p).1.wf := by
  induction l generalizing p with
  | nil => exact hs
  | cons a l ih => exact ih (hf _ _ hs)

/-- The state beside the values of an UNPICK step is in canonical form. -/
def wfVals : UkVals → Prop
  | .ok s _ _ _ => s.wf
  | .stop s _ => s.wf
  | .pause => True

theorem wfVals.ok {s : State} (h : s.wf) {a b c} : wfVals (.ok s a b c) := h

theorem wfVals.stop {s : State} (h : s.wf) {a} : wfVals (.stop s a) := h

theorem wfVals.pause : wfVals .pause := trivial

theorem wfVals_ite {c : Prop} [Decidable c] {s t} (hs : wfVals s) (ht : wfVals t) : wfVals (if c then s else t) := by split <;> assumption

theorem wf_valsOk {p} {s : State} {a b c} (e : p = UkVals.ok s a b c) (h : wfVals p) : s.wf := by subst e; exact h

theorem wf_valsStop {p} {s : State} {a} (e : p = UkVals.stop s a) (h : wfVals p) : s.wf := by subst e; exact h

/-- The state an UNPICK ownership check goes on with is in canonical form. -/
def wfOwn : UkOwn → Prop
  | .go s => s.wf
  | _ => True

theorem wfOwn.go {s : State} (h : s.wf) : wfOwn (.go s) := h

theorem wfOwn.wait : wfOwn .wait := trivial

theorem wfOwn.trap {a b} : wfOwn (.trap a b) := trivial

theorem wfOwn_ite {c : Prop} [Decidable c] {s t} (hs : wfOwn s) (ht : wfOwn t) : wfOwn (if c then s else t) := by split <;> assumption

theorem wf_ownGo {p} {s : State} (e : p = UkOwn.go s) (h : wfOwn p) : s.wf := by subst e; exact h

theorem wfU_ite {c : Prop} [Decidable c] {s t : Uk} (hs : s.s.wf) (ht : t.s.wf) : (if c then s else t).s.wf := by split <;> assumption

theorem wfUP_ite {α : Type} {c : Prop} [Decidable c] {s t : Uk × α} (hs : s.1.s.wf) (ht : t.1.s.wf) : (if c then s else t).1.s.wf := by split <;> assumption

theorem wfU_foldl {α : Type} {f : Uk → α → Uk} {l : List α} {s : Uk} (hs : s.s.wf) (hf : ∀ s a, s.s.wf → (f s a).s.wf) : (l.foldl f s).s.wf := by
  induction l generalizing s with
  | nil => exact hs
  | cons a l ih => exact ih (hf _ _ hs)

theorem wfUP_foldl {α β : Type} {f : Uk × β → α → Uk × β} {l : List α} {s : Uk × β} (hs : s.1.s.wf) (hf : ∀ s a, s.1.s.wf → (f s a).1.s.wf) : (l.foldl f s).1.s.wf := by
  induction l generalizing s with
  | nil => exact hs
  | cons a l ih => exact ih (hf _ _ hs)

theorem wfOpt_bind {o : Option State} {f : State → Option State} (h : wfOpt o) (hf : ∀ a, a.wf → wfOpt (f a)) : wfOpt (o.bind f) := by
  cases o
  · trivial
  · exact hf _ h

/-- The outcome of an issue attempt that went is in canonical form. -/
def wfTry : Try → Prop
  | .go o => wfOut o
  | .stay _ => True

end Sys2Proof.Machine
end

