-- ==== Sys2Proof/Laws/WfCore.lean ====
section
/-! SUPPORT. Canonical memory is kept by the issue-side operations and slot meanings: one lemma per operation. -/

namespace Sys2Proof.Machine

/-! Mem -/

theorem State.setCtx_wf {s : State} (hs : s.wf) (n : Nat) (c : Ctx) :
    (State.setCtx s n c).wf := by
  unfold State.setCtx
  with_reducible repeat' first | assumption | refine State.wf.mem ?_ | refine State.wf.host ?_ | apply wf_mk

theorem State.modCtx_wf {s : State} (hs : s.wf) (n : Nat) (f : Ctx → Ctx) :
    (State.modCtx s n f).wf := by
  unfold State.modCtx
  with_reducible repeat' first | assumption | apply State.setCtx_wf

theorem State.setCore_wf {s : State} (hs : s.wf) (n : Nat) (c : Core) :
    (State.setCore s n c).wf := by
  unfold State.setCore
  with_reducible repeat' first | assumption | refine State.wf.mem ?_ | refine State.wf.host ?_ | apply wf_mk

theorem State.modCore_wf {s : State} (hs : s.wf) (n : Nat) (f : Core → Core) :
    (State.modCore s n f).wf := by
  unfold State.modCore
  with_reducible repeat' first | assumption | apply State.setCore_wf

theorem State.setDie_wf {s : State} (hs : s.wf) (n : Nat) (d : Die) :
    (State.setDie s n d).wf := by
  unfold State.setDie
  with_reducible repeat' first | assumption | refine State.wf.mem ?_ | refine State.wf.host ?_ | apply wf_mk

theorem State.setReg_wf {s : State} (hs : s.wf) (n : Nat) (v : W64) :
    (State.setReg s n v).wf := by
  unfold State.setReg
  with_reducible repeat' first | assumption | refine State.wf.mem ?_ | refine State.wf.host ?_ | apply wf_mk

theorem State.post_wf {s : State} (hs : s.wf) (unit : Nat) (arg : Nat) (i : Instr) :
    (State.post s unit arg i).wf := by
  unfold State.post
  with_reducible repeat' first | assumption | refine State.wf.mem ?_ | refine State.wf.host ?_ | apply wf_mk

theorem State.freshWord_wf {s : State} (hs : s.wf) :
    (State.freshWord s).1.wf := by
  unfold State.freshWord
  repeat' first
    | with_reducible assumption | with_reducible refine State.wf.mem ?_ | with_reducible refine State.wf.host ?_ | dsimp only
    | with_reducible apply wf_mk

theorem State.freed_wf {s : State} (hs : s.wf) (used : Bool) : (State.freed s used).wf := by
  cases used <;> exact hs

theorem State.putMem_wf {s : State} (hs : s.wf) (a : Nat) (n : Nat) (v : Nat) :
    (State.putMem s a n v).wf := by
  unfold State.putMem
  with_reducible repeat' first | assumption | apply wf_putBytes | refine State.wf.mem ?_ | refine State.wf.host ?_ | apply wf_mk

theorem State.errRecord_wf {s : State} (hs : s.wf) (addr : W64) (array : Nat) (kind : Nat) (inj : Bool) (synd : Nat) (ctx : Nat) :
    (State.errRecord s addr array kind inj synd ctx).wf := by
  unfold State.errRecord
  with_reducible repeat' first | assumption | apply State.freed_wf | apply State.setReg_wf | apply State.putMem_wf | apply wf_ite

theorem State.bumpErrlog_wf {s : State} (hs : s.wf) (core : Nat) (lo : Nat) (n : Nat) :
    (State.bumpErrlog s core lo n).wf := by
  unfold State.bumpErrlog
  with_reducible repeat' first | assumption | apply State.modCore_wf

theorem State.injFire_wf {s : State} (hs : s.wf) :
    (State.injFire s).wf := by
  unfold State.injFire
  with_reducible repeat' first | assumption | apply State.setReg_wf

theorem State.errCore_wf {s : State} (hs : s.wf) (h : Home) (lo : Nat) (n : Nat) :
    (State.errCore s h lo n).wf := by
  unfold State.errCore
  with_reducible repeat' first | assumption | apply State.bumpErrlog_wf | split

theorem State.injRow_wf {s : State} (hs : s.wf) (a : Nat) :
    (State.injRow s a).wf := by
  unfold State.injRow
  with_reducible repeat' first
    | assumption | apply State.injFire_wf | apply State.errCore_wf | apply State.errRecord_wf | apply State.post_wf | apply wf_ite
    | refine State.wf.mem ?_ | refine State.wf.host ?_ | apply wf_mk

theorem State.injArray_wf {s : State} (hs : s.wf) (array : Nat) (target : Nat) (a : W64) (core : Option Nat) (ctx : Nat) :
    (State.injArray s array target a core ctx).1.wf := by
  unfold State.injArray
  with_reducible repeat' first
    | assumption | apply State.injFire_wf | apply State.bumpErrlog_wf | apply State.errRecord_wf | apply wf_ite | apply wfP_ite
    | split

theorem State.setPoison_wf {s : State} (hs : s.wf) (a : Nat) :
    (State.setPoison s a).wf := by
  unfold State.setPoison
  with_reducible repeat' first | assumption | apply wf_ite | refine State.wf.mem ?_ | refine State.wf.host ?_ | apply wf_mk

theorem State.lostRec_wf {s : State} (hs : s.wf) (a : Nat) :
    (State.lostRec s a).wf := by
  unfold State.lostRec
  with_reducible repeat' first | assumption | apply State.errRecord_wf

theorem State.storeMem_wf {s : State} (hs : s.wf) (a : Nat) (data : Row) (mask : Row) (poison : Bool) :
    (State.storeMem s a data mask poison).wf := by
  unfold State.storeMem
  with_reducible repeat' first
    | assumption | apply State.setPoison_wf | apply wf_ite | apply wf_putBytes | refine State.wf.mem ?_ | refine State.wf.host ?_
    | apply wf_mk

theorem State.heard_wf {s : State} (hs : s.wf) {t : State} (ht : t.wf) :
    (State.heard s t).wf := by
  unfold State.heard
  with_reducible repeat' first | assumption | apply wf_ite

/-! Journal -/

theorem State.jPut_wf {s : State} (hs : s.wf) (a : Nat) (r : Row) :
    (State.jPut s a r).wf := by
  unfold State.jPut
  with_reducible repeat' first | assumption | apply State.storeMem_wf | apply wf_ite

theorem State.writeRec_wf {s : State} (hs : s.wf) (c : Cmd) :
    (State.writeRec s c).wf := by
  unfold State.writeRec
  with_reducible repeat' first | assumption | apply State.jPut_wf | apply wf_ite

theorem State.freeRec_wf {s : State} (hs : s.wf) (c : Cmd) :
    (State.freeRec s c).wf := by
  unfold State.freeRec
  with_reducible repeat' first | assumption | apply State.jPut_wf | apply wf_ite

theorem State.setHighWater_wf {s : State} (hs : s.wf) (q : Nat) (seq : Nat) :
    (State.setHighWater s q seq).wf := by
  unfold State.setHighWater
  with_reducible repeat' first | assumption | apply State.putMem_wf | apply wf_ite

theorem State.setPub_wf {s : State} (hs : s.wf) (cmd : Nat) (n : Nat) :
    (State.setPub s cmd n).wf := by
  unfold State.setPub
  with_reducible repeat' first | assumption | apply State.writeRec_wf | refine State.wf.mem ?_ | refine State.wf.host ?_ | split | apply wf_mk

theorem State.notePub_wf {s : State} (hs : s.wf) (cmd : Nat) (n : Nat) (x : W64) :
    (State.notePub s cmd n x).wf := by
  unfold State.notePub
  with_reducible repeat' first
    | assumption | apply wf_putBytes | refine State.wf.mem ?_ | refine State.wf.host ?_ | apply wf_mk

/-! Operands -/

theorem State.modMe_wf {s : State} (hs : s.wf) (f : Ctx → Ctx) :
    (State.modMe s f).wf := by
  unfold State.modMe
  with_reducible repeat' first | assumption | apply State.modCtx_wf

theorem State.modTgt_wf {s : State} (hs : s.wf) (f : Ctx → Ctx) :
    (State.modTgt s f).wf := by
  unfold State.modTgt
  with_reducible repeat' first | assumption | apply State.modCtx_wf

theorem State.enter_wf {s : State} (hs : s.wf) (kind : LKind) (dest : Nat) (lat : Nat) (slot : Nat) (sub : Nat) (b : Built) :
    (State.enter s kind dest lat slot sub b).wf := by
  unfold State.enter
  with_reducible repeat' first | assumption | apply State.modMe_wf

theorem State.landV_wf {s : State} (hs : s.wf) (p : PSlot) (vd : Nat) (lat : Nat) (b : Built) :
    (State.landV s p vd lat b).wf := by
  unfold State.landV
  with_reducible repeat' first | assumption | apply State.enter_wf

theorem State.landS_wf {s : State} (hs : s.wf) (slot : Nat) (sub : Nat) (sd : BitVec 6) (lat : Nat) (v : W64) :
    (State.landS s slot sub sd lat v).wf := by
  unfold State.landS
  with_reducible repeat' first | assumption | apply State.enter_wf | apply wf_ite

theorem State.landG_wf {s : State} (hs : s.wf) (slot : Nat) (sub : Nat) (gd : Nat) (lat : Nat) (data : Nat) (mask : Nat) (flags : Nat) :
    (State.landG s slot sub gd lat data mask flags).wf := by
  unfold State.landG
  with_reducible repeat' first | assumption | apply State.enter_wf | apply wf_ite

theorem State.draw_wf {s : State} (hs : s.wf) :
    (State.draw s).1.wf := by
  unfold State.draw
  with_reducible repeat' first | assumption | apply State.modTgt_wf

theorem State.srDraw_wf {s : State} (hs : s.wf) :
    (State.srDraw s).1.wf := by
  unfold State.srDraw
  with_reducible repeat' first | assumption | apply State.draw_wf | apply wfP_ite

/-! Ops -/

theorem State.unbindRng_wf {s : State} (hs : s.wf) (n : Nat) :
    (State.unbindRng s n).wf := by
  unfold State.unbindRng
  with_reducible repeat' first | assumption | apply State.putMem_wf | apply State.setCtx_wf | apply wf_ite

theorem State.bindRng_wf {s : State} (hs : s.wf) (n : Nat) (k : Nat) :
    (State.bindRng s n k).wf := by
  unfold State.bindRng
  with_reducible repeat' first | assumption | apply State.setCtx_wf | apply State.putMem_wf | apply wf_ite

theorem State.setFlag_wf {s : State} (hs : s.wf) (ctx : Nat) (f : Nat) :
    (State.setFlag s ctx f).wf := by
  unfold State.setFlag
  with_reducible repeat' first | assumption | apply State.modCtx_wf

theorem State.reportCap_wf {s : State} (hs : s.wf) (ctx : Nat) (cause : Nat) (tval : W64) (cap : Option Capture) :
    (State.reportCap s ctx cause tval cap).wf := by
  unfold State.reportCap
  with_reducible repeat' first | assumption | apply State.setCtx_wf | apply wf_ite

theorem State.report_wf {s : State} (hs : s.wf) (ctx : Nat) (cause : Nat) (tval : W64) :
    (State.report s ctx cause tval).wf := by
  unfold State.report
  with_reducible repeat' first | assumption | apply State.reportCap_wf

theorem State.disown_wf {s : State} (hs : s.wf) (serials : List Nat) :
    (State.disown s serials).wf := by
  unfold State.disown
  with_reducible repeat' first
    | assumption | apply wf_putBytes | refine State.wf.mem ?_ | refine State.wf.host ?_ | apply wf_mk

theorem State.freeCtx_wf {s : State} (hs : s.wf) (n : Nat) :
    (State.freeCtx s n).wf := by
  unfold State.freeCtx
  with_reducible repeat' first
    | assumption | apply State.disown_wf | apply State.unbindRng_wf | apply State.setCtx_wf | apply wf_putBytes
    | refine State.wf.mem ?_ | refine State.wf.host ?_ | split | apply wf_mk

theorem State.finishCmd_wf {s : State} (hs : s.wf) (cmd : Nat) (status : Nat) :
    (State.finishCmd s cmd status).wf := by
  unfold State.finishCmd
  with_reducible repeat' first
    | assumption | apply State.writeRec_wf | apply State.post_wf | apply wf_ite | refine State.wf.mem ?_ | refine State.wf.host ?_ | split
    | apply wf_mk

theorem State.endTasks_wf {s : State} (hs : s.wf) (cmd : Nat) :
    (State.endTasks s cmd).wf := by
  unfold State.endTasks
  with_reducible repeat' first
    | assumption | apply State.freeCtx_wf | apply State.disown_wf | apply State.modCore_wf | apply wf_ite | apply wf_foldl
    | apply wf_foldlP | intro _ | apply wf_putBytes | refine State.wf.mem ?_ | refine State.wf.host ?_ | split | apply wf_mk

theorem State.killTask_wf {s : State} (hs : s.wf) (ctx : Nat) (status : Nat) :
    (State.killTask s ctx status).wf := by
  unfold State.killTask
  with_reducible repeat' first | assumption | apply State.endTasks_wf | apply State.finishCmd_wf | split

theorem State.doubleTrap_wf {s : State} (hs : s.wf) (cause : Nat) :
    (State.doubleTrap s cause).wf := by
  unfold State.doubleTrap
  with_reducible repeat' first
    | assumption | apply State.bumpErrlog_wf | apply State.errRecord_wf | apply State.modCtx_wf | apply State.modCore_wf
    | apply State.killTask_wf

theorem State.takeTrap_wf {s : State} (hs : s.wf) (cause : Nat) (tval : W64) (tpc : CodeAddr) :
    (State.takeTrap s cause tval tpc).wf := by
  unfold State.takeTrap
  repeat' first
    | with_reducible assumption | with_reducible apply State.doubleTrap_wf | with_reducible apply State.modTgt_wf
    | with_reducible apply State.modCore_wf | with_reducible apply State.modCtx_wf | with_reducible apply wf_ite | split | dsimp only

theorem State.resumeAt_wf {s : State} (hs : s.wf) (n : Nat) (pc : CodeAddr) :
    (State.resumeAt s n pc).wf := by
  unfold State.resumeAt
  with_reducible repeat' first | assumption | apply State.modCtx_wf

theorem State.goOn_wf {s : State} (hs : s.wf) (n : Nat) :
    (State.goOn s n).wf := by
  unfold State.goOn
  with_reducible repeat' first | assumption | apply State.modCtx_wf | apply State.modCore_wf

theorem State.returnTrap_wf {s : State} (hs : s.wf) :
    (State.returnTrap s).wf := by
  unfold State.returnTrap
  repeat' first
    | with_reducible assumption | with_reducible apply State.modCore_wf | with_reducible apply State.modTgt_wf
    | with_reducible apply State.resumeAt_wf | with_reducible apply State.goOn_wf | with_reducible apply State.killTask_wf | split
    | dsimp only

theorem issue_wf {s : State} (hs : s.wf) (chk : Option (Nat × Nat)) {eff : State} (heff : eff.wf) :
    wfOut (issue s chk eff) := by
  unfold issue
  with_reducible repeat' first | assumption | apply State.takeTrap_wf | apply wfOut.next | split

theorem State.writeReg_wf {s : State} (hs : s.wf) (own : Nat) (tgt : Nat) (e : LandEntry) :
    (State.writeReg s own tgt e).wf := by
  unfold State.writeReg
  with_reducible repeat' first | assumption | apply State.modCtx_wf | split

theorem State.raise_wf {s : State} (hs : s.wf) (tgt : Nat) (flags : BitVec 6) :
    (State.raise s tgt flags).wf := by
  unfold State.raise
  with_reducible repeat' first | assumption | apply State.modCtx_wf

theorem State.landOne_wf {s : State} (hs : s.wf) (own : Nat) (tgt : Nat) (drain : Bool) (e : LandEntry) :
    (State.landOne s own tgt drain e).wf := by
  unfold State.landOne
  with_reducible repeat' first | assumption | apply State.modCtx_wf | apply State.writeReg_wf | apply State.raise_wf | apply wf_ite | split

theorem State.landAll_wf {s : State} (hs : s.wf) (own : Nat) (tgt : Nat) (drain : Bool) (z0 : List LandEntry) :
    (State.landAll s own tgt drain z0).wf := by
  induction z0 generalizing s with
  | nil => exact hs
  | cons _ _ ih => exact ih (State.landOne_wf hs own tgt drain ‹_›)

theorem State.landDue_wf {s : State} (hs : s.wf) (own : Nat) (tgt : Nat) :
    (State.landDue s own tgt).1.wf := by
  unfold State.landDue
  with_reducible repeat' first | assumption | apply State.modCtx_wf | apply State.landAll_wf | apply wf_ite | apply wfP_ite

theorem State.consume_wf {s : State} (hs : s.wf) (ctx : Nat) :
    (State.consume s ctx).wf := by
  unfold State.consume
  repeat' first
    | with_reducible assumption | with_reducible apply State.modCtx_wf | with_reducible apply State.errRecord_wf
    | with_reducible apply State.takeTrap_wf | with_reducible apply wf_ite | with_reducible refine State.wf.mem ?_
    | with_reducible refine State.wf.host ?_ | split | dsimp only | with_reducible apply wf_mk

theorem State.time_wf {s : State} (hs : s.wf) (t : TAcc) :
    (State.time s t).wf := by
  unfold State.time
  with_reducible repeat' first | assumption | refine State.wf.mem ?_ | refine State.wf.host ?_ | apply wf_mk

theorem State.doTimed_wf {s : State} (hs : s.wf) (t : TAcc) :
    (State.doTimed s t).wf := by
  unfold State.doTimed
  with_reducible repeat' first | assumption | apply State.storeMem_wf | apply State.injRow_wf | apply State.modCtx_wf | apply wf_ite

theorem State.takeTimed_wf {s : State} (hs : s.wf) (now : TAcc → Bool) :
    (State.takeTimed s now).wf := by
  unfold State.takeTimed
  with_reducible repeat' first
    | assumption | intro _ | apply wf_putBytes | refine State.wf.mem ?_ | refine State.wf.host ?_ | apply wf_mk

theorem State.performReads_wf {s : State} (hs : s.wf) (held : TAcc → Bool) :
    (State.performReads s held).wf := by
  unfold State.performReads
  with_reducible repeat' first
    | assumption | apply State.takeTimed_wf | apply State.doTimed_wf | apply wf_foldl | apply wf_foldlP | intro _

theorem State.performWrites_wf {s : State} (hs : s.wf) (held : TAcc → Bool) :
    (State.performWrites s held).wf := by
  unfold State.performWrites
  with_reducible repeat' first
    | assumption | apply State.takeTimed_wf | apply State.doTimed_wf | apply wf_foldl | apply wf_foldlP | intro _

theorem State.injReg_wf {s : State} (hs : s.wf) (array : Nat) (ctx : Nat) (reg : Nat) :
    (State.injReg s array ctx reg).1.wf := by
  unfold State.injReg
  with_reducible repeat' first | assumption | apply State.injArray_wf

/-! Scalar -/

theorem State.scalarOut_wf {s : State} (hs : s.wf) (p : PSlot) (gd : Gd) (sd : BitVec 6) (lat : Nat) (v : W64) :
    wfOut (State.scalarOut s p gd sd lat v) := by
  unfold State.scalarOut
  with_reducible repeat' first | assumption | apply State.landS_wf | apply wf_ite | apply wfOut.next

theorem State.cmpOut_wf {s : State} (hs : s.wf) (p : PSlot) (gd : Gd) (sd : BitVec 6) (r : Bool) :
    wfOut (State.cmpOut s p gd sd r) := by
  unfold State.cmpOut
  with_reducible repeat' first | assumption | apply State.landG_wf | apply wf_ite | apply wfOut.next

theorem execSnop_wf (_p : PSlot) (_gd : Gd) {s : State} (hs : s.wf) :
    wfOut (execSnop _p _gd s) := by
  unfold execSnop
  with_reducible repeat' first | assumption | apply wfOut.next

theorem execAdd_wf (a : RArgs) {s : State} (hs : s.wf) :
    wfOut (execAdd a s) := by
  unfold execAdd
  with_reducible repeat' first | assumption | apply State.scalarOut_wf

theorem execSub_wf (a : RArgs) {s : State} (hs : s.wf) :
    wfOut (execSub a s) := by
  unfold execSub
  with_reducible repeat' first | assumption | apply State.scalarOut_wf

theorem execMul_wf (a : RArgs) {s : State} (hs : s.wf) :
    wfOut (execMul a s) := by
  unfold execMul
  with_reducible repeat' first | assumption | apply State.scalarOut_wf

theorem execMulh_wf (a : RArgs) {s : State} (hs : s.wf) :
    wfOut (execMulh a s) := by
  unfold execMulh
  with_reducible repeat' first | assumption | apply State.scalarOut_wf

theorem execMulhu_wf (a : RArgs) {s : State} (hs : s.wf) :
    wfOut (execMulhu a s) := by
  unfold execMulhu
  with_reducible repeat' first | assumption | apply State.scalarOut_wf

theorem execDiv_wf (a : RArgs) {s : State} (hs : s.wf) :
    wfOut (execDiv a s) := by
  unfold execDiv
  with_reducible repeat' first | assumption | apply State.scalarOut_wf

theorem execDivu_wf (a : RArgs) {s : State} (hs : s.wf) :
    wfOut (execDivu a s) := by
  unfold execDivu
  with_reducible repeat' first | assumption | apply State.scalarOut_wf

theorem execRem_wf (a : RArgs) {s : State} (hs : s.wf) :
    wfOut (execRem a s) := by
  unfold execRem
  with_reducible repeat' first | assumption | apply State.scalarOut_wf

theorem execRemu_wf (a : RArgs) {s : State} (hs : s.wf) :
    wfOut (execRemu a s) := by
  unfold execRemu
  with_reducible repeat' first | assumption | apply State.scalarOut_wf

theorem execAnd_wf (a : RArgs) {s : State} (hs : s.wf) :
    wfOut (execAnd a s) := by
  unfold execAnd
  with_reducible repeat' first | assumption | apply State.scalarOut_wf

theorem execOr_wf (a : RArgs) {s : State} (hs : s.wf) :
    wfOut (execOr a s) := by
  unfold execOr
  with_reducible repeat' first | assumption | apply State.scalarOut_wf

theorem execXor_wf (a : RArgs) {s : State} (hs : s.wf) :
    wfOut (execXor a s) := by
  unfold execXor
  with_reducible repeat' first | assumption | apply State.scalarOut_wf

theorem execShl_wf (a : RArgs) {s : State} (hs : s.wf) :
    wfOut (execShl a s) := by
  unfold execShl
  with_reducible repeat' first | assumption | apply State.scalarOut_wf

theorem execShr_wf (a : RArgs) {s : State} (hs : s.wf) :
    wfOut (execShr a s) := by
  unfold execShr
  with_reducible repeat' first | assumption | apply State.scalarOut_wf

theorem execSra_wf (a : RArgs) {s : State} (hs : s.wf) :
    wfOut (execSra a s) := by
  unfold execSra
  with_reducible repeat' first | assumption | apply State.scalarOut_wf

theorem execMin_wf (a : RArgs) {s : State} (hs : s.wf) :
    wfOut (execMin a s) := by
  unfold execMin
  with_reducible repeat' first | assumption | apply State.scalarOut_wf

theorem execMax_wf (a : RArgs) {s : State} (hs : s.wf) :
    wfOut (execMax a s) := by
  unfold execMax
  with_reducible repeat' first | assumption | apply State.scalarOut_wf

theorem execMinu_wf (a : RArgs) {s : State} (hs : s.wf) :
    wfOut (execMinu a s) := by
  unfold execMinu
  with_reducible repeat' first | assumption | apply State.scalarOut_wf

theorem execMaxu_wf (a : RArgs) {s : State} (hs : s.wf) :
    wfOut (execMaxu a s) := by
  unfold execMaxu
  with_reducible repeat' first | assumption | apply State.scalarOut_wf

theorem execClz_wf (a : RArgs) {s : State} (hs : s.wf) :
    wfOut (execClz a s) := by
  unfold execClz
  with_reducible repeat' first | assumption | apply State.scalarOut_wf

theorem execPopc_wf (a : RArgs) {s : State} (hs : s.wf) :
    wfOut (execPopc a s) := by
  unfold execPopc
  with_reducible repeat' first | assumption | apply State.scalarOut_wf

theorem execAddi_wf (a : IArgs) {s : State} (hs : s.wf) :
    wfOut (execAddi a s) := by
  unfold execAddi
  with_reducible repeat' first | assumption | apply State.scalarOut_wf

theorem execAndi_wf (a : IArgs) {s : State} (hs : s.wf) :
    wfOut (execAndi a s) := by
  unfold execAndi
  with_reducible repeat' first | assumption | apply State.scalarOut_wf

theorem execOri_wf (a : IArgs) {s : State} (hs : s.wf) :
    wfOut (execOri a s) := by
  unfold execOri
  with_reducible repeat' first | assumption | apply State.scalarOut_wf

theorem execXori_wf (a : IArgs) {s : State} (hs : s.wf) :
    wfOut (execXori a s) := by
  unfold execXori
  with_reducible repeat' first | assumption | apply State.scalarOut_wf

theorem execShli_wf (a : IArgs) {s : State} (hs : s.wf) :
    wfOut (execShli a s) := by
  unfold execShli
  with_reducible repeat' first | assumption | apply State.scalarOut_wf

theorem execShri_wf (a : IArgs) {s : State} (hs : s.wf) :
    wfOut (execShri a s) := by
  unfold execShri
  with_reducible repeat' first | assumption | apply State.scalarOut_wf

theorem execSrai_wf (a : IArgs) {s : State} (hs : s.wf) :
    wfOut (execSrai a s) := by
  unfold execSrai
  with_reducible repeat' first | assumption | apply State.scalarOut_wf

theorem execBfx_wf (a : IArgs) {s : State} (hs : s.wf) :
    wfOut (execBfx a s) := by
  unfold execBfx
  with_reducible repeat' first | assumption | apply State.scalarOut_wf

theorem execBfi_wf (a : IArgs) {s : State} (hs : s.wf) :
    wfOut (execBfi a s) := by
  unfold execBfi
  with_reducible repeat' first | assumption | apply State.scalarOut_wf

theorem execIxr_wf (a : IArgs) {s : State} (hs : s.wf) :
    wfOut (execIxr a s) := by
  unfold execIxr
  with_reducible repeat' first | assumption | apply State.scalarOut_wf

theorem execElen_wf (a : IArgs) {s : State} (hs : s.wf) :
    wfOut (execElen a s) := by
  unfold execElen
  with_reducible repeat' first | assumption | apply State.scalarOut_wf

theorem execElenPiece_wf (a : IArgs) {s : State} (hs : s.wf) :
    wfOut (execElenPiece a s) := by
  unfold execElenPiece
  with_reducible repeat' first | assumption | apply State.scalarOut_wf

theorem execLi_wf (a : LArgs) {s : State} (hs : s.wf) :
    wfOut (execLi a s) := by
  unfold execLi
  with_reducible repeat' first | assumption | apply State.scalarOut_wf

theorem execLui_wf (a : LArgs) {s : State} (hs : s.wf) :
    wfOut (execLui a s) := by
  unfold execLui
  with_reducible repeat' first | assumption | apply State.scalarOut_wf

theorem execSel_wf (a : RArgs) {s : State} (hs : s.wf) :
    wfOut (execSel a s) := by
  unfold execSel
  with_reducible repeat' first | assumption | apply State.landS_wf | apply wfOut.next

theorem execCmpeq_wf (a : RArgs) {s : State} (hs : s.wf) :
    wfOut (execCmpeq a s) := by
  unfold execCmpeq
  with_reducible repeat' first | assumption | apply State.cmpOut_wf

theorem execCmplt_wf (a : RArgs) {s : State} (hs : s.wf) :
    wfOut (execCmplt a s) := by
  unfold execCmplt
  with_reducible repeat' first | assumption | apply State.cmpOut_wf

theorem execCmpltu_wf (a : RArgs) {s : State} (hs : s.wf) :
    wfOut (execCmpltu a s) := by
  unfold execCmpltu
  with_reducible repeat' first | assumption | apply State.cmpOut_wf

theorem execCmpeqi_wf (a : IArgs) {s : State} (hs : s.wf) :
    wfOut (execCmpeqi a s) := by
  unfold execCmpeqi
  with_reducible repeat' first | assumption | apply State.cmpOut_wf

theorem execCmplti_wf (a : IArgs) {s : State} (hs : s.wf) :
    wfOut (execCmplti a s) := by
  unfold execCmplti
  with_reducible repeat' first | assumption | apply State.cmpOut_wf

/-! Vector -/

theorem State.vecOut_wf {s : State} (hs : s.wf) (a : VArgs) (lat : Nat) (b : Built) :
    wfOut (State.vecOut s a lat b) := by
  unfold State.vecOut
  with_reducible repeat' first | assumption | apply State.landV_wf | apply wfOut.next

theorem State.rmEff_wf {s : State} (hs : s.wf) (a : VArgs) (lat : Nat) (f : RMode → Nat → Nat × Nat) :
    (State.rmEff s a lat f).wf := by
  unfold State.rmEff
  with_reducible repeat' first | assumption | apply State.srDraw_wf | apply State.landV_wf

theorem State.rmOut_wf {s : State} (hs : s.wf) (i : Instr) (a : VArgs) (lat : Nat) (f : RMode → Nat → Nat × Nat) :
    wfOut (State.rmOut s i a lat f) := by
  unfold State.rmOut
  with_reducible repeat' first | assumption | apply issue_wf | apply State.rmEff_wf

theorem execVadd_wf (a : VArgs) {s : State} (hs : s.wf) :
    wfOut (execVadd a s) := by
  unfold execVadd
  with_reducible repeat' first | assumption | apply State.rmOut_wf

theorem execVsub_wf (a : VArgs) {s : State} (hs : s.wf) :
    wfOut (execVsub a s) := by
  unfold execVsub
  with_reducible repeat' first | assumption | apply State.rmOut_wf

theorem execVmul_wf (a : VArgs) {s : State} (hs : s.wf) :
    wfOut (execVmul a s) := by
  unfold execVmul
  with_reducible repeat' first | assumption | apply State.rmOut_wf

theorem execVfma_wf (a : VArgs) {s : State} (hs : s.wf) :
    wfOut (execVfma a s) := by
  unfold execVfma
  with_reducible repeat' first | assumption | apply State.rmOut_wf

theorem execVfms_wf (a : VArgs) {s : State} (hs : s.wf) :
    wfOut (execVfms a s) := by
  unfold execVfms
  with_reducible repeat' first | assumption | apply State.rmOut_wf

theorem execVfnma_wf (a : VArgs) {s : State} (hs : s.wf) :
    wfOut (execVfnma a s) := by
  unfold execVfnma
  with_reducible repeat' first | assumption | apply State.rmOut_wf

theorem execVmin_wf (a : VArgs) {s : State} (hs : s.wf) :
    wfOut (execVmin a s) := by
  unfold execVmin
  with_reducible repeat' first | assumption | apply State.vecOut_wf

theorem execVmax_wf (a : VArgs) {s : State} (hs : s.wf) :
    wfOut (execVmax a s) := by
  unfold execVmax
  with_reducible repeat' first | assumption | apply State.vecOut_wf

theorem execVabs_wf (a : VArgs) {s : State} (hs : s.wf) :
    wfOut (execVabs a s) := by
  unfold execVabs
  with_reducible repeat' first | assumption | apply State.vecOut_wf

theorem execVneg_wf (a : VArgs) {s : State} (hs : s.wf) :
    wfOut (execVneg a s) := by
  unfold execVneg
  with_reducible repeat' first | assumption | apply State.vecOut_wf

theorem execVrnd_wf (a : VArgs) {s : State} (hs : s.wf) :
    wfOut (execVrnd a s) := by
  unfold execVrnd
  with_reducible repeat' first | assumption | apply State.rmOut_wf

theorem execVscalb_wf (a : VArgs) {s : State} (hs : s.wf) :
    wfOut (execVscalb a s) := by
  unfold execVscalb
  with_reducible repeat' first | assumption | apply State.rmOut_wf

theorem State.vcmpOut_wf {s : State} (hs : s.wf) (a : VArgs) (lat : Nat) (f : Nat → Bool × Nat) :
    wfOut (State.vcmpOut s a lat f) := by
  unfold State.vcmpOut
  with_reducible repeat' first | assumption | apply State.landG_wf | apply wfOut.next

theorem execVcmp_wf (a : VArgs) {s : State} (hs : s.wf) :
    wfOut (execVcmp a s) := by
  unfold execVcmp
  with_reducible repeat' first | assumption | apply State.vcmpOut_wf

theorem execVicmp_wf (a : VArgs) {s : State} (hs : s.wf) :
    wfOut (execVicmp a s) := by
  unfold execVicmp
  with_reducible repeat' first | assumption | apply State.vcmpOut_wf

theorem execVsel_wf (a : VArgs) {s : State} (hs : s.wf) :
    wfOut (execVsel a s) := by
  unfold execVsel
  with_reducible repeat' first | assumption | apply State.vecOut_wf

theorem execVcvt_wf (a : VArgs) {s : State} (hs : s.wf) :
    wfOut (execVcvt a s) := by
  unfold execVcvt
  with_reducible repeat' first | assumption | apply issue_wf | apply State.srDraw_wf | apply State.landV_wf

theorem execVexp2_wf (a : VArgs) {s : State} (hs : s.wf) :
    wfOut (execVexp2 a s) := by
  unfold execVexp2
  with_reducible repeat' first | assumption | apply State.vecOut_wf

theorem execVlog2_wf (a : VArgs) {s : State} (hs : s.wf) :
    wfOut (execVlog2 a s) := by
  unfold execVlog2
  with_reducible repeat' first | assumption | apply State.vecOut_wf

theorem execVrcp_wf (a : VArgs) {s : State} (hs : s.wf) :
    wfOut (execVrcp a s) := by
  unfold execVrcp
  with_reducible repeat' first | assumption | apply State.vecOut_wf

theorem execVrsqrt_wf (a : VArgs) {s : State} (hs : s.wf) :
    wfOut (execVrsqrt a s) := by
  unfold execVrsqrt
  with_reducible repeat' first | assumption | apply State.vecOut_wf

theorem execVsqrt_wf (a : VArgs) {s : State} (hs : s.wf) :
    wfOut (execVsqrt a s) := by
  unfold execVsqrt
  with_reducible repeat' first | assumption | apply State.vecOut_wf

theorem execVtanh_wf (a : VArgs) {s : State} (hs : s.wf) :
    wfOut (execVtanh a s) := by
  unfold execVtanh
  with_reducible repeat' first | assumption | apply State.vecOut_wf

theorem execVsigm_wf (a : VArgs) {s : State} (hs : s.wf) :
    wfOut (execVsigm a s) := by
  unfold execVsigm
  with_reducible repeat' first | assumption | apply State.vecOut_wf

theorem execVexp_wf (a : VArgs) {s : State} (hs : s.wf) :
    wfOut (execVexp a s) := by
  unfold execVexp
  with_reducible repeat' first | assumption | apply State.vecOut_wf

theorem State.intOut_wf {s : State} (hs : s.wf) (a : VArgs) (sat : Bool) (f : Int → Int → Int → Int) :
    wfOut (State.intOut s a sat f) := by
  unfold State.intOut
  with_reducible repeat' first | assumption | apply State.vecOut_wf

theorem State.logicOut_wf {s : State} (hs : s.wf) (a : VArgs) (f : Nat → Nat → Nat) :
    wfOut (State.logicOut s a f) := by
  unfold State.logicOut
  with_reducible repeat' first | assumption | apply State.vecOut_wf

theorem execViadd_wf (a : VArgs) {s : State} (hs : s.wf) :
    wfOut (execViadd a s) := by
  unfold execViadd
  with_reducible repeat' first | assumption | apply State.intOut_wf

theorem execVisub_wf (a : VArgs) {s : State} (hs : s.wf) :
    wfOut (execVisub a s) := by
  unfold execVisub
  with_reducible repeat' first | assumption | apply State.intOut_wf

theorem execViadds_wf (a : VArgs) {s : State} (hs : s.wf) :
    wfOut (execViadds a s) := by
  unfold execViadds
  with_reducible repeat' first | assumption | apply State.intOut_wf

theorem execVimul_wf (a : VArgs) {s : State} (hs : s.wf) :
    wfOut (execVimul a s) := by
  unfold execVimul
  with_reducible repeat' first | assumption | apply State.vecOut_wf

theorem execVimad_wf (a : VArgs) {s : State} (hs : s.wf) :
    wfOut (execVimad a s) := by
  unfold execVimad
  with_reducible repeat' first | assumption | apply State.intOut_wf

theorem execVand_wf (a : VArgs) {s : State} (hs : s.wf) :
    wfOut (execVand a s) := by
  unfold execVand
  with_reducible repeat' first | assumption | apply State.logicOut_wf

theorem execVor_wf (a : VArgs) {s : State} (hs : s.wf) :
    wfOut (execVor a s) := by
  unfold execVor
  with_reducible repeat' first | assumption | apply State.logicOut_wf

theorem execVxor_wf (a : VArgs) {s : State} (hs : s.wf) :
    wfOut (execVxor a s) := by
  unfold execVxor
  with_reducible repeat' first | assumption | apply State.logicOut_wf

theorem execVshl_wf (a : VArgs) {s : State} (hs : s.wf) :
    wfOut (execVshl a s) := by
  unfold execVshl
  with_reducible repeat' first | assumption | apply State.vecOut_wf

theorem execVshr_wf (a : VArgs) {s : State} (hs : s.wf) :
    wfOut (execVshr a s) := by
  unfold execVshr
  with_reducible repeat' first | assumption | apply State.vecOut_wf

theorem execVsra_wf (a : VArgs) {s : State} (hs : s.wf) :
    wfOut (execVsra a s) := by
  unfold execVsra
  with_reducible repeat' first | assumption | apply State.vecOut_wf

theorem execVimin_wf (a : VArgs) {s : State} (hs : s.wf) :
    wfOut (execVimin a s) := by
  unfold execVimin
  with_reducible repeat' first | assumption | apply State.intOut_wf

theorem execVimax_wf (a : VArgs) {s : State} (hs : s.wf) :
    wfOut (execVimax a s) := by
  unfold execVimax
  with_reducible repeat' first | assumption | apply State.intOut_wf

/-! VecMove -/

theorem State.laneOut_wf {s : State} (hs : s.wf) (a : VArgs) (lat : Nat) (f : Nat → Nat) :
    wfOut (State.laneOut s a lat f) := by
  unfold State.laneOut
  with_reducible repeat' first | assumption | apply State.vecOut_wf

theorem execVmov_wf (a : VArgs) {s : State} (hs : s.wf) :
    wfOut (execVmov a s) := by
  unfold execVmov
  with_reducible repeat' first | assumption | apply State.laneOut_wf

theorem execVbcast_wf (a : VArgs) {s : State} (hs : s.wf) :
    wfOut (execVbcast a s) := by
  unfold execVbcast
  with_reducible repeat' first | assumption | apply State.laneOut_wf

theorem execVbcastI_wf (a : VArgs) {s : State} (hs : s.wf) :
    wfOut (execVbcastI a s) := by
  unfold execVbcastI
  with_reducible repeat' first | assumption | apply State.laneOut_wf

theorem execVext_wf (a : VArgs) {s : State} (hs : s.wf) :
    wfOut (execVext a s) := by
  unfold execVext
  with_reducible repeat' first | assumption | apply State.laneOut_wf

theorem execVins_wf (a : VArgs) {s : State} (hs : s.wf) :
    wfOut (execVins a s) := by
  unfold execVins
  with_reducible repeat' first | assumption | apply State.vecOut_wf

theorem execVperm_wf (a : VArgs) {s : State} (hs : s.wf) :
    wfOut (execVperm a s) := by
  unfold execVperm
  with_reducible repeat' first | assumption | apply State.laneOut_wf

theorem execVpermX_wf (a : VArgs) {s : State} (hs : s.wf) :
    wfOut (execVpermX a s) := by
  unfold execVpermX
  with_reducible repeat' first | assumption | apply State.laneOut_wf

theorem execVrot_wf (a : VArgs) {s : State} (hs : s.wf) :
    wfOut (execVrot a s) := by
  unfold execVrot
  with_reducible repeat' first | assumption | apply State.laneOut_wf

theorem execVrotV_wf (a : VArgs) {s : State} (hs : s.wf) :
    wfOut (execVrotV a s) := by
  unfold execVrotV
  with_reducible repeat' first | assumption | apply State.laneOut_wf

theorem execVrmrg_wf (a : VArgs) {s : State} (hs : s.wf) :
    wfOut (execVrmrg a s) := by
  unfold execVrmrg
  with_reducible repeat' first | assumption | apply State.laneOut_wf

theorem execVrmrgV_wf (a : VArgs) {s : State} (hs : s.wf) :
    wfOut (execVrmrgV a s) := by
  unfold execVrmrgV
  with_reducible repeat' first | assumption | apply State.laneOut_wf

theorem execVpack_wf (a : VArgs) {s : State} (hs : s.wf) :
    wfOut (execVpack a s) := by
  unfold execVpack
  with_reducible repeat' first | assumption | apply State.vecOut_wf

theorem execVunpk_wf (a : VArgs) {s : State} (hs : s.wf) :
    wfOut (execVunpk a s) := by
  unfold execVunpk
  with_reducible repeat' first | assumption | apply State.laneOut_wf

theorem execVzip_wf (a : VArgs) {s : State} (hs : s.wf) :
    wfOut (execVzip a s) := by
  unfold execVzip
  with_reducible repeat' first | assumption | apply State.laneOut_wf

theorem execVunzip_wf (a : VArgs) {s : State} (hs : s.wf) :
    wfOut (execVunzip a s) := by
  unfold execVunzip
  with_reducible repeat' first | assumption | apply State.laneOut_wf

theorem execVlane_wf (a : VArgs) {s : State} (hs : s.wf) :
    wfOut (execVlane a s) := by
  unfold execVlane
  with_reducible repeat' first | assumption | apply State.laneOut_wf

theorem execVlaneMul_wf (a : VArgs) {s : State} (hs : s.wf) :
    wfOut (execVlaneMul a s) := by
  unfold execVlaneMul
  with_reducible repeat' first | assumption | apply State.laneOut_wf

theorem execVxs_wf (a : VArgs) {s : State} (hs : s.wf) :
    wfOut (execVxs a s) := by
  unfold execVxs
  with_reducible repeat' first | assumption | apply State.landS_wf | apply wf_ite | apply wfOut.next

theorem State.reduceOut_wf {s : State} (hs : s.wf) (a : VArgs) (g : Nat → Nat) (f : Nat → Nat → Nat × Nat) (empty : Nat) (one : Nat → Nat × Nat) :
    wfOut (State.reduceOut s a g f empty one) := by
  unfold State.reduceOut
  with_reducible repeat' first | assumption | apply State.vecOut_wf

theorem execVrsum_wf (a : VArgs) {s : State} (hs : s.wf) :
    wfOut (execVrsum a s) := by
  unfold execVrsum
  with_reducible repeat' first | assumption | apply State.reduceOut_wf

theorem execVrmax_wf (a : VArgs) {s : State} (hs : s.wf) :
    wfOut (execVrmax a s) := by
  unfold execVrmax
  with_reducible repeat' first | assumption | apply State.reduceOut_wf

theorem execVrmin_wf (a : VArgs) {s : State} (hs : s.wf) :
    wfOut (execVrmin a s) := by
  unfold execVrmin
  with_reducible repeat' first | assumption | apply State.reduceOut_wf

theorem execVramax_wf (a : VArgs) {s : State} (hs : s.wf) :
    wfOut (execVramax a s) := by
  unfold execVramax
  with_reducible repeat' first | assumption | apply State.reduceOut_wf

theorem execVrisum_wf (a : VArgs) {s : State} (hs : s.wf) :
    wfOut (execVrisum a s) := by
  unfold execVrisum
  with_reducible repeat' first | assumption | apply State.vecOut_wf

theorem State.guardOut_wf {s : State} (hs : s.wf) (a : VArgs) (v : Nat) :
    wfOut (State.guardOut s a v) := by
  unfold State.guardOut
  with_reducible repeat' first | assumption | apply State.landG_wf | apply wfOut.next

theorem execGand_wf (a : VArgs) {s : State} (hs : s.wf) :
    wfOut (execGand a s) := by
  unfold execGand
  with_reducible repeat' first | assumption | apply State.guardOut_wf

theorem execGor_wf (a : VArgs) {s : State} (hs : s.wf) :
    wfOut (execGor a s) := by
  unfold execGor
  with_reducible repeat' first | assumption | apply State.guardOut_wf

theorem execGxor_wf (a : VArgs) {s : State} (hs : s.wf) :
    wfOut (execGxor a s) := by
  unfold execGxor
  with_reducible repeat' first | assumption | apply State.guardOut_wf

theorem execGandn_wf (a : VArgs) {s : State} (hs : s.wf) :
    wfOut (execGandn a s) := by
  unfold execGandn
  with_reducible repeat' first | assumption | apply State.guardOut_wf

theorem execGcnt_wf (a : VArgs) {s : State} (hs : s.wf) :
    wfOut (execGcnt a s) := by
  unfold execGcnt
  with_reducible repeat' first | assumption | apply State.laneOut_wf

theorem execGset_wf (a : VArgs) {s : State} (hs : s.wf) :
    wfOut (execGset a s) := by
  unfold execGset
  with_reducible repeat' first | assumption | apply State.guardOut_wf

theorem execGsetN_wf (a : VArgs) {s : State} (hs : s.wf) :
    wfOut (execGsetN a s) := by
  unfold execGsetN
  with_reducible repeat' first | assumption | apply State.guardOut_wf

theorem execVrng_wf (a : VArgs) {s : State} (hs : s.wf) :
    wfOut (execVrng a s) := by
  unfold execVrng
  with_reducible repeat' first | assumption | apply issue_wf | apply State.draw_wf | apply State.landV_wf

theorem execVrngf_wf (a : VArgs) {s : State} (hs : s.wf) :
    wfOut (execVrngf a s) := by
  unfold execVrngf
  with_reducible repeat' first | assumption | apply issue_wf | apply State.draw_wf | apply State.landV_wf

theorem execVnop_wf (_p : PSlot) (_gd : Gd) {s : State} (hs : s.wf) :
    wfOut (execVnop _p _gd s) := by
  unfold execVnop
  with_reducible repeat' first | assumption | apply wfOut.next

/-! MemSlots -/

theorem State.newOp_wf {s : State} (hs : s.wf) :
    (State.newOp s).1.wf := by
  unfold State.newOp
  with_reducible repeat' first | assumption | apply State.modMe_wf

theorem State.timedLoad_wf {s : State} (hs : s.wf) (a : MArgs) (slot : Nat) (home : Nat) (delay : Nat) (row : Nat → Nat) :
    (State.timedLoad s a slot home delay row).wf := by
  unfold State.timedLoad
  with_reducible repeat' first
    | assumption | apply State.newOp_wf | apply State.modMe_wf | apply State.time_wf | apply wf_ite | apply wf_foldl | intro _

theorem State.timedStore_wf {s : State} (hs : s.wf) (a : MArgs) (home : Nat) (delay : Nat) (prio : Nat) (row : Nat → Nat) :
    (State.timedStore s a home delay prio row).wf := by
  unfold State.timedStore
  with_reducible repeat' first | assumption | apply State.time_wf | apply wf_ite | apply wf_foldl | intro _

theorem execLdr_wf (a : MArgs) {s : State} (hs : s.wf) :
    wfOut (execLdr a s) := by
  unfold execLdr
  with_reducible repeat' first | assumption | apply State.timedLoad_wf | apply wfOut.next

theorem execLdrs_wf (a : MArgs) {s : State} (hs : s.wf) :
    wfOut (execLdrs a s) := by
  unfold execLdrs
  with_reducible repeat' first | assumption | apply State.timedLoad_wf | apply wfOut.next

theorem execStr_wf (a : MArgs) {s : State} (hs : s.wf) :
    wfOut (execStr a s) := by
  unfold execStr
  with_reducible repeat' first | assumption | apply State.timedStore_wf | apply wfOut.next

theorem execStrs_wf (a : MArgs) {s : State} (hs : s.wf) :
    wfOut (execStrs a s) := by
  unfold execStrs
  with_reducible repeat' first | assumption | apply State.timedStore_wf | apply wfOut.next

theorem execPld_wf (a : MArgs) {s : State} (hs : s.wf) :
    wfOut (execPld a s) := by
  unfold execPld
  with_reducible repeat' first | assumption | apply issue_wf | apply State.timedLoad_wf

theorem execPst_wf (a : MArgs) {s : State} (hs : s.wf) :
    wfOut (execPst a s) := by
  unfold execPst
  with_reducible repeat' first | assumption | apply issue_wf | apply State.timedStore_wf

theorem execStmc_wf (a : MArgs) {s : State} (hs : s.wf) :
    wfOut (execStmc a s) := by
  unfold execStmc
  with_reducible repeat' first | assumption | apply State.time_wf | apply wf_ite | apply wfOut.next | apply wf_foldl | intro _

theorem State.enqueue_wf {s : State} (hs : s.wf) (src : Nat) (qs : List QAcc) :
    (State.enqueue s src qs).wf := by
  unfold State.enqueue
  with_reducible repeat' first | assumption | apply State.modMe_wf

theorem gsOut_wf {s : State} (hs : s.wf) (c : GsChk) {eff : List (W64 × Bool) → State} (he : ∀ p, (eff p).wf) : wfOut (gsOut s c eff) := by
  unfold gsOut
  cases c with
  | trap a b => exact issue_wf hs _ hs
  | frozen => exact hs
  | ok p => exact he p

theorem State.queuedLoad_wf {s : State} (hs : s.wf) (i : Instr) (a : MArgs) (places : List (W64 × Bool)) :
    (State.queuedLoad s i a places).wf := by
  unfold State.queuedLoad
  with_reducible repeat' first | assumption | apply State.newOp_wf | apply State.modMe_wf | apply State.enqueue_wf | apply wf_ite

theorem State.queuedStore_wf {s : State} (hs : s.wf) (i : Instr) (a : MArgs) (places : List (W64 × Bool)) :
    (State.queuedStore s i a places).wf := by
  unfold State.queuedStore
  with_reducible repeat' first | assumption | apply State.newOp_wf | apply State.enqueue_wf | apply wf_ite

theorem execGld_wf (a : MArgs) {s : State} (hs : s.wf) :
    wfOut (execGld a s) := by
  unfold execGld
  with_reducible repeat' first | assumption | apply gsOut_wf | apply State.queuedLoad_wf

theorem execGlds_wf (a : MArgs) {s : State} (hs : s.wf) :
    wfOut (execGlds a s) := by
  unfold execGlds
  with_reducible repeat' first | assumption | apply gsOut_wf | apply State.queuedLoad_wf

theorem execGst_wf (a : MArgs) {s : State} (hs : s.wf) :
    wfOut (execGst a s) := by
  unfold execGst
  with_reducible repeat' first | assumption | apply gsOut_wf | apply State.queuedStore_wf

theorem execGsts_wf (a : MArgs) {s : State} (hs : s.wf) :
    wfOut (execGsts a s) := by
  unfold execGsts
  with_reducible repeat' first | assumption | apply gsOut_wf | apply State.queuedStore_wf

theorem State.stash_wf {s : State} (hs : s.wf) (a : MArgs) (addr : Nat → Nat) :
    (State.stash s a addr).wf := by
  unfold State.stash
  with_reducible repeat' first | assumption | apply State.newOp_wf | apply State.enqueue_wf

theorem execStash_wf (a : MArgs) {s : State} (hs : s.wf) :
    wfOut (execStash a s) := by
  unfold execStash
  with_reducible repeat' first | assumption | apply State.stash_wf | apply wfOut.next

theorem execPstash_wf (a : MArgs) {s : State} (hs : s.wf) :
    wfOut (execPstash a s) := by
  unfold execPstash
  with_reducible repeat' first | assumption | apply issue_wf | apply State.stash_wf

theorem execAtom_wf (a : MArgs) {s : State} (hs : s.wf) :
    wfOut (execAtom a s) := by
  unfold execAtom
  with_reducible repeat' first | assumption | apply gsOut_wf | apply State.newOp_wf | apply State.modMe_wf | apply State.enqueue_wf | intro _

theorem execAtomr_wf (a : MArgs) {s : State} (hs : s.wf) :
    wfOut (execAtomr a s) := by
  unfold execAtomr
  with_reducible repeat' first | assumption | apply gsOut_wf | apply State.newOp_wf | apply State.modMe_wf | apply State.enqueue_wf | intro _

theorem execNop_wf (_slot : NSlot) {s : State} (hs : s.wf) :
    wfOut (execNop _slot s) := by
  unfold execNop
  with_reducible repeat' first | assumption | apply wfOut.next

/-! Quant -/

theorem execScld_wf (a : QArgs) {s : State} (hs : s.wf) : wfOut (execScld a s) := State.time_wf (State.modMe_wf (State.newOp_wf hs) _) _

theorem execScst_wf (a : QArgs) {s : State} (hs : s.wf) :
    wfOut (execScst a s) := by
  unfold execScst
  with_reducible repeat' first | assumption | apply State.time_wf | apply wfOut.next

theorem execScmov_wf (a : QArgs) {s : State} (hs : s.wf) :
    wfOut (execScmov a s) := by
  unfold execScmov
  with_reducible repeat' first | assumption | apply State.enter_wf | apply wfOut.next

theorem execScmovToVector_wf (a : QArgs) {s : State} (hs : s.wf) :
    wfOut (execScmovToVector a s) := by
  unfold execScmovToVector
  with_reducible repeat' first | assumption | apply State.enter_wf | apply wfOut.next

theorem execQmax_wf (a : QArgs) {s : State} (hs : s.wf) :
    wfOut (execQmax a s) := by
  unfold execQmax
  with_reducible repeat' first | assumption | apply State.enter_wf | apply wfOut.next

theorem execQcvt_wf (a : QArgs) {s : State} (hs : s.wf) :
    wfOut (execQcvt a s) := by
  unfold execQcvt
  with_reducible repeat' first | assumption | apply State.enter_wf | apply wfOut.next

theorem execQcvtDec_wf (a : QArgs) {s : State} (hs : s.wf) :
    wfOut (execQcvtDec a s) := by
  unfold execQcvtDec
  with_reducible repeat' first | assumption | apply State.enter_wf | apply wfOut.next

theorem execQstep_wf (a : QArgs) {s : State} (hs : s.wf) :
    wfOut (execQstep a s) := by
  unfold execQstep
  with_reducible repeat' first | assumption | apply State.enter_wf | apply wfOut.next

/-! Sync -/

theorem State.setSy_wf {s : State} (hs : s.wf) (key : Nat) (w : SyncWord) :
    (State.setSy s key w).wf := by
  unfold State.setSy
  with_reducible repeat' first
    | assumption | apply State.putMem_wf | apply wf_ite | apply wf_putBytes | refine State.wf.mem ?_ | refine State.wf.host ?_
    | apply wf_mk

theorem State.syRead_wf {s : State} (hs : s.wf) (a : Nat) :
    (State.syRead s a).1.wf := by
  unfold State.syRead
  with_reducible repeat' first | assumption | apply State.injArray_wf | apply State.injRow_wf | apply wf_ite | apply wfP_ite

theorem State.syRefuse_wf {s : State} (hs : s.wf) (a : Nat) :
    (State.syRefuse s a).wf := by
  unfold State.syRefuse
  with_reducible repeat' first | assumption | apply State.errRecord_wf

theorem State.queueEntry_wf {s : State} (hs : s.wf) (e : Entry) :
    (State.queueEntry s e).wf := by
  unfold State.queueEntry
  with_reducible repeat' first
    | assumption | apply State.post_wf | apply wf_putBytes | refine State.wf.mem ?_ | refine State.wf.host ?_ | apply wf_mk

theorem State.readyEntry_wf {s : State} (hs : s.wf) (key : Nat) :
    (State.readyEntry s key).wf := by
  unfold State.readyEntry
  with_reducible repeat' first
    | assumption | apply State.queueEntry_wf | apply wf_putBytes | refine State.wf.mem ?_ | refine State.wf.host ?_ | split
    | apply wf_mk

theorem State.fireDep_wf {s : State} (hs : s.wf) (die : Nat) (v : W64) :
    (State.fireDep s die v).wf := by
  unfold State.fireDep
  with_reducible repeat' first | assumption | apply State.readyEntry_wf

theorem State.reportTask_wf {s : State} (hs : s.wf) (ctx : Nat) (serial : Nat) (cause : Nat) (tval : W64) :
    (State.reportTask s ctx serial cause tval).wf := by
  unfold State.reportTask
  with_reducible repeat' first
    | assumption | apply State.report_wf | refine State.wf.mem ?_ | refine State.wf.host ?_ | apply wf_ite | split | apply wf_mk

theorem State.setTaskFlag_wf {s : State} (hs : s.wf) (serial : Nat) (flag : Nat) (log : Bool) (addr : Nat) :
    (State.setTaskFlag s serial flag log addr).wf := by
  unfold State.setTaskFlag
  with_reducible repeat' first | assumption | apply State.setFlag_wf | apply State.putMem_wf | apply State.syRefuse_wf | apply wf_ite | split

theorem State.arrFlag_wf {s : State} (hs : s.wf) (addr : Nat) (ctx : Nat) (flag : Nat) :
    (State.arrFlag s addr ctx flag).wf := by
  unfold State.arrFlag
  with_reducible repeat' first | assumption | apply State.syRefuse_wf | apply State.setTaskFlag_wf | apply wf_ite

theorem State.arrAction_wf {s : State} (hs : s.wf) (a : Nat) :
    (State.arrAction s a).wf := by
  unfold State.arrAction
  repeat' first
    | with_reducible assumption | with_reducible apply State.arrFlag_wf | with_reducible refine State.wf.mem ?_
    | with_reducible refine State.wf.host ?_ | split | dsimp only | with_reducible apply wf_mk

theorem State.syDec_wf {s : State} (hs : s.wf) (a : Nat) :
    (State.syDec s a).wf := by
  unfold State.syDec
  refine wf_ite (State.syRefuse_wf hs _) ?_
  generalize s.syWord a = w
  generalize syKey a = k
  obtain ⟨kd, v⟩ := w
  cases kd
  · exact State.setSy_wf hs _ _
  · refine wf_ite (State.setSy_wf hs _ _) (wf_ite (wf_ite (State.fireDep_wf ?_ _ _) ?_) (State.setSy_wf hs _ _)) <;> exact State.setSy_wf hs _ _
  · exact wf_ite (State.setSy_wf (State.arrAction_wf hs _) _ _) (State.setSy_wf hs _ _)

theorem State.syStore_wf {s : State} (hs : s.wf) (a : Nat) (v : W64) :
    (State.syStore s a v).wf := by
  unfold State.syStore
  with_reducible repeat' first | assumption | apply State.syRefuse_wf | apply State.setSy_wf | apply State.fireDep_wf | apply wf_ite | split

theorem State.syAtomic_wf {s : State} (hs : s.wf) (a : Nat) (op : Nat) (x : W64) (cv : W64) (wide : Bool) :
    (State.syAtomic s a op x cv wide).1.wf := by
  unfold State.syAtomic
  with_reducible repeat' first | assumption | apply State.syRefuse_wf | apply State.syDec_wf | apply State.setSy_wf | apply wfP_ite

theorem State.syAtom_wf {s : State} (hs : s.wf) (a : Nat) (op : Nat) (x : W64) (cv : W64) (wide : Bool) :
    (State.syAtom s a op x cv wide).1.wf := by
  unfold State.syAtom
  with_reducible repeat' first | assumption | apply State.syAtomic_wf | apply State.syRead_wf | apply wf_ite | apply wfP_ite

theorem State.syCount_wf {s : State} (hs : s.wf) (a : Nat) :
    (State.syCount s a).wf := by
  unfold State.syCount
  with_reducible repeat' first | assumption | apply State.syDec_wf | apply State.syRead_wf | apply wf_ite

theorem State.syRow_wf {s : State} (hs : s.wf) (a : Nat) :
    (State.syRow s a).1.wf := by
  unfold State.syRow
  with_reducible repeat' first | assumption | apply State.syRefuse_wf | apply wf_ite

theorem State.syRowStore_wf {s : State} (hs : s.wf) (base : Nat) (data : Nat) (mask : Nat) (z0 : Nat) :
    (State.syRowStore s base data mask z0).wf := by
  revert hs
  induction z0 generalizing s base data mask with
  | zero =>
    intros; unfold State.syRowStore
    with_reducible repeat' first | assumption
  | succ _ ih =>
    intros; unfold State.syRowStore
    with_reducible repeat' first | assumption | apply ih | apply State.syStore_wf | apply wf_ite

theorem State.liveRead_wf {s : State} (hs : s.wf) (a : W64) :
    (State.liveRead s a).1.wf := by
  unfold State.liveRead
  with_reducible repeat' first | assumption | apply State.errRecord_wf | apply State.freshWord_wf | apply State.syRefuse_wf | apply wfP_ite

/-! Group -/

theorem State.bindEntry_wf {s : State} (hs : s.wf) (dep : Nat) (e : Entry) :
    wfMade (State.bindEntry s dep e) := by
  unfold State.bindEntry
  with_reducible repeat' first
    | assumption | apply State.queueEntry_wf | apply State.setSy_wf | apply wf_ite | apply wfMade_ite | apply wfMade.ok
    | apply wfMade.full | apply wfMade.refused | apply wf_putBytes | refine State.wf.mem ?_ | refine State.wf.host ?_ | split
    | apply wf_mk

theorem State.makeGroup_wf {s : State} (hs : s.wf) (cmd : Nat) (idx : Nat) (level : Nat) (size : Nat) (die : Nat) (resmask : Nat) (r : Row) :
    wfMade (State.makeGroup s cmd idx level size die resmask r) := by
  unfold State.makeGroup
  repeat' first
    | with_reducible assumption | with_reducible apply State.bindEntry_wf | with_reducible apply State.putMem_wf
    | with_reducible apply wfMade.ok | with_reducible apply wfMade.full | with_reducible apply wfMade.refused
    | with_reducible apply wf_putBytes | with_reducible refine State.wf.mem ?_ | with_reducible refine State.wf.host ?_ | split
    | dsimp only | with_reducible apply wf_mk

theorem State.triggerBy_wf {s : State} (hs : s.wf) (n : Nat) (key : Nat) (after : List (Nat × Nat)) :
    (State.triggerBy s n key after).wf := by
  unfold State.triggerBy
  with_reducible repeat' first
    | assumption | apply State.modCtx_wf | apply wf_ite | refine State.wf.mem ?_ | refine State.wf.host ?_ | split | apply wf_mk

theorem State.tryFinish_wf {s : State} (hs : s.wf) (cmd : Nat) :
    (State.tryFinish s cmd).wf := by
  unfold State.tryFinish
  with_reducible repeat' first | assumption | apply State.finishCmd_wf | apply wf_ite | split

theorem State.memberEnds_wf {s : State} (hs : s.wf) (n : Nat) (key : Nat) :
    (State.memberEnds s n key).wf := by
  unfold State.memberEnds
  with_reducible repeat' first
    | assumption | apply wf_putBytes | refine State.wf.mem ?_ | refine State.wf.host ?_ | split | apply wf_mk

theorem State.leaveGroup_wf {s : State} (hs : s.wf) (n : Nat) (key : Nat) :
    (State.leaveGroup s n key).wf := by
  unfold State.leaveGroup
  with_reducible repeat' first
    | assumption | apply State.triggerBy_wf | apply State.tryFinish_wf | apply wf_ite | refine State.wf.mem ?_ | refine State.wf.host ?_
    | split | apply wf_mk

/-! Fetch -/

theorem State.fetched_wf {s : State} (hs : s.wf) (key : Nat) (i : Nat) (e : FetchEnt) :
    (State.fetched s key i e).1.wf := by
  unfold State.fetched
  with_reducible repeat' first
    | assumption | apply State.lostRec_wf | apply State.injArray_wf | apply wf_ite | apply wfP_ite | apply wf_putBytes
    | refine State.wf.mem ?_ | refine State.wf.host ?_ | split | apply wf_mk

theorem State.fetchAt_wf {s : State} (hs : s.wf) (key i : Nat) (pc : CodeAddr) : (State.fetchAt s key i pc).1.wf :=
  State.fetched_wf (wf_ite (State.injRow_wf hs _) (State.injRow_wf (State.injRow_wf hs _) _)) _ _ _

theorem State.fetchOne_wf {s : State} (hs : s.wf) (key : Nat) :
    (State.fetchOne s key).wf := by
  unfold State.fetchOne
  with_reducible repeat' first
    | assumption | apply State.fetchAt_wf | apply State.modCtx_wf | apply wf_ite | intro _ | apply wf_putBytes
    | refine State.wf.mem ?_ | refine State.wf.host ?_ | split | apply wf_mk

theorem State.bindId_wf {s : State} (hs : s.wf) (core : Nat) (id : Nat) (base : Nat) (n : Nat) : wfOpt (State.bindId s core id base n) := by
  unfold State.bindId
  dsimp only
  split
  · exact State.setCore_wf hs _ _
  · split
    · exact State.setCore_wf hs _ _
    · cases s.victim core (s.core core).region with
      | none => trivial
      | some k => exact State.setCore_wf hs _ _

theorem State.writeEntries_wf {s : State} (hs : s.wf) (core : Nat) (base : Nat) (get : Nat → Nat) (z0 : Nat) :
    (State.writeEntries s core base get z0).1.wf := by
  revert hs
  induction z0 generalizing s core base get with
  | zero =>
    intros; unfold State.writeEntries
    with_reducible repeat' first | assumption
  | succ _ ih =>
    intros; unfold State.writeEntries
    with_reducible repeat' first | assumption | apply ih | apply State.modCore_wf | apply wfP_ite

/-! Control -/

theorem execCnop_wf {s : State} (hs : s.wf) :
    wfOut (execCnop s) := by
  unfold execCnop
  with_reducible repeat' first | assumption | apply wfOut.next

theorem State.branch_wf {s : State} (hs : s.wf) (taken : Bool) (t : CodeAddr) :
    wfOut (State.branch s taken t) := by
  unfold State.branch
  with_reducible repeat' first | assumption | apply State.modMe_wf | apply wf_ite | apply wfOut.next

theorem execBr_wf (off : BitVec 24) {s : State} (hs : s.wf) :
    wfOut (execBr off s) := by
  unfold execBr
  with_reducible repeat' first | assumption | apply State.branch_wf

theorem execBrz_wf (r : BitVec 6) (off : BitVec 18) {s : State} (hs : s.wf) :
    wfOut (execBrz r off s) := by
  unfold execBrz
  with_reducible repeat' first | assumption | apply State.branch_wf

theorem execBrnz_wf (r : BitVec 6) (off : BitVec 18) {s : State} (hs : s.wf) :
    wfOut (execBrnz r off s) := by
  unfold execBrnz
  with_reducible repeat' first | assumption | apply State.branch_wf

theorem execBrg_wf (g : BitVec 4) (inv : Bool) (off : BitVec 19) {s : State} (hs : s.wf) :
    wfOut (execBrg g inv off s) := by
  unfold execBrg
  with_reducible repeat' first | assumption | apply State.branch_wf

theorem execJmp_wf (r : BitVec 6) {s : State} (hs : s.wf) :
    wfOut (execJmp r s) := by
  unfold execJmp
  with_reducible repeat' first | assumption | apply State.branch_wf

theorem execCall_wf (off : BitVec 24) {s : State} (hs : s.wf) :
    wfOut (execCall off s) := by
  unfold execCall
  with_reducible repeat' first | assumption | apply issue_wf | apply State.landS_wf | apply State.modMe_wf

theorem execRet_wf {s : State} (hs : s.wf) :
    wfOut (execRet s) := by
  unfold execRet
  with_reducible repeat' first | assumption | apply issue_wf | apply State.modMe_wf

theorem State.pairUsed_wf {s : State} (hs : s.wf) :
    (State.pairUsed s).wf := by
  unfold State.pairUsed
  with_reducible repeat' first | assumption | apply State.modMe_wf

theorem State.bodyFrom_wf {s : State} (hs : s.wf) (key : Nat) (i : Nat) (pc : CodeAddr) (z0 : Nat) :
    (State.bodyFrom s key i pc z0).1.wf := by
  revert hs
  induction z0 generalizing s key i pc with
  | zero =>
    intros; unfold State.bodyFrom
    with_reducible repeat' first | assumption | apply State.next_wf | apply Uk.s_wf | apply State.fetchAt_wf
  | succ _ ih =>
    intros; unfold State.bodyFrom
    with_reducible repeat' first | assumption | apply ih | apply State.next_wf | apply Uk.s_wf | apply State.fetchAt_wf

theorem State.startLoop_wf {s : State} (hs : s.wf) (row : Nat) (n : Nat) :
    (State.startLoop s row n).wf := by
  unfold State.startLoop
  with_reducible repeat' first
    | assumption | apply State.bodyFrom_wf | apply State.modMe_wf | apply wf_ite | intro _ | apply wf_putBytes
    | refine State.wf.mem ?_ | refine State.wf.host ?_ | split | apply wf_mk

theorem execLoop_wf (base : BitVec 6) (body : BitVec 4) (off : BitVec 14) {s : State} (hs : s.wf) :
    wfOut (execLoop base body off s) := by
  unfold execLoop
  with_reducible repeat' first | assumption | apply issue_wf | apply State.startLoop_wf | apply State.pairUsed_wf

theorem execLoopbrk_wf (g : BitVec 4) (inv : Bool) {s : State} (hs : s.wf) :
    wfOut (execLoopbrk g inv s) := by
  unfold execLoopbrk
  with_reducible repeat' first | assumption | apply issue_wf | apply State.modMe_wf | apply wf_ite

theorem execTend_wf {s : State} (hs : s.wf) :
    wfOut (execTend s) := by
  unfold execTend
  with_reducible repeat' first | assumption | apply issue_wf | apply State.modMe_wf

theorem execTwait_wf (r : BitVec 6) (off : BitVec 18) {s : State} (hs : s.wf) :
    wfOut (execTwait r off s) := by
  unfold execTwait
  repeat' first
    | with_reducible assumption | with_reducible apply issue_wf | with_reducible apply State.modMe_wf | with_reducible apply wf_ite
    | with_reducible apply wfOut_ite | intro _ | with_reducible apply wfOut.next | with_reducible apply wfOut.fault
    | with_reducible apply wfOut.refused | with_reducible apply wf_putBytes | with_reducible refine State.wf.mem ?_
    | with_reducible refine State.wf.host ?_ | split | dsimp only | with_reducible apply wf_mk

theorem execTsig_wf (r : BitVec 6) {s : State} (hs : s.wf) :
    wfOut (execTsig r s) := by
  unfold execTsig
  with_reducible repeat' first | assumption | apply issue_wf | apply State.modMe_wf

theorem State.spawn_wf {s : State} (hs : s.wf) (p : BitVec 2048) :
    wfMade (State.spawn s p) := by
  unfold State.spawn
  with_reducible repeat' first
    | assumption | apply State.makeGroup_wf | exact wfMade.refused | refine State.wf.mem ?_ | refine State.wf.host ?_ | split | apply wf_mk

theorem execTspawn_wf (r : BitVec 6) (off : BitVec 18) {s : State} (hs : s.wf) :
    wfOut (execTspawn r off s) := by
  unfold execTspawn
  repeat' first
    | with_reducible assumption | with_reducible apply issue_wf | with_reducible apply State.spawn_wf
    | with_reducible apply State.pairUsed_wf | with_reducible apply wfOut.next | split | (refine wf_madeOk (by assumption) ?_) | dsimp only

theorem execTrig_wf {s : State} (hs : s.wf) :
    wfOut (execTrig s) := by
  unfold execTrig
  with_reducible repeat' first | assumption | apply issue_wf | apply State.modMe_wf | apply State.triggerBy_wf | split

theorem execYield_wf {s : State} (hs : s.wf) :
    wfOut (execYield s) := by
  unfold execYield
  with_reducible repeat' first | assumption | apply issue_wf | apply State.modMe_wf | apply wf_ite

theorem execRdv_wf (sa : BitVec 6) (se : BitVec 6) {s : State} (hs : s.wf) :
    wfOut (execRdv sa se s) := by
  unfold execRdv
  with_reducible repeat' first
    | assumption | apply issue_wf | apply State.takeTrap_wf | apply State.modMe_wf | intro _ | apply wfOut.next | apply wfOut.fault
    | apply wfOut.refused | apply wf_putBytes | refine State.wf.mem ?_ | refine State.wf.host ?_ | split | apply wf_mk

theorem execMark_wf {s : State} (hs : s.wf) :
    wfOut (execMark s) := by
  unfold execMark
  with_reducible repeat' first | assumption | apply State.modMe_wf | apply wfOut.next

theorem execFset_wf (m : BitVec 16) {s : State} (hs : s.wf) :
    wfOut (execFset m s) := by
  unfold execFset
  with_reducible repeat' first | assumption | apply State.modMe_wf | apply wfOut.next

theorem execFclr_wf (m : BitVec 16) {s : State} (hs : s.wf) :
    wfOut (execFclr m s) := by
  unfold execFclr
  with_reducible repeat' first | assumption | apply State.modMe_wf | apply wfOut.next

theorem execFence_wf (scope : BitVec 3) (kind : BitVec 2) {s : State} (hs : s.wf) :
    wfOut (execFence scope kind s) := by
  unfold execFence
  with_reducible repeat' first | assumption | apply State.modMe_wf | apply wfOut.next

theorem execTrap_wf (cause : BitVec 8) (code : BitVec 16) {s : State} (hs : s.wf) :
    wfOut (execTrap cause code s) := by
  unfold execTrap
  with_reducible repeat' first | assumption | apply State.takeTrap_wf | apply wfOut.next

theorem execBkpt_wf (imm : BitVec 24) {s : State} (hs : s.wf) :
    wfOut (execBkpt imm s) := by
  unfold execBkpt
  with_reducible repeat' first | assumption | apply State.takeTrap_wf | apply wfOut.next

theorem execRft_wf {s : State} (hs : s.wf) :
    wfOut (execRft s) := by
  unfold execRft
  with_reducible repeat' first
    | assumption | apply State.returnTrap_wf | apply State.modMe_wf | apply issue_wf | apply wf_ite | apply wfOut.next | apply wfOut_ite

theorem execRmack_wf {s : State} (hs : s.wf) :
    wfOut (execRmack s) := by
  unfold execRmack
  with_reducible repeat' first | assumption | apply issue_wf | apply State.modMe_wf

theorem execDswap_wf {s : State} (hs : s.wf) :
    wfOut (execDswap s) := by
  unfold execDswap
  repeat' first
    | with_reducible assumption | with_reducible apply issue_wf | with_reducible apply State.bindId_wf | with_reducible apply State.modMe_wf
    | with_reducible apply wfOut.next | with_reducible apply wfOut_ite | split | (refine wf_optSome (by assumption) ?_) | dsimp only

theorem execRot_wf (n : BitVec 10) {s : State} (hs : s.wf) :
    wfOut (execRot n s) := by
  unfold execRot
  with_reducible repeat' first | assumption | apply State.modTgt_wf | apply wfOut.next

theorem State.tick_wf {s : State} (hs : s.wf) (key : Nat) :
    (State.tick s key).wf := by
  unfold State.tick
  with_reducible repeat' first | assumption | apply State.modCtx_wf

/-! Trans -/

theorem State.leafOf_wf {s : State} (hs : s.wf) (die : Nat) (part : Nat) (va : Nat) : (State.leafOf s die part va).1.wf := by
  unfold State.leafOf
  dsimp only
  split
  · exact hs
  · split
    · exact State.setDie_wf hs _ _
    · exact hs

theorem State.pieces_wf {s : State} (hs : s.wf) (die : Nat) (part : Nat) (va : Nat) (n : Nat) (write : Bool) (acc : List Piece)
    (z0 : Nat) : (State.pieces s die part va n write acc z0).1.wf := by
  induction z0 generalizing s va n acc with
  | zero => exact hs
  | succ k ih =>
    unfold State.pieces
    have h := State.leafOf_wf hs die part va
    split
    · exact hs
    · split
      · rename_i e; rw [e] at h; exact h
      · rename_i e; rw [e] at h
        dsimp only
        split
        · exact h
        · exact ih h _ _ _

theorem State.rangePieces_wf {s : State} (hs : s.wf) (die : Nat) (part : Nat) (r : Nat × Nat × Nat) : (State.rangePieces s die part r).1.wf := by
  unfold State.rangePieces
  have h := State.pieces_wf hs die part r.1 (r.2.1 * 4096) (decide (2 ≤ r.2.2)) [] (r.2.1 * 4096 / 2 ^ 21 + 2)
  dsimp only
  split
  · rename_i e; rw [e] at h; exact h
  · exact h

theorem State.extentsFrom_wf {s : State} (hs : s.wf) (die : Nat) (part : Nat) (r : Row) (es : List Extent) (free : Nat) (i : Nat) (z0 : Nat) :
    (State.extentsFrom s die part r es free i z0).1.wf := by
  revert hs
  induction z0 generalizing s die part r es free i with
  | zero =>
    intros; unfold State.extentsFrom
    with_reducible repeat' first | assumption
  | succ _ ih =>
    intros; unfold State.extentsFrom
    repeat' first
      | with_reducible assumption | with_reducible apply ih | with_reducible apply State.rangePieces_wf | with_reducible apply wfP_ite
      | split | (refine wf_pair (by assumption) ?_)

theorem State.extentsOf_wf {s : State} (hs : s.wf) (die : Nat) (part : Nat) (r : Row) :
    (State.extentsOf s die part r).1.wf := by
  unfold State.extentsOf
  with_reducible repeat' first | assumption | apply State.extentsFrom_wf

theorem State.setExt_wf {s : State} (hs : s.wf) (n : Nat) (es : List Extent) :
    (State.setExt s n es).wf := by
  unfold State.setExt
  with_reducible repeat' first | assumption | apply State.modCtx_wf | apply State.putMem_wf

/-! Quilt -/

theorem State.qldGo_wf {s : State} (hs : s.wf) (a : MArgs) (places : List (W64 × Bool)) :
    (State.qldGo s a places).wf := by
  unfold State.qldGo
  with_reducible repeat' first
    | assumption | apply State.newOp_wf | apply State.modMe_wf | apply State.pairUsed_wf | apply State.enqueue_wf | apply wf_ite

theorem State.qscatGo_wf {s : State} (hs : s.wf) (a : MArgs) (places : List (W64 × Bool)) :
    (State.qscatGo s a places).wf := by
  unfold State.qscatGo
  with_reducible repeat' first | assumption | apply State.newOp_wf | apply State.modMe_wf | apply State.enqueue_wf | apply State.pairUsed_wf

/-! Record -/

theorem State.logStore_wf {s : State} (hs : s.wf) (n : Nat) (o : Nat) (rows : List Row) (poison : Bool) :
    (State.logStore s n o rows poison).wf := by
  unfold State.logStore
  with_reducible repeat' first | assumption | apply State.modCtx_wf

theorem State.logAppend_wf {s : State} (hs : s.wf) (n : Nat) (parcel : Nat) (qld : Bool) (scal : Nat) (kreg : Nat) (p : LogPlan) :
    (State.logAppend s n parcel qld scal kreg p).wf := by
  unfold State.logAppend
  with_reducible repeat' first | assumption | apply State.logStore_wf | apply State.modCtx_wf

theorem State.logCopies_wf {s : State} (hs : s.wf) (w : WinEnt) :
    (State.logCopies s w).wf := by
  unfold State.logCopies
  with_reducible repeat' first | assumption | apply State.logStore_wf | apply wf_ite | split

theorem State.logQld_wf {s : State} (hs : s.wf) (a : MArgs) :
    (State.logQld s a).wf := by
  unfold State.logQld
  with_reducible repeat' first | assumption | apply State.logAppend_wf | apply State.logStore_wf | apply wf_ite

theorem execQld_wf (a : MArgs) {s : State} (hs : s.wf) :
    wfOut (execQld a s) := by
  unfold execQld
  with_reducible repeat' first | assumption | apply gsOut_wf | apply State.logQld_wf | apply State.qldGo_wf | intro _ | split

theorem execQscat_wf (a : MArgs) {s : State} (hs : s.wf) :
    wfOut (execQscat a s) := by
  unfold execQscat
  with_reducible repeat' first | assumption | apply gsOut_wf | apply State.qscatGo_wf

theorem execBaste_wf {s : State} (hs : s.wf) :
    wfOut (execBaste s) := by
  unfold execBaste
  with_reducible repeat' first | assumption | apply issue_wf | apply State.modMe_wf | apply wf_ite

theorem execKnot_wf {s : State} (hs : s.wf) :
    wfOut (execKnot s) := by
  unfold execKnot
  with_reducible repeat' first | assumption | apply issue_wf | apply State.modMe_wf | apply wfOut.next | apply wfOut_ite | split

end Sys2Proof.Machine
end

