-- ==== Sys2Proof/Laws/WfFabric.lean ====
section
/-! SUPPORT. Canonical memory is kept by the fabric, matrix, description, access, trap, landing, tree and expert operations: one lemma per operation. -/

namespace Sys2Proof.Machine

/-! Fabric -/

theorem State.setTx_wf {s : State} (hs : s.wf) (i : Nat) (t : TxSlot) :
    (State.setTx s i t).wf := by
  unfold State.setTx
  with_reducible repeat' first | assumption | refine State.wf.mem ?_ | refine State.wf.host ?_ | apply wf_mk

theorem State.setRx_wf {s : State} (hs : s.wf) (i : Nat) (r : RxSlot) :
    (State.setRx s i r).wf := by
  unfold State.setRx
  with_reducible repeat' first | assumption | refine State.wf.mem ?_ | refine State.wf.host ?_ | apply wf_mk

theorem State.protect_wf {s : State} (hs : s.wf) (peer : Nat) (f : Flit) :
    (State.protect s peer f).1.wf := by
  unfold State.protect
  repeat' first
    | with_reducible assumption | with_reducible apply wfP_ite | with_reducible refine State.wf.mem ?_
    | with_reducible refine State.wf.host ?_ | split | dsimp only | with_reducible apply wf_mk

theorem State.queueAt_wf {s : State} (hs : s.wf) (slot : Nat) (f : Flit) :
    (State.queueAt s slot f).wf := by
  unfold State.queueAt
  with_reducible repeat' first
    | assumption | apply State.setTx_wf | apply wf_ite | apply wf_putBytes | refine State.wf.mem ?_ | refine State.wf.host ?_ | split
    | apply wf_mk

theorem State.toLink_wf {s : State} (hs : s.wf) (l : Link) (slot : Nat) (f : Flit) :
    (State.toLink s l slot f).wf := by
  unfold State.toLink
  repeat' first
    | with_reducible assumption | with_reducible refine State.wf.mem ?_ | with_reducible refine State.wf.host ?_ | dsimp only
    | with_reducible apply wf_mk

theorem State.overBridge_wf {s : State} (hs : s.wf) (d : Nat) (goal : Nat) (dest : Nat) (f : Flit) {here : State} (hhere : here.wf) :
    (State.overBridge s d goal dest f here).wf := by
  unfold State.overBridge
  with_reducible repeat' first | assumption | apply State.toLink_wf | split

theorem State.modHolder_wf {s : State} (hs : s.wf) (n : Nat) (f : Ctx → Ctx) :
    (State.modHolder s n f).wf := by
  unfold State.modHolder
  repeat' first
    | with_reducible assumption | with_reducible apply State.modCtx_wf | with_reducible apply wf_ite | with_reducible refine State.wf.mem ?_
    | with_reducible refine State.wf.host ?_ | split | dsimp only | with_reducible apply wf_mk

theorem State.goneStore_wf {s : State} (hs : s.wf) (n : Nat) (q : QAcc) :
    (State.goneStore s n q).wf := by
  unfold State.goneStore
  with_reducible repeat' first
    | assumption | apply State.modHolder_wf | apply wf_ite | intro _ | apply wf_putBytes | refine State.wf.mem ?_
    | refine State.wf.host ?_ | apply wf_mk

theorem State.dropAcc_wf {s : State} (hs : s.wf) (n : Nat) (q : QAcc) :
    (State.dropAcc s n q).wf := by
  unfold State.dropAcc
  with_reducible repeat' first | assumption | apply State.goneStore_wf | apply State.modHolder_wf | apply wf_ite | intro _

theorem State.mxFault_wf {s : State} (hs : s.wf) (c : MxCmd) (cause : Nat) (tval : W64) :
    (State.mxFault s c cause tval).wf := by
  unfold State.mxFault
  with_reducible repeat' first | assumption | apply State.reportCap_wf

theorem State.discard_wf {s : State} (hs : s.wf) (f : Flit) :
    (State.discard s f).wf := by
  unfold State.discard
  with_reducible repeat' first
    | assumption | apply State.mxFault_wf | apply State.dropAcc_wf | apply State.modCore_wf | apply wf_ite | intro _ | apply wf_getD
    | apply wf_putBytes | refine State.wf.mem ?_ | refine State.wf.host ?_ | split | apply wf_mk

theorem State.moveOn_wf {s : State} (hs : s.wf) (slot : Nat) (f : Flit) :
    (State.moveOn s slot f).wf := by
  unfold State.moveOn
  with_reducible repeat' first
    | assumption | apply State.discard_wf | apply State.overBridge_wf | apply State.queueAt_wf | apply wf_ite | split

theorem State.toSlot_wf {s : State} (hs : s.wf) (slot : Nat) (f : Flit) :
    (State.toSlot s slot f).wf := by
  unfold State.toSlot
  with_reducible repeat' first | assumption | apply State.moveOn_wf | apply State.queueAt_wf | apply wf_ite

theorem State.fromDie_wf {s : State} (hs : s.wf) (d : Nat) (slot : Nat) (f : Flit) :
    (State.fromDie s d slot f).wf := by
  unfold State.fromDie
  with_reducible repeat' first | assumption | apply State.toSlot_wf | apply State.overBridge_wf

theorem State.fromCore_wf {s : State} (hs : s.wf) (n : Nat) (slot : Nat) (f : Flit) :
    (State.fromCore s n slot f).wf := by
  unfold State.fromCore
  with_reducible repeat' first | assumption | apply State.toLink_wf | apply State.fromDie_wf | apply wf_ite

theorem State.inject_wf {s : State} (hs : s.wf) (core : Nat) (peer : Nat) (f : Flit) :
    wfOpt (State.inject s core peer f) := by
  unfold State.inject
  with_reducible repeat' first | assumption | apply State.fromCore_wf | apply wfOpt_map | intro _

theorem State.injectDie_wf {s : State} (hs : s.wf) (die : Nat) (peer : Nat) (f : Flit) :
    wfOpt (State.injectDie s die peer f) := by
  unfold State.injectDie
  with_reducible repeat' first | assumption | apply State.fromDie_wf | apply wfOpt_map | intro _

theorem State.sendCtl_wf {s : State} (hs : s.wf) (die : Nat) (peer : Nat) (f : Flit) :
    (State.sendCtl s die peer f).wf := by
  unfold State.sendCtl
  with_reducible repeat' first | assumption | apply State.injectDie_wf | apply wf_getD

theorem State.linkError_wf {s : State} (hs : s.wf) (rx : Nat) :
    (State.linkError s rx).wf := by
  unfold State.linkError
  repeat' first
    | with_reducible assumption | with_reducible apply State.errRecord_wf | with_reducible apply State.setRx_wf
    | with_reducible apply State.sendCtl_wf | with_reducible refine State.wf.mem ?_ | with_reducible refine State.wf.host ?_ | dsimp only
    | with_reducible apply wf_mk

theorem State.rxOut_wf {s : State} (hs : s.wf) (rx : Nat) :
    (State.rxOut s rx).wf := by
  unfold State.rxOut
  with_reducible repeat' first | assumption | apply State.setRx_wf | apply State.post_wf | apply wf_ite

theorem State.tagFail_wf {s : State} (hs : s.wf) (rx : Nat) :
    (State.tagFail s rx).wf := by
  unfold State.tagFail
  with_reducible repeat' first | assumption | apply State.linkError_wf | apply State.setRx_wf | apply State.rxOut_wf | apply wf_ite

theorem State.tagOk_wf {s : State} (hs : s.wf) (rx : Nat) (f : Flit) :
    (State.tagOk s rx f).1.wf := by
  unfold State.tagOk
  repeat' first
    | with_reducible assumption | with_reducible refine State.wf.mem ?_ | with_reducible refine State.wf.host ?_ | split | dsimp only
    | with_reducible apply wf_mk

theorem State.answerMarker_wf {s : State} (hs : s.wf) (rx : Nat) :
    (State.answerMarker s rx).wf := by
  unfold State.answerMarker
  repeat' first
    | with_reducible assumption | with_reducible apply State.setRx_wf | with_reducible apply State.sendCtl_wf | with_reducible apply wf_ite
    | split | dsimp only

theorem State.sendCredit_wf {s : State} (hs : s.wf) (rx : Nat) :
    (State.sendCredit s rx).wf := by
  unfold State.sendCredit
  with_reducible repeat' first | assumption | apply State.setRx_wf | apply State.sendCtl_wf | apply wf_ite

theorem State.freeBuf_wf {s : State} (hs : s.wf) (rx : Nat) (vc : Nat) :
    (State.freeBuf s rx vc).wf := by
  unfold State.freeBuf
  with_reducible repeat' first
    | assumption | apply State.sendCredit_wf | apply State.setRx_wf | apply wf_ite | apply wf_putBytes | refine State.wf.mem ?_
    | refine State.wf.host ?_ | apply wf_mk

theorem State.accept_wf {s : State} (hs : s.wf) (rx : Nat) (f : Flit) :
    (State.accept s rx f).wf := by
  unfold State.accept
  with_reducible repeat' first
    | assumption | apply State.freeBuf_wf | apply State.answerMarker_wf | apply State.setRx_wf | apply wf_ite | apply wf_putBytes
    | refine State.wf.mem ?_ | refine State.wf.host ?_ | apply wf_mk

theorem State.receive_wf {s : State} (hs : s.wf) (rx : Nat) (f : Flit) :
    (State.receive s rx f).1.wf := by
  unfold State.receive
  repeat' first
    | with_reducible assumption | with_reducible apply State.linkError_wf | with_reducible apply State.tagOk_wf
    | with_reducible apply State.accept_wf | with_reducible apply State.tagFail_wf | with_reducible apply wfP_ite | split
    | (refine wf_pair (by assumption) ?_)

theorem State.inward_wf {s : State} (hs : s.wf) (rx : Nat) (f : Flit) :
    (State.inward s rx f).1.wf := by
  unfold State.inward
  repeat' first
    | with_reducible assumption | with_reducible apply State.receive_wf | with_reducible apply State.toLink_wf
    | with_reducible apply wf_ite | with_reducible apply wfP_ite | intro _ | split | (refine wf_pair (by assumption) ?_) | dsimp only

theorem State.atDie_wf {s : State} (hs : s.wf) (d : Nat) (dest : Nat) (f : Flit) :
    (State.atDie s d dest f).wf := by
  unfold State.atDie
  with_reducible repeat' first
    | assumption | apply State.fromDie_wf | apply State.overBridge_wf | apply State.post_wf | apply wf_ite

theorem State.emit_wf {s : State} (hs : s.wf) (slot : Nat) (f : Flit) :
    (State.emit s slot f).wf := by
  unfold State.emit
  with_reducible repeat' first
    | assumption | apply State.protect_wf | apply State.setTx_wf | apply wf_putBytes | refine State.wf.mem ?_
    | refine State.wf.host ?_ | apply wf_mk

theorem State.unsendable_wf {s : State} (hs : s.wf) (slot : Nat) (f : Flit) :
    (State.unsendable s slot f).wf := by
  unfold State.unsendable
  with_reducible repeat' first
    | assumption | apply State.discard_wf | apply State.setTx_wf | apply wf_ite | apply wf_putBytes | refine State.wf.mem ?_
    | refine State.wf.host ?_ | apply wf_mk

theorem State.firstSend_wf {s : State} (hs : s.wf) (slot : Nat) (vc : Nat) (f : Flit) :
    (State.firstSend s slot vc f).wf := by
  unfold State.firstSend
  with_reducible repeat' first
    | assumption | apply State.emit_wf | apply State.setTx_wf | apply wf_ite | intro _ | apply wf_putBytes | refine State.wf.mem ?_
    | refine State.wf.host ?_ | apply wf_mk

theorem State.sendAgain_wf {s : State} (hs : s.wf) (slot : Nat) :
    (State.sendAgain s slot).wf := by
  unfold State.sendAgain
  with_reducible repeat' first
    | assumption | apply State.unsendable_wf | apply State.emit_wf | apply State.setTx_wf | apply wf_putBytes | refine State.wf.mem ?_
    | refine State.wf.host ?_ | split | apply wf_mk

theorem State.arbTx_wf {s : State} (hs : s.wf) (slot : Nat) :
    (State.arbTx s slot).wf := by
  unfold State.arbTx
  with_reducible repeat' first
    | assumption | apply State.sendAgain_wf | apply State.firstSend_wf | apply State.unsendable_wf | apply State.setTx_wf
    | apply wf_ite | intro _ | apply wf_putBytes | refine State.wf.mem ?_ | refine State.wf.host ?_ | split | apply wf_mk

theorem State.arbLink_wf {s : State} (hs : s.wf) (l : Link) {next : State → Nat → Flit → State} (hn : ∀ t a b, t.wf → (next t a b).wf) :
    (s.arbLink l next).wf := by
  unfold State.arbLink
  dsimp only
  split
  · exact hs
  · split
    · exact hs
    · exact hn _ _ _ hs

theorem execFlitArbitration_wf (l : Link) {s : State} (hs : s.wf) :
    wfOut (execFlitArbitration l s) := by
  unfold execFlitArbitration
  with_reducible repeat' first
    | assumption | apply State.arbLink_wf | apply State.arbTx_wf | apply State.atDie_wf | apply State.fromCore_wf | intro _
    | apply wfOut.next | apply wfOut.fault | apply wfOut.refused | split

theorem State.ctlFlit_wf {s : State} (hs : s.wf) (rx : Nat) (f : Flit) {act : State → Nat → Flit → State}
    (ha : ∀ (t : State) i g, t.wf → (act t i g).wf) : wfOut (State.ctlFlit s rx f act) := by
  unfold State.ctlFlit
  have h := State.receive_wf hs rx f
  split <;> rename_i e <;> rw [e] at h
  · exact h
  · refine wfOut.next ?_
    split
    · exact ha _ _ _ h
    · exact h

theorem State.regain_wf {s : State} (hs : s.wf) (i : Nat) (f : Flit) :
    (State.regain s i f).wf := by
  unfold State.regain
  with_reducible repeat' first
    | assumption | apply State.setTx_wf | intro _ | apply wf_putBytes | refine State.wf.mem ?_ | refine State.wf.host ?_ | apply wf_mk

theorem execCredit_wf (rx : Nat) (f : Flit) {s : State} (hs : s.wf) :
    wfOut (execCredit rx f s) := by
  unfold execCredit
  repeat' first
    | with_reducible assumption | with_reducible apply State.regain_wf | with_reducible apply State.ctlFlit_wf | intro _
    | with_reducible apply wfOut.next | with_reducible apply wfOut.fault | with_reducible apply wfOut.refused | split | dsimp only

theorem execCreditBatchTimer_wf {s : State} (hs : s.wf) :
    wfOut (execCreditBatchTimer s) := by
  unfold execCreditBatchTimer
  with_reducible repeat' first | assumption | apply State.sendCredit_wf | apply wfOut.next

theorem State.vacate_wf {s : State} (hs : s.wf) (slot : Nat) :
    (State.vacate s slot).wf := by
  unfold State.vacate
  with_reducible repeat' first
    | assumption | apply State.moveOn_wf | apply State.setTx_wf | apply wf_foldl | apply wf_foldlP | intro _ | apply wf_putBytes
    | refine State.wf.mem ?_ | refine State.wf.host ?_ | apply wf_mk

theorem State.txOut_wf {s : State} (hs : s.wf) (slot : Nat) :
    (State.txOut s slot).wf := by
  unfold State.txOut
  with_reducible repeat' first | assumption | apply State.vacate_wf | apply State.post_wf | apply wf_ite

theorem State.nakked_wf {s : State} (hs : s.wf) (i : Nat) (_f : Flit) :
    (State.nakked s i _f).wf := by
  unfold State.nakked
  with_reducible repeat' first
    | assumption | apply State.txOut_wf | apply State.setTx_wf | apply wf_ite | apply wf_putBytes | refine State.wf.mem ?_
    | refine State.wf.host ?_ | apply wf_mk

theorem execNak_wf (rx : Nat) (f : Flit) {s : State} (hs : s.wf) :
    wfOut (execNak s rx f) := by
  unfold execNak
  repeat' first
    | with_reducible assumption | with_reducible apply State.nakked_wf | with_reducible apply State.ctlFlit_wf | intro _
    | with_reducible apply wfOut.next | with_reducible apply wfOut.fault | with_reducible apply wfOut.refused | split | dsimp only

theorem State.ackFlit_wf {s : State} (hs : s.wf) (f : Flit) :
    (State.ackFlit s f).wf := by
  unfold State.ackFlit
  repeat' first
    | with_reducible assumption | with_reducible apply State.modCtx_wf | with_reducible apply wf_ite | with_reducible refine State.wf.mem ?_
    | with_reducible refine State.wf.host ?_ | dsimp only | with_reducible apply wf_mk

theorem execFlitAcknowledgement_wf {s : State} (hs : s.wf) :
    wfOut (execFlitAcknowledgement s) := by
  unfold execFlitAcknowledgement
  with_reducible repeat' first | assumption | apply State.setTx_wf | apply State.ackFlit_wf | apply wfOut.next | apply wf_foldl | intro _

theorem State.sendMarker_wf {s : State} (hs : s.wf) (slot : Nat) (retune : Bool) :
    (State.sendMarker s slot retune).wf := by
  unfold State.sendMarker
  with_reducible repeat' first | assumption | apply State.setTx_wf

theorem execDrainMarker_wf (rx : Nat) (f : Flit) {s : State} (hs : s.wf) :
    wfOut (execDrainMarker rx f s) := by
  unfold execDrainMarker
  repeat' first
    | with_reducible assumption | with_reducible apply State.receive_wf | with_reducible apply State.setRx_wf
    | with_reducible apply State.answerMarker_wf | with_reducible apply wfOut.next | with_reducible apply wfOut_ite | split
    | (refine wf_pair (by assumption) ?_)

theorem State.answered_wf {s : State} (hs : s.wf) (i : Nat) (f : Flit) :
    (State.answered s i f).wf := by
  unfold State.answered
  with_reducible repeat' first
    | assumption | apply State.setTx_wf | apply wf_ite | apply wf_putBytes | refine State.wf.mem ?_ | refine State.wf.host ?_
    | apply wf_mk

theorem execDrainAnswer_wf (rx : Nat) (f : Flit) {s : State} (hs : s.wf) :
    wfOut (execDrainAnswer s rx f) := by
  unfold execDrainAnswer
  repeat' first
    | with_reducible assumption | with_reducible apply State.answered_wf | with_reducible apply State.ctlFlit_wf | intro _
    | with_reducible apply wfOut.next | with_reducible apply wfOut.fault | with_reducible apply wfOut.refused | split | dsimp only

/-! Describe -/

theorem State.descRec_wf {s : State} (hs : s.wf) (a : Nat) :
    (State.descRec s a).wf := by
  unfold State.descRec
  with_reducible repeat' first | assumption | apply State.errRecord_wf

theorem State.loadLocal_wf {s : State} (hs : s.wf) (a : Nat) :
    (State.loadLocal s a).1.wf := by
  unfold State.loadLocal
  with_reducible repeat' first
    | assumption | apply State.syRow_wf | apply State.syRead_wf | apply State.lostRec_wf | apply State.injRow_wf | apply wf_ite
    | apply wfP_ite | split

theorem State.storeLocal_wf {s : State} (hs : s.wf) (a : Nat) (data : Row) (mask : Row) (poison : Bool) :
    (State.storeLocal s a data mask poison).wf := by
  unfold State.storeLocal
  with_reducible repeat' first
    | assumption | apply State.syRowStore_wf | apply State.descRec_wf | apply State.lostRec_wf | apply State.storeMem_wf | apply wf_ite
    | split

theorem State.atomLocal_wf {s : State} (hs : s.wf) (a : Nat) (op : Nat) (e : Nat) (x : W64) (cv : W64) (wide : Bool) :
    (State.atomLocal s a op e x cv wide).1.wf := by
  unfold State.atomLocal
  with_reducible repeat' first
    | assumption | apply State.descRec_wf | apply State.syAtom_wf | apply State.storeMem_wf | apply State.lostRec_wf
    | apply State.injRow_wf | apply State.freshWord_wf | apply wf_ite | apply wfP_ite | split

theorem State.addLocal_wf {s : State} (hs : s.wf) (a : Nat) (i : Nat) (vals : List W32) :
    (State.addLocal s a i vals).wf := by
  unfold State.addLocal
  with_reducible repeat' first
    | assumption | apply State.syRefuse_wf | apply State.descRec_wf | apply State.lostRec_wf | apply State.injRow_wf
    | apply State.storeMem_wf | apply wf_ite | split

/-! Matrix -/

theorem State.claimFor_wf {s : State} (hs : s.wf) (n : Nat) :
    (State.claimFor s n).wf := by
  unfold State.claimFor
  with_reducible repeat' first | assumption | apply State.setCore_wf | apply wf_ite | split

theorem State.claim_wf {s : State} (hs : s.wf) :
    (State.claim s).wf := by
  unfold State.claim
  with_reducible repeat' first | assumption | apply State.claimFor_wf | apply wf_ite

theorem State.mxPush_wf {s : State} (hs : s.wf) (c : MxCmd) :
    (State.mxPush s c).wf := by
  unfold State.mxPush
  repeat' first
    | with_reducible assumption | with_reducible apply State.modCore_wf | with_reducible refine State.wf.mem ?_
    | with_reducible refine State.wf.host ?_ | dsimp only | with_reducible apply wf_mk

theorem State.logMx_wf {s : State} (hs : s.wf) (i : Instr) (c : MxCmd) :
    (State.logMx s i c).1.wf := by
  unfold State.logMx
  with_reducible repeat' first | assumption | apply State.logAppend_wf | apply wfP_ite

theorem State.mxIssue_wf {s : State} (hs : s.wf) (i : Instr) (c : MxCmd) :
    (State.mxIssue s i c).wf := by
  unfold State.mxIssue
  with_reducible repeat' first
    | assumption | apply State.claim_wf | apply State.logMx_wf | apply State.mxPush_wf | apply State.pairUsed_wf | apply wf_ite

theorem State.mxGo_wf {s : State} (hs : s.wf) (i : Instr) (op : Nat) (a : XArgs) :
    wfOut (State.mxGo s i op a) := by
  unfold State.mxGo
  repeat' first
    | with_reducible assumption | with_reducible apply issue_wf | with_reducible apply gsOut_wf | with_reducible apply State.mxIssue_wf
    | with_reducible apply wfOut.next | with_reducible apply wfOut_ite | intro _ | split | dsimp only

theorem execTmul_wf (a : XArgs) {s : State} (hs : s.wf) :
    wfOut (execTmul a s) := by
  unfold execTmul
  with_reducible repeat' first | assumption | apply State.mxGo_wf

theorem execTmuls_wf (a : XArgs) {s : State} (hs : s.wf) :
    wfOut (execTmuls a s) := by
  unfold execTmuls
  with_reducible repeat' first | assumption | apply State.mxGo_wf

theorem execTzero_wf (a : XArgs) {s : State} (hs : s.wf) :
    wfOut (execTzero a s) := by
  unfold execTzero
  with_reducible repeat' first | assumption | apply State.mxGo_wf

theorem execTlda_wf (a : XArgs) {s : State} (hs : s.wf) :
    wfOut (execTlda a s) := by
  unfold execTlda
  with_reducible repeat' first | assumption | apply State.mxGo_wf

theorem execTsta_wf (a : XArgs) {s : State} (hs : s.wf) :
    wfOut (execTsta a s) := by
  unfold execTsta
  with_reducible repeat' first | assumption | apply State.mxGo_wf

theorem execTa2v_wf (a : XArgs) {s : State} (hs : s.wf) :
    wfOut (execTa2v a s) := by
  unfold execTa2v
  with_reducible repeat' first | assumption | apply State.mxGo_wf

theorem execTv2a_wf (a : XArgs) {s : State} (hs : s.wf) :
    wfOut (execTv2a a s) := by
  unfold execTv2a
  with_reducible repeat' first | assumption | apply State.mxGo_wf

theorem execTadd_wf (a : XArgs) {s : State} (hs : s.wf) :
    wfOut (execTadd a s) := by
  unfold execTadd
  with_reducible repeat' first | assumption | apply State.mxGo_wf

theorem execTscale_wf (a : XArgs) {s : State} (hs : s.wf) :
    wfOut (execTscale a s) := by
  unfold execTscale
  with_reducible repeat' first | assumption | apply State.mxGo_wf

theorem execTbias_wf (a : XArgs) {s : State} (hs : s.wf) :
    wfOut (execTbias a s) := by
  unfold execTbias
  with_reducible repeat' first | assumption | apply State.mxGo_wf

theorem execTact_wf (a : XArgs) {s : State} (hs : s.wf) :
    wfOut (execTact a s) := by
  unfold execTact
  with_reducible repeat' first | assumption | apply State.mxGo_wf

theorem execTred_wf (a : XArgs) {s : State} (hs : s.wf) :
    wfOut (execTred a s) := by
  unfold execTred
  with_reducible repeat' first | assumption | apply State.mxGo_wf

theorem execTtrans_wf (a : XArgs) {s : State} (hs : s.wf) :
    wfOut (execTtrans a s) := by
  unfold execTtrans
  with_reducible repeat' first | assumption | apply State.mxGo_wf

theorem execTnorm_wf (a : XArgs) {s : State} (hs : s.wf) :
    wfOut (execTnorm a s) := by
  unfold execTnorm
  with_reducible repeat' first | assumption | apply State.mxGo_wf

theorem execTcopy_wf (a : XArgs) {s : State} (hs : s.wf) :
    wfOut (execTcopy a s) := by
  unfold execTcopy
  with_reducible repeat' first | assumption | apply State.mxGo_wf

theorem execKat_wf (pattern : BitVec 4) (seed : BitVec 16) (crc : W32) {s : State} (hs : s.wf) :
    wfOut (execKat pattern seed crc s) := by
  unfold execKat
  with_reducible repeat' first | assumption | apply State.mxPush_wf | apply wf_ite | apply wfOut.next

theorem State.fetchAddr_wf {s : State} (hs : s.wf) (c : MxCmd) (k : Nat) : (State.fetchAddr s c k).1.wf := by
  unfold State.fetchAddr
  dsimp only
  generalize (if decide ((if c.a.ga then aRows c.a else 0) ≤ k) then k - (if c.a.ga then aRows c.a else 0) else k) = i
  generalize decide ((if c.a.ga then aRows c.a else 0) ≤ k) = b
  split
  · exact hs
  · generalize extRow (s.ctx c.tgt) false (tdExt c.desc b) (tdAddr c.desc b + i) = r
    cases r <;> exact hs
  · have h : ∀ part, (s.leafOf (dieOfCore c.home) part (tdAddr c.desc b / 128 * 128 + 128 * i)).1.wf := fun p => State.leafOf_wf hs _ _ _
    generalize hr : s.leafOf (dieOfCore c.home) _ (tdAddr c.desc b / 128 * 128 + 128 * i) = r
    have h : r.1.wf := (congrArg (fun x : State × Walk => x.1.wf) hr).mp (h _)
    obtain ⟨t, w⟩ := r
    cases w <;> exact h

theorem State.mxFetch_wf {s : State} (hs : s.wf) (c : MxCmd) (z0 : Nat) :
    (State.mxFetch s c z0).1.wf := by
  revert hs
  induction z0 generalizing s c with
  | zero =>
    intros; unfold State.mxFetch
    repeat' first
      | with_reducible assumption | with_reducible apply Uk.s_wf | with_reducible apply State.fetchAddr_wf
      | with_reducible apply State.loadLocal_wf | with_reducible apply State.inject_wf | with_reducible apply State.mxFault_wf
      | with_reducible apply State.modCtx_wf | with_reducible apply wf_ite | with_reducible apply wfP_ite | intro _
      | with_reducible apply wf_putBytes | with_reducible refine State.wf.mem ?_ | with_reducible refine State.wf.host ?_ | split
      | (refine wf_pair (by assumption) ?_) | (refine wf_optSome (by assumption) ?_) | dsimp only | with_reducible apply wf_mk
  | succ _ ih =>
    intros; unfold State.mxFetch
    repeat' first
      | with_reducible assumption | with_reducible apply ih | with_reducible apply Uk.s_wf | with_reducible apply State.fetchAddr_wf
      | with_reducible apply State.loadLocal_wf | with_reducible apply State.inject_wf | with_reducible apply State.mxFault_wf
      | with_reducible apply State.modCtx_wf | with_reducible apply wf_ite | with_reducible apply wfP_ite | intro _
      | with_reducible apply wf_putBytes | with_reducible refine State.wf.mem ?_ | with_reducible refine State.wf.host ?_ | split
      | (refine wf_pair (by assumption) ?_) | (refine wf_optSome (by assumption) ?_) | dsimp only | with_reducible apply wf_mk

theorem State.mxFetchHeads_wf {s : State} (hs : s.wf) (n : Nat) :
    (State.mxFetchHeads s n).wf := by
  unfold State.mxFetchHeads
  repeat' first
    | with_reducible assumption | with_reducible apply State.mxFetch_wf | with_reducible apply State.modCore_wf
    | with_reducible apply wf_ite | with_reducible apply wfP_ite | intro _ | with_reducible apply wf_putBytes
    | with_reducible refine State.wf.mem ?_ | with_reducible refine State.wf.host ?_ | split | dsimp only | with_reducible apply wf_mk

theorem State.mxRow_wf {s : State} (hs : s.wf) (n : Nat) (r : Nat) (bad : Option (Nat × W64)) :
    (State.mxRow s n r bad).1.wf := by
  unfold State.mxRow
  with_reducible repeat' first | assumption | apply State.injRow_wf

theorem State.mxRowList_wf {s : State} (hs : s.wf) (n : Nat) (bad : Option (Nat × W64)) (z0 : List Nat) :
    (State.mxRowList s n bad z0).1.wf := by
  revert hs
  induction z0 generalizing s n bad with
  | nil =>
    intros; unfold State.mxRowList
    with_reducible repeat' first | assumption
  | cons _ _ ih =>
    intros; unfold State.mxRowList
    with_reducible repeat' first | assumption | apply ih | apply State.mxRow_wf

theorem State.mxTile_wf {s : State} (hs : s.wf) (n : Nat) (ctx : Nat) (t : Nat) (bad : Option (Nat × W64)) :
    (State.mxTile s n ctx t bad).1.wf := by
  unfold State.mxTile
  with_reducible repeat' first | assumption | apply State.injReg_wf | apply wf_foldlP | intro _

theorem State.mxInputs_wf {s : State} (hs : s.wf) (c : MxCmd) :
    (State.mxInputs s c).1.wf := by
  unfold State.mxInputs
  with_reducible repeat' first | assumption | apply State.mxTile_wf | apply State.mxRowList_wf | apply wfP_ite | split

theorem State.mxBegin_wf {s : State} (hs : s.wf) (n : Nat) (w : WinEnt) :
    (State.mxBegin s n w).wf := by
  unfold State.mxBegin
  with_reducible repeat' first | assumption | apply State.logCopies_wf | apply State.modCore_wf | apply State.modCtx_wf | apply wf_ite | split

theorem State.mxStart_wf {s : State} (hs : s.wf) (n : Nat) (q1 : Bool) :
    (State.mxStart s n q1).wf := by
  unfold State.mxStart
  with_reducible repeat' first | assumption | apply State.modCore_wf | apply State.mxInputs_wf | apply State.mxBegin_wf | apply wf_ite | split

theorem execMatrixCommandStart_wf {s : State} (hs : s.wf) :
    wfOut (execMatrixCommandStart s) := by
  unfold execMatrixCommandStart
  with_reducible repeat' first | assumption | apply State.mxFetchHeads_wf | apply State.mxStart_wf | apply wf_ite | apply wfOut.next | apply wfOut_ite

theorem State.mxWrite_wf {s : State} (hs : s.wf) (w : WinEnt) :
    (State.mxWrite s w).wf := by
  unfold State.mxWrite
  with_reducible repeat' first
    | assumption | apply State.modCore_wf | apply State.storeMem_wf | apply State.modCtx_wf | apply State.raise_wf | apply State.report_wf
    | apply wf_ite | apply wf_foldl | intro _

theorem State.mxRelease_wf {s : State} (hs : s.wf) (n : Nat) (p : MxCmd → Bool) :
    (State.mxRelease s n p).wf := by
  unfold State.mxRelease
  with_reducible repeat' first | assumption | refine State.wf.mem ?_ | refine State.wf.host ?_ | apply wf_mk

theorem State.mxWindow_wf {s : State} (hs : s.wf) (n : Nat) (w : WinEnt) :
    (State.mxWindow s n w).wf := by
  unfold State.mxWindow
  with_reducible repeat' first | assumption | apply State.modCore_wf | apply State.mxRelease_wf

theorem State.mxHoldRec_wf {s : State} (hs : s.wf) (runner : Nat) (c : MxCmd) :
    (State.mxHoldRec s runner c).wf := by
  unfold State.mxHoldRec
  with_reducible repeat' first | assumption | apply State.modCore_wf | apply wf_ite

theorem State.katMiss_wf {s : State} (hs : s.wf) (n : Nat) (c : MxCmd) (crc : W32) :
    (State.katMiss s n c crc).wf := by
  unfold State.katMiss
  with_reducible repeat' first | assumption | apply State.errRecord_wf | apply State.modCore_wf

theorem State.katMisses_wf {s : State} (hs : s.wf) (n : Nat) (c : MxCmd) (crc : W32) (z0 : Nat) :
    (State.katMisses s n c crc z0).wf := by
  revert hs
  induction z0 generalizing s n c crc with
  | zero =>
    intros; unfold State.katMisses
    with_reducible repeat' first | assumption
  | succ _ ih =>
    intros; unfold State.katMisses
    with_reducible repeat' first | assumption | apply ih | apply State.katMiss_wf

theorem State.katEnd_wf {s : State} (hs : s.wf) (n : Nat) (c : MxCmd) :
    (State.katEnd s n c).wf := by
  unfold State.katEnd
  with_reducible repeat' first
    | assumption | apply State.mxRelease_wf | apply State.katMisses_wf | apply State.modCore_wf | apply State.reportTask_wf | apply wf_ite

theorem execMatrixCommandComplete_wf {s : State} (hs : s.wf) :
    wfOut (execMatrixCommandComplete s) := by
  unfold execMatrixCommandComplete
  repeat' first
    | with_reducible assumption | with_reducible apply State.modCore_wf | with_reducible apply State.katEnd_wf
    | with_reducible apply State.mxWrite_wf | with_reducible apply State.mxWindow_wf | with_reducible apply State.mxHoldRec_wf
    | with_reducible apply wfOut.next | with_reducible apply wfOut_ite | split | dsimp only

theorem execGuardRelease_wf {s : State} (hs : s.wf) :
    wfOut (execGuardRelease s) := by
  unfold execGuardRelease
  with_reducible repeat' first | assumption | apply State.mxRelease_wf | apply wf_ite | apply wfOut.next

theorem execMigrate_wf (core : Nat) (q1 : Bool) {s : State} (hs : s.wf) :
    wfOut (execMigrate core q1 s) := by
  unfold execMigrate
  repeat' first
    | with_reducible assumption | with_reducible apply State.mxInputs_wf | with_reducible apply State.logCopies_wf
    | with_reducible apply State.modCtx_wf | with_reducible apply State.modCore_wf | with_reducible apply wfOut.next
    | with_reducible apply wfOut_ite | with_reducible refine State.wf.mem ?_ | with_reducible refine State.wf.host ?_ | split | dsimp only
    | with_reducible apply wf_mk

theorem execMigratedResultReturn_wf {s : State} (hs : s.wf) :
    wfOut (execMigratedResultReturn s) := by
  unfold execMigratedResultReturn
  with_reducible repeat' first | assumption | apply State.modCore_wf | apply State.mxWrite_wf | apply State.mxHoldRec_wf | apply wfOut.next | split

/-! Access -/

theorem State.liveAsk_wf {s : State} (hs : s.wf) (n : Nat) :
    (State.liveAsk s n).wf := by
  unfold State.liveAsk
  with_reducible repeat' first
    | assumption | apply State.liveRead_wf | apply State.modCtx_wf | apply wf_ite | intro _ | apply wf_putBytes
    | refine State.wf.mem ?_ | refine State.wf.host ?_ | split | apply wf_mk

theorem State.putRow_wf {s : State} (hs : s.wf) (a : Nat) (v : Nat) (poison : Bool) :
    (State.putRow s a v poison).wf := by
  unfold State.putRow
  with_reducible repeat' first | assumption | apply State.storeLocal_wf

theorem State.putRows_wf {s : State} (hs : s.wf) (a : Nat) (f : Nat → Nat) (z0 : Nat) :
    (State.putRows s a f z0).wf := by
  revert hs
  induction z0 generalizing s a f with
  | zero =>
    intros; unfold State.putRows
    with_reducible repeat' first | assumption
  | succ _ ih =>
    intros; unfold State.putRows
    with_reducible repeat' first | assumption | apply ih | apply State.putRow_wf

theorem State.putLand_wf {s : State} (hs : s.wf) (a : Nat) (schc : Nat) (land : List LandEntry) :
    (State.putLand s a schc land).wf := by
  unfold State.putLand
  with_reducible repeat' first
    | assumption | apply State.putRows_wf | apply State.putRow_wf | apply wf_foldl | apply wf_foldlP | intro _ | split

theorem State.showLand_wf {s : State} (hs : s.wf) (n : Nat) :
    (State.showLand s n).wf := by
  unfold State.showLand
  with_reducible repeat' first | assumption | apply State.putLand_wf | apply wf_ite | split

theorem State.sendAcc_wf {s : State} (hs : s.wf) (n : Nat) (q : QAcc) (idx : Nat) (r : Req) :
    wfOpt (State.sendAcc s n q idx r) := by
  unfold State.sendAcc
  with_reducible repeat' first | assumption | apply State.inject_wf | apply wfOpt.some | apply wfOpt.none

theorem State.qldRows_wf {s : State} (hs : s.wf) (z0 : List (W64 × Option Row)) :
    (State.qldRows s z0).1.wf := by
  revert hs
  induction z0 generalizing s with
  | nil =>
    intros; unfold State.qldRows
    with_reducible repeat' first | assumption
  | cons _ _ ih =>
    intros; unfold State.qldRows
    with_reducible repeat' first | assumption | apply ih | apply State.loadLocal_wf | split

theorem State.qldDone_wf {s : State} (hs : s.wf) (n : Nat) (q : QAcc) (a : MArgs) (d : BitVec 2048) (coords : List Row) (lanes : Nat)
    (rows : List (W64 × Option Row)) (arr : Nat) :
    (State.qldDone s n q a d coords lanes rows arr).wf := by
  unfold State.qldDone
  with_reducible repeat' first | assumption | apply State.qldRows_wf | apply State.modHolder_wf

theorem State.qldSend_wf {s : State} (hs : s.wf) (n : Nat) (q : QAcc) (z0 : Nat) (z1 : List (W64 × Option Row)) :
    wfOpt (State.qldSend s n q z0 z1) := by
  induction z1 generalizing s z0 with
  | nil => unfold State.qldSend; exact hs
  | cons x rest ih =>
    obtain ⟨x, r⟩ := x
    unfold State.qldSend
    refine wfOpt_ite (ih hs _) ?_
    have h := State.sendAcc_wf hs n q z0 ⟨1, x &&& ~~~127, 0, 0, 0⟩
    split
    · rename_i e
      rw [e] at h
      exact ih h _
    · trivial

theorem State.performHere_wf {s : State} (hs : s.wf) (n : Nat) (q : QAcc) :
    (State.performHere s n q).wf := by
  unfold State.performHere
  with_reducible repeat' first
    | assumption | apply State.qldDone_wf | apply State.addLocal_wf | apply State.atomLocal_wf | apply State.storeLocal_wf
    | apply State.loadLocal_wf | apply State.modHolder_wf | apply State.syCount_wf | apply wf_ite | apply wf_foldl | apply wf_foldlP
    | intro _ | split

theorem State.performAcc_wf {s : State} (hs : s.wf) (n : Nat) (q : QAcc) :
    wfOut (State.performAcc s n q) := by
  unfold State.performAcc
  repeat' first
    | with_reducible assumption | with_reducible apply State.performHere_wf | with_reducible apply State.qldSend_wf
    | with_reducible apply State.modHolder_wf | with_reducible apply State.dropAcc_wf | with_reducible apply State.sendAcc_wf
    | with_reducible apply wfOut.next | with_reducible apply wfOut_ite | with_reducible exact wfOut.fault _ | split
    | (refine wf_optSome (by assumption) ?_) | dsimp only

theorem State.refuseAcc_wf {s : State} (hs : s.wf) (n : Nat) (q : QAcc) :
    (State.refuseAcc s n q).wf := by
  unfold State.refuseAcc
  with_reducible repeat' first | assumption | apply State.modHolder_wf

theorem State.performExt_wf {s : State} (hs : s.wf) (n : Nat) (q : QAcc) : wfOut (State.performExt s n q) := by
  unfold State.performExt
  generalize extRow (s.extCtx n) q.isStore (fld q.addr 0 4) (q.addr.toNat / 16) = r
  rcases r with x | _ | _ | _
  · exact State.performAcc_wf hs _ _
  · exact State.refuseAcc_wf hs _ _
  · exact hs
  · exact State.refuseAcc_wf hs _ _

theorem State.performAny_wf {s : State} (hs : s.wf) (n : Nat) (q : QAcc) :
    wfOut (State.performAny s n q) := by
  unfold State.performAny
  have h : wfOut (if q.ext = true then s.performExt n q else s.performAcc n q) := wfOut_ite (State.performExt_wf hs n q) (State.performAcc_wf hs n q)
  split
  · rename_i e
    rw [e] at h
    exact State.showLand_wf h n
  · exact h

theorem execQueuedAccessPerform_wf {s : State} (hs : s.wf) :
    wfOut (execQueuedAccessPerform s) := by
  unfold execQueuedAccessPerform
  with_reducible repeat' first
    | assumption | apply State.performAny_wf | apply wf_ite | apply wfOut_ite | apply wfOut.next | apply wfOut.fault
    | apply wfOut.refused | split

theorem execLoadDataArrival_wf {s : State} (hs : s.wf) :
    wfOut (execLoadDataArrival s) := by
  unfold execLoadDataArrival
  with_reducible repeat' first | assumption | apply State.modCtx_wf | apply wfOut.next

theorem execCorrectedWriteback_wf {s : State} (hs : s.wf) :
    wfOut (execCorrectedWriteback s) := by
  unfold execCorrectedWriteback
  with_reducible repeat' first | assumption | apply State.storeMem_wf | apply wf_ite | apply wfOut.next

theorem State.writeRows_wf {s : State} (hs : s.wf) (f : Flit) :
    (State.writeRows s f).wf := by
  unfold State.writeRows
  with_reducible repeat' first | assumption | apply State.storeLocal_wf | apply wf_ite

theorem execWrite_wf (rx : Nat) (f : Flit) {s : State} (hs : s.wf) :
    wfOut (execWrite rx f s) := by
  unfold execWrite
  repeat' first
    | with_reducible assumption | with_reducible apply State.writeRows_wf | with_reducible apply State.inward_wf
    | with_reducible apply wf_ite | with_reducible apply wfP_ite | with_reducible apply wfOut_ite | intro _
    | with_reducible apply wfOut.next | with_reducible apply wfOut.fault | with_reducible apply wfOut.refused | split
    | (refine wf_pair (by assumption) ?_) | dsimp only

theorem State.answer_wf {s : State} (hs : s.wf) (rx : Nat) (f : Flit) (rows : Nat) (p0 : Row) :
    (State.answer s rx f rows p0).wf := by
  unfold State.answer
  with_reducible repeat' first | assumption | apply State.sendCtl_wf

theorem execRead_wf (rx : Nat) (f : Flit) {s : State} (hs : s.wf) :
    wfOut (execRead rx f s) := by
  unfold execRead
  repeat' first
    | with_reducible assumption | with_reducible apply State.answer_wf | with_reducible apply State.loadLocal_wf
    | with_reducible apply State.inward_wf | with_reducible apply State.freed_wf | with_reducible apply wf_ite
    | with_reducible apply wfP_ite | with_reducible apply wfOut_ite | intro _ | with_reducible apply wfOut.next
    | with_reducible apply wfOut.fault | with_reducible apply wfOut.refused | split | (refine wf_pair (by assumption) ?_) | dsimp only

theorem execAtomic_wf (rx : Nat) (f : Flit) {s : State} (hs : s.wf) :
    wfOut (execAtomic rx f s) := by
  unfold execAtomic
  repeat' first
    | with_reducible assumption | with_reducible apply State.answer_wf | with_reducible apply State.addLocal_wf
    | with_reducible apply State.atomLocal_wf | with_reducible apply State.inward_wf | with_reducible apply State.freed_wf
    | with_reducible apply wf_ite | with_reducible apply wfP_ite | with_reducible apply wfOut_ite | intro _
    | with_reducible apply wfOut.next | with_reducible apply wfOut.fault | with_reducible apply wfOut.refused | split
    | (refine wf_pair (by assumption) ?_) | dsimp only

theorem State.gotAnswer_wf {s : State} (hs : s.wf) (n : Nat) (f : Flit) (q : QAcc) (k : Nat) :
    (State.gotAnswer s n f q k).wf := by
  unfold State.gotAnswer
  with_reducible repeat' first | assumption | apply State.modHolder_wf | apply State.qldDone_wf | apply wf_ite | split

theorem State.gotOperand_wf {s : State} (hs : s.wf) (f : Flit) :
    (State.gotOperand s f).wf := by
  unfold State.gotOperand
  with_reducible repeat' first | assumption | apply State.modCore_wf

theorem execResp_wf (rx : Nat) (f : Flit) {s : State} (hs : s.wf) :
    wfOut (execResp rx f s) := by
  unfold execResp
  repeat' first
    | with_reducible assumption | with_reducible apply State.gotOperand_wf | with_reducible apply State.gotAnswer_wf
    | with_reducible apply State.showLand_wf | with_reducible apply State.inward_wf | intro _ | with_reducible apply wf_getD
    | with_reducible apply wfOut.next | with_reducible apply wfOut.fault | with_reducible apply wfOut.refused | split
    | (refine wf_pair (by assumption) ?_) | dsimp only

theorem execMapnote_wf (rx : Nat) (f : Flit) {s : State} (hs : s.wf) :
    wfOut (execMapnote rx f s) := by
  unfold execMapnote
  with_reducible repeat' first | assumption | apply State.receive_wf | apply wfOut.next

theorem execSyncStore_wf (addr : W64) (val : W64) {s : State} (hs : s.wf) :
    wfOut (execSyncStore addr val s) := by
  unfold execSyncStore
  with_reducible repeat' first | assumption | apply State.syStore_wf | apply wfOut.next

theorem execSyncDec_wf (addr : W64) {s : State} (hs : s.wf) :
    wfOut (execSyncDec addr s) := by
  unfold execSyncDec
  with_reducible repeat' first
    | assumption | apply State.sendCtl_wf | apply State.syCount_wf | apply wf_ite | apply wfOut_ite | apply wfOut.next
    | apply wfOut.fault | apply wfOut.refused

theorem execSyncAtomic_wf (addr : W64) (op : Nat) (x : W64) (cv : W64) (wide : Bool) {s : State} (hs : s.wf) :
    wfOut (execSyncAtomic addr op x cv wide s) := by
  unfold execSyncAtomic
  with_reducible repeat' first
    | assumption | apply State.syAtom_wf | apply wfOut.next | apply wfOut.fault | apply wfOut.refused

theorem State.freeRdv_wf {s : State} (hs : s.wf) (die : Nat) (r : Rdv) :
    (State.freeRdv s die r).wf := by
  unfold State.freeRdv
  repeat' first
    | with_reducible assumption | with_reducible apply State.setDie_wf | with_reducible apply State.post_wf | with_reducible apply wf_foldl
    | intro _ | split | dsimp only

theorem State.refuseRdv_wf {s : State} (hs : s.wf) (addr : W64) (ctx : Nat) :
    (State.refuseRdv s addr ctx).wf := by
  unfold State.refuseRdv
  with_reducible repeat' first | assumption | apply State.syRefuse_wf | apply State.modCtx_wf | apply State.report_wf

theorem execRendezvousArrival_wf (addr : W64) (epoch : W32) (rank : Nat) (parties : Nat) (ctx : Nat) {s : State} (hs : s.wf) :
    wfOut (execRendezvousArrival addr epoch rank parties ctx s) := by
  unfold execRendezvousArrival
  with_reducible repeat' first
    | assumption | apply State.refuseRdv_wf | apply State.post_wf | apply State.setDie_wf | apply State.setSy_wf | apply State.freeRdv_wf
    | apply wfOut.next | apply wfOut_ite | split

theorem execRendezvousAnswer_wf {s : State} (hs : s.wf) :
    wfOut (execRendezvousAnswer s) := by
  unfold execRendezvousAnswer
  with_reducible repeat' first | assumption | apply State.modCtx_wf | apply wfOut.next

theorem execRdvtimeout_wf {s : State} (hs : s.wf) :
    wfOut (execRdvtimeout s) := by
  unfold execRdvtimeout
  repeat' first
    | with_reducible assumption | with_reducible apply State.modCtx_wf | with_reducible apply State.report_wf
    | with_reducible apply wfOut.next | with_reducible apply wfOut_ite | split | dsimp only

/-! HostQ -/

theorem State.setHq_wf {s : State} (hs : s.wf) (q : Nat) (h : HQueue) :
    (State.setHq s q h).wf := by
  unfold State.setHq
  with_reducible repeat' first | assumption | refine State.wf.mem ?_ | refine State.wf.host ?_ | apply wf_mk

theorem State.ringPut_wf {s : State} (hs : s.wf) (dev : Bool) (a : Nat) (n : Nat) (v : Nat) :
    (State.ringPut s dev a n v).wf := by
  unfold State.ringPut
  with_reducible repeat' first
    | assumption | apply State.putMem_wf | apply wf_ite | apply wf_putBytes | refine State.wf.mem ?_ | refine State.wf.host ?_ | apply wf_mk

theorem State.stopQ_wf {s : State} (hs : s.wf) (q : Nat) (cause : Nat) :
    (State.stopQ s q cause).wf := by
  unfold State.stopQ
  with_reducible repeat' first | assumption | apply State.setHq_wf

theorem execTailWordRead_wf {s : State} (hs : s.wf) :
    wfOut (execTailWordRead s) := by
  unfold execTailWordRead
  with_reducible repeat' first | assumption | apply State.setHq_wf | apply State.stopQ_wf | apply wfOut.next | apply wfOut_ite

theorem State.accept1_wf {s : State} (hs : s.wf) (q : Nat) (e : Row) :
    (State.accept1 s q e).wf := by
  unfold State.accept1
  repeat' first
    | with_reducible assumption | with_reducible apply State.writeRec_wf | with_reducible apply State.setHighWater_wf
    | with_reducible apply State.setHq_wf | with_reducible apply State.finishCmd_wf | with_reducible refine State.wf.mem ?_
    | with_reducible refine State.wf.host ?_ | split | dsimp only | with_reducible apply wf_mk

theorem execCommandAccept_wf {s : State} (hs : s.wf) :
    wfOut (execCommandAccept s) := by
  unfold execCommandAccept
  with_reducible repeat' first
    | assumption | apply State.stopQ_wf | apply State.setHq_wf | apply State.accept1_wf | apply wfOut.next | apply wfOut_ite

theorem execCompletionRecord_wf {s : State} (hs : s.wf) :
    wfOut (execCompletionRecord s) := by
  unfold execCompletionRecord
  repeat' first
    | with_reducible assumption | with_reducible apply State.stopQ_wf | with_reducible apply State.ringPut_wf
    | with_reducible apply State.freeRec_wf | with_reducible apply State.post_wf | with_reducible apply wf_ite
    | with_reducible apply wfOut.next | with_reducible apply wfOut_ite | with_reducible refine State.wf.mem ?_
    | with_reducible refine State.wf.host ?_ | split | dsimp only | with_reducible apply wf_mk

theorem State.queueOn_wf {s : State} (hs : s.wf) (q : Nat) :
    (State.queueOn s q).wf := by
  unfold State.queueOn
  with_reducible repeat' first | assumption | apply State.setHq_wf | apply State.post_wf

theorem State.queueOff_wf {s : State} (hs : s.wf) (q : Nat) :
    (State.queueOff s q).wf := by
  unfold State.queueOff
  with_reducible repeat' first | assumption | apply State.setHq_wf

theorem execQueueEnable_wf {s : State} (hs : s.wf) :
    wfOut (execQueueEnable s) := by
  unfold execQueueEnable
  with_reducible repeat' first | assumption | apply State.queueOn_wf | apply wf_ite | apply wfOut.next

theorem execQueueDisable_wf {s : State} (hs : s.wf) :
    wfOut (execQueueDisable s) := by
  unfold execQueueDisable
  with_reducible repeat' first | assumption | apply State.queueOff_wf | apply wfOut.next

theorem State.raiseReq_wf {s : State} (hs : s.wf) (n : Nat) (held : Option (Bool × Nat)) :
    (State.raiseReq s n held).wf := by
  unfold State.raiseReq
  with_reducible repeat' first | assumption | apply State.modCtx_wf

theorem State.startCmd_wf {s : State} (hs : s.wf) (k : Nat) (c : Cmd) (share : Bool) :
    (State.startCmd s k c share).wf := by
  unfold State.startCmd
  with_reducible repeat' first
    | assumption | apply State.writeRec_wf | apply State.post_wf | apply wf_ite | apply wf_putBytes | refine State.wf.mem ?_
    | refine State.wf.host ?_ | apply wf_mk

theorem State.choose_wf {s : State} (hs : s.wf) (x : Nat × Cmd) (share : Bool) :
    (State.choose s x share).wf := by
  unfold State.choose
  with_reducible repeat' first
    | assumption | apply State.startCmd_wf | apply State.finishCmd_wf | apply wf_ite | apply wf_putBytes | refine State.wf.mem ?_
    | refine State.wf.host ?_ | apply wf_mk

theorem State.holdShare_wf {s : State} (hs : s.wf) :
    (State.holdShare s).wf := by
  unfold State.holdShare
  with_reducible repeat' first
    | assumption | apply wf_ite | apply wf_putBytes | refine State.wf.mem ?_ | refine State.wf.host ?_ | apply wf_mk

theorem execDispatchDecision_wf {s : State} (hs : s.wf) :
    wfOut (execDispatchDecision s) := by
  unfold execDispatchDecision
  with_reducible repeat' first
    | assumption | apply State.holdShare_wf | apply State.choose_wf | apply wf_ite | apply wfOut_ite | apply wfOut.next
    | apply wfOut.fault | apply wfOut.refused | apply wf_putBytes | refine State.wf.mem ?_ | refine State.wf.host ?_ | split
    | apply wf_mk

theorem State.rerun_wf {s : State} (hs : s.wf) (cmd : Nat) :
    (State.rerun s cmd).wf := by
  unfold State.rerun
  with_reducible repeat' first
    | assumption | apply State.holdShare_wf | apply State.endTasks_wf | apply wf_ite | apply wf_putBytes | refine State.wf.mem ?_
    | refine State.wf.host ?_ | split | apply wf_mk

theorem State.replayRec_wf {s : State} (hs : s.wf) (j : Nat) :
    (State.replayRec s j).wf := by
  unfold State.replayRec
  repeat' first
    | with_reducible assumption | with_reducible apply wf_ite | with_reducible refine State.wf.mem ?_
    | with_reducible refine State.wf.host ?_ | split | dsimp only | with_reducible apply wf_mk

theorem State.reshow_wf {s : State} (hs : s.wf) (y : Nat × Nat × W64) :
    (State.reshow s y).wf := by
  unfold State.reshow
  with_reducible repeat' first | assumption | apply State.setPub_wf | apply wf_ite | split

theorem execJournalReplay_wf {s : State} (hs : s.wf) :
    wfOut (execJournalReplay s) := by
  unfold execJournalReplay
  with_reducible repeat' first
    | assumption | apply State.reshow_wf | apply State.replayRec_wf | apply wf_ite | apply wfOut_ite | apply wf_foldl
    | apply wf_foldlP | intro _ | apply wfOut.next | apply wfOut.fault | apply wfOut.refused | apply wf_putBytes
    | refine State.wf.mem ?_ | refine State.wf.host ?_ | apply wf_mk

/-! TrapSave -/

theorem State.putImage_wf {s : State} (hs : s.wf) (n : Nat) (t : TaskRun) (a : Nat) (why : Nat) (accp : Nat) (ks : List Capture) :
    (State.putImage s n t a why accp ks).wf := by
  unfold State.putImage
  with_reducible repeat' first
    | assumption | apply State.putLand_wf | apply State.putRows_wf | apply State.putRow_wf | apply wf_ite | intro _ | apply wf_getD
    | split

theorem State.copyRows_wf {s : State} (hs : s.wf) (src : Nat) (dst : Nat) (z0 : Nat) :
    (State.copyRows s src dst z0).wf := by
  revert hs
  induction z0 generalizing s src dst with
  | zero =>
    intros; unfold State.copyRows
    with_reducible repeat' first | assumption
  | succ _ ih =>
    intros; unfold State.copyRows
    with_reducible repeat' first | assumption | apply ih | apply State.putRow_wf

theorem State.logShort_wf {s : State} (hs : s.wf) (base : W64) :
    (State.logShort s base).wf := by
  unfold State.logShort
  with_reducible repeat' first
    | assumption | apply wf_putBytes | refine State.wf.mem ?_ | refine State.wf.host ?_ | apply wf_mk

theorem State.spillFrom_wf {s : State} (hs : s.wf) (die : Nat) (next : Nat) (i : Nat) (z0 : List Extent) :
    (State.spillFrom s die next i z0).1.wf := by
  revert hs
  induction z0 generalizing s die next i with
  | nil =>
    intros; unfold State.spillFrom
    with_reducible repeat' first
      | assumption | apply State.next_wf | apply Uk.s_wf | apply State.logShort_wf | apply State.copyRows_wf | apply wf_ite
      | apply wfP_ite
  | cons _ _ ih =>
    intros; unfold State.spillFrom
    with_reducible repeat' first
      | assumption | apply ih | apply State.next_wf | apply Uk.s_wf | apply State.logShort_wf | apply State.copyRows_wf | apply wf_ite
      | apply wfP_ite

theorem State.saveTo_wf {s : State} (hs : s.wf) (n : Nat) (t : TaskRun) (key : Nat) (a : Nat) (why : Nat) (accp : Nat) :
    (State.saveTo s n t key a why accp).wf := by
  unfold State.saveTo
  with_reducible repeat' first
    | assumption | apply State.spillFrom_wf | apply State.putImage_wf | apply State.unbindRng_wf | apply State.modCore_wf
    | apply State.modCtx_wf | apply wf_ite | intro _ | apply wf_putBytes | refine State.wf.mem ?_ | refine State.wf.host ?_
    | apply wf_mk

theorem State.requeue_wf {s : State} (hs : s.wf) (n : Nat) (t : TaskRun) (key : Nat) :
    (State.requeue s n t key).wf := by
  unfold State.requeue
  with_reducible repeat' first | assumption | apply State.post_wf | refine State.wf.mem ?_ | refine State.wf.host ?_ | apply wf_mk

theorem execContextSave_wf {s : State} (hs : s.wf) :
    wfOut (execContextSave s) := by
  unfold execContextSave
  repeat' first
    | with_reducible assumption | with_reducible apply State.requeue_wf | with_reducible apply State.saveTo_wf
    | with_reducible apply wf_ite | with_reducible apply wfOut_ite | with_reducible apply wfOut.next
    | with_reducible apply wfOut.fault | with_reducible apply wfOut.refused | split | dsimp only

theorem execForcedSave_wf {s : State} (hs : s.wf) :
    wfOut (execForcedSave s) := by
  unfold execForcedSave
  with_reducible repeat' first | assumption | apply State.modCtx_wf | apply wfOut.next | apply wfOut_ite

theorem execPendingLoadIntoImage_wf {s : State} (hs : s.wf) :
    wfOut (execPendingLoadIntoImage s) := by
  unfold execPendingLoadIntoImage
  with_reducible repeat' first
    | assumption | apply State.performAny_wf | intro _ | apply wfOut.next | apply wfOut.fault | apply wfOut.refused | split

/-! Landing -/

theorem State.injLandFrom_wf {s : State} (hs : s.wf) (own : Nat) (z0 : Nat) (z1 : List LandEntry) : (State.injLandFrom s own z0 z1).1.wf := by
  induction z1 generalizing s z0 with
  | nil => unfold State.injLandFrom; exact hs
  | cons e es ih =>
    unfold State.injLandFrom
    dsimp only
    split
    · exact ih (State.injReg_wf hs _ _ _) _
    · exact ih hs _

theorem State.injLand_wf {s : State} (hs : s.wf) (own : Nat) :
    (State.injLand s own).wf := by
  unfold State.injLand
  with_reducible repeat' first | assumption | apply State.injLandFrom_wf | apply State.modCtx_wf | apply wf_ite

theorem State.landStep_wf {s : State} (hs : s.wf) (own : Nat) :
    (State.landStep s own).wf := by
  unfold State.landStep
  repeat' first
    | with_reducible assumption | with_reducible apply State.injLand_wf | with_reducible apply State.landDue_wf
    | with_reducible apply State.modCtx_wf | with_reducible apply wf_ite
    | with_reducible apply State.takeTrap_wf | with_reducible apply State.consume_wf | with_reducible refine State.wf.mem ?_
    | with_reducible refine State.wf.host ?_ | split | dsimp only | with_reducible apply wf_mk

theorem execResultLanding_wf {s : State} (hs : s.wf) :
    wfOut (execResultLanding s) := by
  unfold execResultLanding
  with_reducible repeat' first | assumption | apply State.landStep_wf | apply wfOut.next

theorem State.takeReport_wf {s : State} (hs : s.wf) (n : Nat) :
    (State.takeReport s n).wf := by
  unfold State.takeReport
  with_reducible repeat' first
    | assumption | apply State.modCtx_wf | apply State.takeTrap_wf | apply wf_ite | refine State.wf.mem ?_ | refine State.wf.host ?_ | split
    | apply wf_mk

theorem execReportTrap_wf {s : State} (hs : s.wf) :
    wfOut (execReportTrap s) := by
  unfold execReportTrap
  with_reducible repeat' first | assumption | apply State.takeReport_wf | apply wf_ite | apply wfOut.next

theorem execGraceTimerExpiry_wf {s : State} (hs : s.wf) :
    wfOut (execGraceTimerExpiry s) := by
  unfold execGraceTimerExpiry
  with_reducible repeat' first | assumption | apply State.modCtx_wf | apply State.report_wf | apply wfOut.next | apply wfOut_ite

theorem State.storeFabric_wf {s : State} (hs : s.wf) (core : Nat) (part : Nat) (x : W64) (row : Row) (mask : Row) (conf : Bool) (poison : Bool) :
    (State.storeFabric s core part x row mask conf poison).wf := by
  unfold State.storeFabric
  with_reducible repeat' first | assumption | apply State.storeLocal_wf | apply State.inject_wf | apply wf_ite | apply wf_getD

theorem State.putFrame_wf {s : State} (hs : s.wf) (n : Nat) (t : TaskRun) (c : Ctx) (row0 : Row) :
    (State.putFrame s n t c row0).wf := by
  unfold State.putFrame
  with_reducible repeat' first | assumption | apply State.storeFabric_wf | apply wf_foldl | apply wf_foldlP | intro _ | split

theorem State.bindCont_wf {s : State} (hs : s.wf) (n : Nat) (t : TaskRun) (addr : W64) (pc : CodeAddr) :
    wfMade (State.bindCont s n t addr pc) := by
  unfold State.bindCont
  with_reducible repeat' first | assumption | apply State.bindEntry_wf | refine State.wf.mem ?_ | refine State.wf.host ?_ | apply wf_mk

theorem State.failLaunch_wf {s : State} (hs : s.wf) (cmd : Nat) :
    (State.failLaunch s cmd).wf := by
  unfold State.failLaunch
  with_reducible repeat' first | assumption | refine State.wf.mem ?_ | refine State.wf.host ?_ | split | apply wf_mk

theorem State.twaitBack_wf {s : State} (hs : s.wf) (n : Nat) (cause : Nat) (tval : W64) (pc : CodeAddr) :
    (State.twaitBack s n cause tval pc).wf := by
  unfold State.twaitBack
  with_reducible repeat' first
    | assumption | apply State.takeTrap_wf | apply State.modCtx_wf | apply wf_ite | intro _ | apply wf_putBytes
    | refine State.wf.mem ?_ | refine State.wf.host ?_ | apply wf_mk

theorem State.endTask_wf {s : State} (hs : s.wf) (n : Nat) (t : TaskRun) (cont : Option (W64 × CodeAddr × CodeAddr)) :
    (State.endTask s n t cont).wf := by
  unfold State.endTask
  repeat' first
    | with_reducible assumption | with_reducible apply State.twaitBack_wf | with_reducible apply State.bindCont_wf
    | with_reducible apply State.putFrame_wf | with_reducible apply State.leaveGroup_wf | with_reducible apply State.memberEnds_wf
    | with_reducible apply State.freeCtx_wf | intro _ | split | (refine wf_madeOk (by assumption) ?_) | dsimp only

theorem execTaskEndDrainComplete_wf {s : State} (hs : s.wf) :
    wfOut (execTaskEndDrainComplete s) := by
  unfold execTaskEndDrainComplete
  repeat' first
    | with_reducible assumption | with_reducible apply State.endTask_wf | with_reducible apply wf_ite | with_reducible apply wfP_ite
    | with_reducible apply wfOut_ite | intro _ | with_reducible apply wfOut.next | with_reducible apply wfOut.fault
    | with_reducible apply wfOut.refused | split | dsimp only

theorem State.enterSegment_wf {s : State} (hs : s.wf) (n : Nat) :
    (State.enterSegment s n).wf := by
  unfold State.enterSegment
  with_reducible repeat' first | assumption | apply State.modCtx_wf | apply State.modCore_wf

theorem execSegmentEntry_wf {s : State} (hs : s.wf) :
    wfOut (execSegmentEntry s) := by
  unfold execSegmentEntry
  with_reducible repeat' first | assumption | apply State.enterSegment_wf | apply wf_ite | apply wfOut.next

theorem execEmptyBundle_wf (seg : Bool) (_wf : BitVec 16) {s : State} (hs : s.wf) :
    wfOut (execEmptyBundle seg _wf s) := by
  unfold execEmptyBundle
  with_reducible repeat' first | assumption | apply State.enterSegment_wf | apply State.tick_wf | apply wf_ite | apply wfOut.next

theorem State.rollStream_wf {s : State} (hs : s.wf) (n : Nat) (p : Snapshot) :
    (State.rollStream s n p).wf := by
  unfold State.rollStream
  with_reducible repeat' first | assumption | apply State.unbindRng_wf | apply State.bindRng_wf | apply State.modCtx_wf | apply wf_ite

theorem State.againRdv_wf {s : State} (hs : s.wf) (n : Nat) : (State.againRdv s n).wf := by
  unfold State.againRdv
  with_reducible repeat' first | assumption | refine State.wf.mem ?_ | refine State.wf.host ?_ | apply wf_mk

theorem State.rollback_wf {s : State} (hs : s.wf) (n : Nat) (p : Snapshot) (array : Nat) (addr : W64) :
    (State.rollback s n p array addr).wf := by
  unfold State.rollback
  repeat' first
    | with_reducible assumption | with_reducible apply State.modCtx_wf | with_reducible apply State.takeTrap_wf
    | with_reducible apply State.modCore_wf | with_reducible apply State.rollStream_wf | with_reducible apply State.againRdv_wf
    | with_reducible apply State.bumpErrlog_wf
    | with_reducible apply State.errRecord_wf | with_reducible apply wf_ite | with_reducible refine State.wf.mem ?_
    | with_reducible refine State.wf.host ?_ | dsimp only | with_reducible apply wf_mk

theorem execSegmentRollback_wf {s : State} (hs : s.wf) :
    wfOut (execSegmentRollback s) := by
  unfold execSegmentRollback
  repeat' first
    | with_reducible assumption | with_reducible apply State.rollback_wf | with_reducible apply wf_ite | with_reducible apply wfOut.next
    | split | dsimp only

/-! TreeOps -/

theorem State.putTt_wf {s : State} (hs : s.wf) (part : Nat) (idx : Nat) (off : Nat) (n : Nat) (v : Nat) :
    (State.putTt s part idx off n v).wf := by
  unfold State.putTt
  with_reducible repeat' first | assumption | apply State.putMem_wf

theorem State.ttInit_wf {s : State} (hs : s.wf) (part : Nat) (z0 : Nat) :
    (State.ttInit s part z0).wf := by
  revert hs
  induction z0 generalizing s part with
  | zero =>
    intros; unfold State.ttInit
    with_reducible repeat' first | assumption
  | succ _ ih =>
    intros; unfold State.ttInit
    with_reducible repeat' first | assumption | apply ih | apply State.putMem_wf

theorem State.writeTtab_wf {s : State} (hs : s.wf) (part : Nat) (v : W64) :
    (State.writeTtab s part v).wf := by
  unfold State.writeTtab
  with_reducible repeat' first | assumption | apply State.setReg_wf | apply State.ttInit_wf | apply wf_ite

theorem execTtabWrite_wf (n : Nat) (v : W64) {s : State} (hs : s.wf) :
    wfOut (execTtabWrite n v s) := by
  unfold execTtabWrite
  with_reducible repeat' first
    | assumption | apply State.writeTtab_wf | apply State.heard_wf | apply wfOut.next | apply wfOut.fault | apply wfOut.refused

theorem State.putRoute_wf {s : State} (hs : s.wf) (base : Nat) (r : List Placed) :
    (State.putRoute s base r).wf := by
  unfold State.putRoute
  with_reducible repeat' first | assumption | apply State.putMem_wf | apply wf_foldlP | intro _ | split

/-! Trees -/

theorem State.putSeam_wf {s : State} (hs : s.wf) (x : Seam) :
    (State.putSeam s x).wf := by
  unfold State.putSeam
  with_reducible repeat' first | assumption | refine State.wf.mem ?_ | refine State.wf.host ?_ | apply wf_mk

theorem State.setWin_wf {s : State} (hs : s.wf) (part : Nat) (h : W32) (key : Nat) (seg : Nat) (rows : Nat) :
    (State.setWin s part h key seg rows).wf := by
  unfold State.setWin
  with_reducible repeat' first | assumption | refine State.wf.mem ?_ | refine State.wf.host ?_ | apply wf_mk

theorem State.treeArrive_wf {s : State} (hs : s.wf) (seam : Nat) (f : Flit) :
    (State.treeArrive s seam f).1.wf := by
  unfold State.treeArrive
  with_reducible repeat' first | assumption | apply State.receive_wf | apply wfP_ite

theorem State.notify_wf {s : State} (hs : s.wf) (part : Nat) (h : W32) (m : Nat) (seg : Nat) (status : Nat) :
    (State.notify s part h m seg status).wf := by
  unfold State.notify
  with_reducible repeat' first | assumption | apply State.post_wf | apply wf_ite

theorem State.notifyAll_wf {s : State} (hs : s.wf) (part : Nat) (h : W32) (seg : Nat) (status : Nat) (ms : List Nat) :
    (State.notifyAll s part h seg status ms).wf := by
  unfold State.notifyAll
  with_reducible repeat' first | assumption | apply State.notify_wf | apply wf_foldl | intro _

theorem execPostCompletionNotice_wf (h : W32) (m : Nat) (seg : W32) (status : Nat) {s : State} (hs : s.wf) :
    wfOut (execPostCompletionNotice h m seg status s) := by
  unfold execPostCompletionNotice
  with_reducible repeat' first | assumption | apply wfOut.next | refine State.wf.mem ?_ | refine State.wf.host ?_ | apply wf_mk

theorem State.faultPost_wf {s : State} (hs : s.wf) (p : Posted) :
    (State.faultPost s p).wf := by
  unfold State.faultPost
  repeat' first | with_reducible assumption | with_reducible apply State.notify_wf | with_reducible apply State.reportTask_wf | split | dsimp only

theorem State.endPosts_wf {s : State} (hs : s.wf) (part : Nat) (h : W32) (status : Nat) : (State.endPosts s part h status).wf := by
  unfold State.endPosts
  refine wf_foldl hs fun t p ht => ?_
  split
  · exact State.notify_wf ht _ _ _ _ _
  · exact ht

theorem State.faultFlit_wf {s : State} (hs : s.wf) (f : Flit) : (State.faultFlit s f).wf := by
  unfold State.faultFlit
  dsimp only
  refine wf_foldl hs fun t p ht => ?_
  split
  · exact State.faultPost_wf ht _
  · exact ht

theorem State.routerErr_wf {s : State} (hs : s.wf) (place : Nat) :
    (State.routerErr s place).wf := by
  unfold State.routerErr
  with_reducible repeat' first | assumption | apply State.errRecord_wf

theorem State.bumpTree_wf {s : State} (hs : s.wf) (part : Nat) (h : W32) (off : Nat) :
    (State.bumpTree s part h off).wf := by
  unfold State.bumpTree
  with_reducible repeat' first | assumption | apply State.putTt_wf | apply wf_ite

theorem State.treeCredit_wf {s : State} (hs : s.wf) (x : Seam) (p : Nat) (row : Nat) (close : Bool) :
    (State.treeCredit s x p row close).wf := by
  unfold State.treeCredit
  with_reducible repeat' first | assumption | apply State.sendCtl_wf | apply State.post_wf | apply wf_ite

theorem State.extend_wf {s : State} (hs : s.wf) (x : Seam) :
    (State.extend s x).wf := by
  unfold State.extend
  with_reducible repeat' first | assumption | apply State.treeCredit_wf | apply wf_foldl | apply wf_foldlP | intro _

theorem State.serveWaiting_wf {s : State} (hs : s.wf) (place : Nat) : (State.serveWaiting s place).wf := by
  unfold State.serveWaiting
  refine wf_foldl hs fun t p ht => ?_
  split
  · exact State.post_wf ht _ _ _
  · exact ht

theorem State.claimSlot_wf {s : State} (hs : s.wf) (place : Nat) :
    wfOpt (State.claimSlot s place) := by
  unfold State.claimSlot
  with_reducible repeat' first
    | assumption | apply State.putSeam_wf | apply wf_ite | apply wfOpt_ite | intro _ | apply wfOpt_map | apply wfOpt.some
    | apply wfOpt.none | apply wf_putBytes | refine State.wf.mem ?_ | refine State.wf.host ?_ | apply wf_mk

theorem State.slotMiss_wf {s : State} (hs : s.wf) (place : Nat) (f : Flit) :
    (State.slotMiss s place f).wf := by
  unfold State.slotMiss
  with_reducible repeat' first | assumption | apply State.putSeam_wf | apply State.post_wf | apply State.sendCtl_wf | apply wf_ite

theorem State.answerRefill_wf {s : State} (hs : s.wf) (die : Nat) (f : Flit) :
    (State.answerRefill s die f).wf := by
  unfold State.answerRefill
  with_reducible repeat' first
    | assumption | apply State.sendCtl_wf | intro _ | apply wf_getD | apply wf_putBytes | refine State.wf.mem ?_
    | refine State.wf.host ?_ | split | apply wf_mk

theorem execRefill_wf (seam : Nat) (f : Flit) {s : State} (hs : s.wf) :
    wfOut (execRefill seam f s) := by
  unfold execRefill
  repeat' first
    | with_reducible assumption | with_reducible apply State.answerRefill_wf | with_reducible apply State.treeArrive_wf
    | with_reducible apply State.post_wf | with_reducible apply wf_ite | with_reducible apply wfP_ite | with_reducible apply wfOut_ite
    | intro _ | with_reducible apply wfOut.next | with_reducible apply wfOut.fault | with_reducible apply wfOut.refused | split
    | (refine wf_pair (by assumption) ?_) | dsimp only

theorem State.dropHeld_wf {s : State} (hs : s.wf) (x : Seam) (h : W32) : (State.dropHeld s x h).wf := by
  unfold State.dropHeld
  have h1 : (x.held.foldl (fun s f => if f.word = h then s.faultFlit f else s) s).wf := by
    refine wf_foldl hs fun t p ht => ?_
    split
    · exact State.faultFlit_wf ht _
    · exact ht
  generalize (x.held.foldl (fun s f => if f.word = h then s.faultFlit f else s) s) = t at h1
  dsimp only
  split
  · exact h1
  · exact State.putSeam_wf h1 _

theorem State.firstWin_wf {s : State} (hs : s.wf) (part : Nat) (h : W32) (key : Nat) (seg : Nat) (rows : Nat) :
    (State.firstWin s part h key seg rows).wf := by
  unfold State.firstWin
  with_reducible repeat' first | assumption | apply State.setWin_wf | apply wf_ite

theorem State.farInstall_wf {s : State} (hs : s.wf) (x : Seam) (h : W32) (i : FarSeam) :
    (State.farInstall s x h i).wf := by
  unfold State.farInstall
  with_reducible repeat' first
    | assumption | apply State.firstWin_wf | apply State.putSeam_wf | apply wf_foldl | apply wf_foldlP | intro _ | apply wf_putBytes
    | refine State.wf.mem ?_ | refine State.wf.host ?_ | split | apply wf_mk

theorem execRefillAnswer_wf (seam : Nat) (h : W32) (ans : RefillAns) {s : State} (hs : s.wf) :
    wfOut (execRefillAnswer seam h ans s) := by
  unfold execRefillAnswer
  with_reducible repeat' first
    | assumption | apply State.farInstall_wf | apply State.dropHeld_wf | apply State.putSeam_wf | apply State.post_wf | apply wf_ite
    | apply wfOut_ite | apply wfOut.next | apply wfOut.fault | apply wfOut.refused | apply wf_putBytes | refine State.wf.mem ?_
    | refine State.wf.host ?_ | split | apply wf_mk

theorem State.landRows_wf {s : State} (hs : s.wf) (part : Nat) (h : W32) (e : BitVec 2048) (m : Nat) (f : Flit) :
    (State.landRows s part h e m f).wf := by
  unfold State.landRows
  with_reducible repeat' first | assumption | apply State.storeFabric_wf | apply State.post_wf | apply wf_ite

theorem State.downTo_wf {s : State} (hs : s.wf) (x : Seam) (e : BitVec 2048) (f : Flit) (key : Nat) (at' : Nat × Nat) :
    (State.downTo s x e f key at').wf := by
  unfold State.downTo
  with_reducible repeat' first
    | assumption | apply State.landRows_wf | apply State.sendCtl_wf | apply State.post_wf | apply wf_ite

theorem State.downAll_wf {s : State} (hs : s.wf) (x : Seam) (e : BitVec 2048) (f : Flit) :
    (State.downAll s x e f).wf := by
  unfold State.downAll
  with_reducible repeat' first | assumption | apply State.downTo_wf | apply wf_foldl | apply wf_foldlP | intro _

theorem execTreedown_wf (seam : Nat) (f : Flit) {s : State} (hs : s.wf) :
    wfOut (execTreedown seam f s) := by
  unfold execTreedown
  repeat' first
    | with_reducible assumption | with_reducible apply State.downAll_wf | with_reducible apply State.landRows_wf
    | with_reducible apply State.slotMiss_wf | with_reducible apply State.treeArrive_wf | with_reducible apply State.putSeam_wf
    | with_reducible apply wf_ite | with_reducible apply wfP_ite | with_reducible apply wfOut_ite | intro _
    | with_reducible apply wfOut.next | with_reducible apply wfOut.fault | with_reducible apply wfOut.refused
    | with_reducible apply wf_putBytes | with_reducible refine State.wf.mem ?_ | with_reducible refine State.wf.host ?_ | split
    | (refine wf_pair (by assumption) ?_) | dsimp only | with_reducible apply wf_mk

theorem execDeliveryStatus_wf (h : W32) (m : Nat) (seg : W32) (torn : Bool) (part : Bool) {s : State} (hs : s.wf) :
    wfOut (execDeliveryStatus h m seg torn part s) := by
  unfold execDeliveryStatus
  with_reducible repeat' first | assumption | apply State.storeFabric_wf | apply State.post_wf | apply wf_ite | apply wfOut.next

theorem State.markFolded_wf {s : State} (hs : s.wf) (part : Nat) (h : W32) (seg : Nat) (v : Bool) (ms : List Nat) :
    (State.markFolded s part h seg v ms).wf := by
  unfold State.markFolded
  with_reducible repeat' first
    | assumption | apply wf_ite | intro _ | apply wf_putBytes | refine State.wf.mem ?_ | refine State.wf.host ?_ | apply wf_mk

theorem State.deliver_wf {s : State} (hs : s.wf) (x : Seam) :
    (State.deliver s x).wf := by
  unfold State.deliver
  with_reducible repeat' first
    | assumption | apply State.downAll_wf | apply State.downTo_wf | apply State.bumpTree_wf | apply State.notifyAll_wf | apply wf_ite
    | apply wf_foldl | apply wf_foldlP | intro _

theorem State.openPending_wf {s : State} (hs : s.wf) (part : Nat) (h : W32) : (State.openPending s part h).wf := by
  unfold State.openPending
  refine wf_foldl hs fun t p ht => ?_
  dsimp only
  split
  · split
    · split
      · exact ht
      · exact State.extend_wf (State.putSeam_wf ht _) _
    · exact ht
  · exact ht

theorem State.openAt_wf {s : State} (hs : s.wf) (x : Seam) (seg : Nat) :
    (State.openAt s x seg).wf := by
  unfold State.openAt
  with_reducible repeat' first
    | assumption | apply State.openPending_wf | apply State.serveWaiting_wf | apply State.extend_wf | apply State.putSeam_wf
    | apply State.putTt_wf | apply wf_ite | intro _ | apply wf_putBytes | refine State.wf.mem ?_ | refine State.wf.host ?_ | split
    | apply wf_mk

theorem State.openNext_wf {s : State} (hs : s.wf) (x : Seam) :
    (State.openNext s x).wf := by
  unfold State.openNext
  with_reducible repeat' first | assumption | apply State.openAt_wf

theorem State.sendLate_wf {s : State} (hs : s.wf) (part : Nat) (h : W32) (seg : Nat) (key : Nat) (die : Nat) (parent : Nat × Nat) :
    (State.sendLate s part h seg key die parent).wf := by
  unfold State.sendLate
  with_reducible repeat' first | assumption | apply State.post_wf | apply State.sendCtl_wf | apply wf_ite

theorem State.forward_wf {s : State} (hs : s.wf) (x : Seam) (parent : Nat × Nat) (z0 : Nat) :
    (State.forward s x parent z0).wf := by
  revert hs
  induction z0 generalizing s x parent with
  | zero =>
    intros; unfold State.forward
    with_reducible repeat' first | assumption
  | succ _ ih =>
    intros; unfold State.forward
    with_reducible repeat' first
      | assumption | apply ih | apply State.openNext_wf | apply State.post_wf | apply State.sendCtl_wf | apply State.putSeam_wf
      | apply wf_ite

theorem State.sendSeam_wf {s : State} (hs : s.wf) (x : Seam) :
    (State.sendSeam s x).wf := by
  unfold State.sendSeam
  with_reducible repeat' first | assumption | apply State.deliver_wf | apply State.openNext_wf | apply State.forward_wf | split

theorem State.settle_wf {s : State} (hs : s.wf) (x : Seam) :
    (State.settle s x).wf := by
  unfold State.settle
  with_reducible repeat' first
    | assumption | apply State.sendSeam_wf | apply State.markFolded_wf | apply State.putSeam_wf | apply wf_ite | apply wf_foldl
    | apply wf_foldlP | intro _ | apply wf_putBytes | refine State.wf.mem ?_ | refine State.wf.host ?_ | apply wf_mk

theorem State.readStaged_wf {s : State} (hs : s.wf) (x : Seam) :
    (State.readStaged s x).1.wf := by
  unfold State.readStaged
  with_reducible repeat' first
    | assumption | apply State.injArray_wf | apply wf_ite | apply wfP_ite | intro _ | apply wf_putBytes | refine State.wf.mem ?_
    | refine State.wf.host ?_ | apply wf_mk

theorem State.foldSeam_wf {s : State} (hs : s.wf) (x : Seam) :
    (State.foldSeam s x).wf := by
  unfold State.foldSeam
  with_reducible repeat' first
    | assumption | apply State.readStaged_wf | apply State.settle_wf | apply State.extend_wf | apply State.putSeam_wf | apply wf_ite

theorem execSlotInstall_wf (seam : Nat) (h : W32) {s : State} (hs : s.wf) :
    wfOut (execSlotInstall seam h s) := by
  unfold execSlotInstall
  repeat' first
    | with_reducible assumption | with_reducible apply State.foldSeam_wf | with_reducible apply State.sendSeam_wf
    | with_reducible apply State.claimSlot_wf | with_reducible apply State.putSeam_wf | with_reducible apply State.post_wf
    | with_reducible apply wf_ite | with_reducible apply wfP_ite | with_reducible apply wfOut_ite | with_reducible apply wf_foldl
    | with_reducible apply wf_foldlP | intro _ | with_reducible apply wfOut.next | with_reducible apply wfOut.fault
    | with_reducible apply wfOut.refused | with_reducible apply wf_putBytes | with_reducible refine State.wf.mem ?_
    | with_reducible refine State.wf.host ?_ | split | (refine wf_optSome (by assumption) ?_) | dsimp only
    | with_reducible apply wf_mk

theorem State.lateRow_wf {s : State} (hs : s.wf) (x : Seam) (port : Nat) (seg : Nat) :
    (State.lateRow s x port seg).wf := by
  unfold State.lateRow
  with_reducible repeat' first | assumption | apply State.putSeam_wf | apply State.bumpTree_wf | apply State.notifyAll_wf | apply wf_ite

theorem State.takeRows_wf {s : State} (hs : s.wf) (x : Seam) (f : Flit) :
    (State.takeRows s x f).wf := by
  unfold State.takeRows
  repeat' first
    | with_reducible assumption | with_reducible apply State.routerErr_wf | with_reducible apply State.lateRow_wf
    | with_reducible apply State.putSeam_wf | with_reducible apply State.notifyAll_wf | with_reducible apply State.foldSeam_wf
    | with_reducible apply wf_ite | split | dsimp only

theorem State.takeMark_wf {s : State} (hs : s.wf) (x : Seam) (f : Flit) :
    (State.takeMark s x f).wf := by
  unfold State.takeMark
  with_reducible repeat' first | assumption | apply State.lateRow_wf | split

theorem execTreeup_wf (seam : Nat) (f : Flit) {s : State} (hs : s.wf) :
    wfOut (execTreeup seam f s) := by
  unfold execTreeup
  repeat' first
    | with_reducible assumption | with_reducible apply State.takeMark_wf | with_reducible apply State.takeRows_wf
    | with_reducible apply State.slotMiss_wf | with_reducible apply State.treeArrive_wf | with_reducible apply wf_ite
    | with_reducible apply wfP_ite | with_reducible apply wfOut_ite | intro _ | with_reducible apply wfOut.next
    | with_reducible apply wfOut.fault | with_reducible apply wfOut.refused | split | (refine wf_pair (by assumption) ?_) | dsimp only

theorem execSeamTimeout_wf (seam : Nat) (h : W32) {s : State} (hs : s.wf) :
    wfOut (execSeamTimeout seam h s) := by
  unfold execSeamTimeout
  with_reducible repeat' first
    | assumption | apply State.settle_wf | apply State.treeCredit_wf | apply wf_ite | apply wfOut_ite | apply wf_foldl
    | apply wf_foldlP | intro _ | apply wfOut.next | apply wfOut.fault | apply wfOut.refused | apply wf_putBytes
    | refine State.wf.mem ?_ | refine State.wf.host ?_ | split | apply wf_mk

theorem State.closeSeam_wf {s : State} (hs : s.wf) (x : Seam) : (State.closeSeam s x).wf := by
  unfold State.closeSeam
  have hm : ∀ t : State, t.wf → (match x.parent with
      | some q => t.sendLate x.part x.handle x.seg (4096 + x.idx) (placeDie x.place) q
      | none => t).wf := by
    intro t ht
    split
    · exact State.sendLate_wf ht _ _ _ _ _ _
    · exact ht
  dsimp only
  split
  · exact State.openNext_wf hs _
  · exact State.openNext_wf (hm _ hs) _
  · refine State.openNext_wf (State.notifyAll_wf ?_ _ _ _ _ _) _
    have h1 : ((List.range x.ports.length).foldl
        (fun t p => if x.recv.getD p 0 < teP (s.seamEnt x) then t.treeCredit x p 0 true else t) s).wf :=
      wf_foldl hs fun t p ht => wf_ite (State.treeCredit_wf ht _ _ _ _) ht
    exact wf_ite h1 (hm _ h1)

theorem execTreeCredit_wf (child : Nat) (f : Flit) {s : State} (hs : s.wf) :
    wfOut (execTreeCredit child f s) := by
  unfold execTreeCredit
  repeat' first
    | with_reducible assumption | with_reducible apply State.closeSeam_wf | with_reducible apply State.sendSeam_wf
    | with_reducible apply State.sendLate_wf | with_reducible apply State.openAt_wf | with_reducible apply State.setWin_wf
    | with_reducible apply wf_ite | with_reducible apply wfOut_ite | intro _ | with_reducible apply wfOut.next
    | with_reducible apply wfOut.fault | with_reducible apply wfOut.refused | split | dsimp only

theorem execLateMark_wf (seam : Nat) (f : Flit) {s : State} (hs : s.wf) :
    wfOut (execLateMark seam f s) := by
  unfold execLateMark
  repeat' first
    | with_reducible assumption | with_reducible apply State.takeMark_wf | with_reducible apply State.treeArrive_wf
    | with_reducible apply wf_ite | with_reducible apply wfP_ite | with_reducible apply wfOut_ite | intro _
    | with_reducible apply wfOut.next | with_reducible apply wfOut.fault | with_reducible apply wfOut.refused | split
    | (refine wf_pair (by assumption) ?_) | dsimp only

theorem State.dropTree_wf {s : State} (hs : s.wf) (part : Nat) (h : W32) :
    (State.dropTree s part h).wf := by
  unfold State.dropTree
  with_reducible repeat' first | assumption | refine State.wf.mem ?_ | refine State.wf.host ?_ | apply wf_mk

theorem State.releaseTree_wf {s : State} (hs : s.wf) (part : Nat) (h : W32) : (State.releaseTree s part h).wf := by
  unfold State.releaseTree
  exact wf_foldl (State.dropTree_wf hs _ _) fun t p ht => State.serveWaiting_wf ht _

theorem State.stopTree_wf {s : State} (hs : s.wf) (part : Nat) (h : W32) :
    (State.stopTree s part h).wf := by
  unfold State.stopTree
  with_reducible repeat' first
    | assumption | apply State.serveWaiting_wf | apply wf_ite | apply wf_foldl | apply wf_foldlP | intro _ | apply wf_putBytes
    | refine State.wf.mem ?_ | refine State.wf.host ?_ | apply wf_mk

theorem State.breakTrees_wf {s : State} (hs : s.wf) : (State.breakTrees s).wf := by
  unfold State.breakTrees
  refine wf_foldl hs fun t p ht => ?_
  exact wf_ite (State.stopTree_wf (State.endPosts_wf (State.putTt_wf ht _ _ _ _ _) _ _ _) _ _) ht

/-! Experts -/

theorem State.putEtab_wf {s : State} (hs : s.wf) (die : Nat) (idx : Nat) (r : Row) :
    (State.putEtab s die idx r).wf := by
  unfold State.putEtab
  with_reducible repeat' first | assumption | apply wf_ite | apply wf_foldl | refine State.wf.mem ?_ | refine State.wf.host ?_ | intro _ | apply wf_mk

theorem State.putRing_wf {s : State} (hs : s.wf) (x : Nat) (r : Ring) :
    (State.putRing s x r).wf := by
  unfold State.putRing
  with_reducible repeat' first | assumption | refine State.wf.mem ?_ | refine State.wf.host ?_ | apply wf_mk

theorem State.ringRows_wf {s : State} (hs : s.wf) (x : Nat) (size : Nat) (pos : Nat) (k : Nat) (z0 : List Row) :
    (State.ringRows s x size pos k z0).wf := by
  revert hs
  induction z0 generalizing s x size pos k with
  | nil =>
    intros; unfold State.ringRows
    with_reducible repeat' first | assumption
  | cons _ _ ih =>
    intros; unfold State.ringRows
    with_reducible repeat' first | assumption | apply ih | apply State.storeLocal_wf

theorem State.ringDone_wf {s : State} (hs : s.wf) (x : Nat) (r : RingRec) :
    (State.ringDone s x r).wf := by
  unfold State.ringDone
  with_reducible repeat' first | assumption | apply State.post_wf | apply wf_ite

theorem State.freeBufs_wf {s : State} (hs : s.wf) (bufs : List Nat) :
    (State.freeBufs s bufs).wf := by
  unfold State.freeBufs
  with_reducible repeat' first | assumption | apply State.freeBuf_wf | apply wf_foldl | apply wf_foldlP | intro _

theorem State.ringFlit_wf {s : State} (hs : s.wf) (x : Nat) (size : Nat) (r : RingRec) (f : Flit) (bufs : List Nat) :
    (State.ringFlit s x size r f bufs).wf := by
  unfold State.ringFlit
  with_reducible repeat' first
    | assumption | apply State.freeBufs_wf | apply State.ringDone_wf | apply State.ringRows_wf | apply State.putRing_wf
    | apply State.post_wf | apply wf_ite | intro _ | apply wf_putBytes | refine State.wf.mem ?_ | refine State.wf.host ?_ | split
    | apply wf_mk

theorem execRingReserve_wf {s : State} (hs : s.wf) :
    wfOut (execRingReserve s) := by
  unfold execRingReserve
  repeat' first
    | with_reducible assumption | with_reducible apply State.freeBufs_wf | with_reducible apply State.ringDone_wf
    | with_reducible apply State.ringRows_wf | with_reducible apply State.putRing_wf | with_reducible apply State.storeLocal_wf
    | with_reducible apply State.post_wf | with_reducible apply wf_ite | with_reducible apply wfOut_ite
    | with_reducible apply wfOut.next | with_reducible apply wfOut.fault | with_reducible apply wfOut.refused
    | with_reducible apply wf_putBytes | with_reducible refine State.wf.mem ?_ | with_reducible refine State.wf.host ?_ | split
    | dsimp only | with_reducible apply wf_mk

theorem State.commitOne_wf {s : State} (hs : s.wf) (x : Nat) (r : RingRec) :
    (State.commitOne s x r).wf := by
  unfold State.commitOne
  with_reducible repeat' first | assumption | apply State.storeLocal_wf | apply State.post_wf | apply State.sendCtl_wf | apply wf_ite

theorem execRingCommit_wf {s : State} (hs : s.wf) :
    wfOut (execRingCommit s) := by
  unfold execRingCommit
  repeat' first
    | with_reducible assumption | with_reducible apply State.commitOne_wf | with_reducible apply State.putRing_wf
    | with_reducible apply State.post_wf | with_reducible apply wf_ite | with_reducible apply wfOut.next | with_reducible apply wf_foldl
    | intro _ | split | dsimp only

theorem State.routeExpert_wf {s : State} (hs : s.wf) (die : Nat) (f : Flit) :
    (State.routeExpert s die f).wf := by
  unfold State.routeExpert
  repeat' first
    | with_reducible assumption | with_reducible apply State.modCore_wf | with_reducible apply State.ringFlit_wf
    | with_reducible apply State.injectDie_wf | with_reducible apply wf_ite | with_reducible apply wfOptP_ite
    | with_reducible apply wfOptP.some | with_reducible apply wfOptP_map | with_reducible refine State.wf.mem ?_
    | with_reducible refine State.wf.host ?_ | intro _ | split | (refine wf_optSome (by assumption) ?_)
    | (refine wf_optPSome (by assumption) ?_) | dsimp only | with_reducible apply wf_mk

theorem State.takeExpert_wf {s : State} (hs : s.wf) (die : Nat) (rx : Nat) (f : Flit) :
    (State.takeExpert s die rx f).wf := by
  unfold State.takeExpert
  repeat' first
    | with_reducible assumption | with_reducible apply State.ringFlit_wf | with_reducible apply State.routerErr_wf
    | with_reducible apply State.freeBuf_wf | with_reducible apply wf_ite | intro _ | split | dsimp only

theorem execExpert_wf (die : Nat) (f : Flit) {s : State} (hs : s.wf) :
    wfOut (execExpert die f s) := by
  unfold execExpert
  repeat' first
    | with_reducible assumption | with_reducible apply State.routeExpert_wf | with_reducible apply State.receive_wf
    | with_reducible apply State.takeExpert_wf | with_reducible apply wfOut.next | with_reducible apply wfOut_ite | split
    | (refine wf_pair (by assumption) ?_)

theorem execCommitAcknowledgement_wf (die : Nat) (entry : Nat) (rep : Nat) (bytes : Nat) (ack : RingAck) {s : State} (hs : s.wf) :
    wfOut (execCommitAcknowledgement die entry rep bytes ack s) := by
  unfold execCommitAcknowledgement
  with_reducible repeat' first
    | assumption | apply State.modCore_wf | apply wf_ite | apply wfOut_ite | intro _ | apply wfOut.next | apply wfOut.fault
    | apply wfOut.refused | apply wf_putBytes | refine State.wf.mem ?_ | refine State.wf.host ?_ | apply wf_mk

theorem State.voidRing_wf {s : State} (hs : s.wf) (x : Nat) (g : Ring) : (State.voidRing s x g).wf := by
  unfold State.voidRing
  extract_lets gone t u v
  have ht : t.wf := wf_foldl hs fun t p ht => wf_ite (State.ringRows_wf (State.storeLocal_wf ht _ _ _ _) _ _ _ _ _) ht
  have hv : v.wf := State.freeBufs_wf (State.putRing_wf ht _ _) _
  exact wf_ite (State.post_wf hv _ _ _) hv

theorem State.voidRings_wf {s : State} (hs : s.wf) : (State.voidRings s).wf := by
  unfold State.voidRings
  exact wf_foldl hs fun t p ht => State.voidRing_wf ht _ _

end Sys2Proof.Machine
end

