-- ==== Sys2Proof/Laws/WfEngines.lean ====
section
/-! SUPPORT. Canonical memory is kept by the engines, recovery, reset and the mailbox: one lemma per operation. -/

namespace Sys2Proof.Machine

/-! Engines -/

theorem State.setEng_wf {s : State} (hs : s.wf) (n : Nat) (e : Eng) (r : Option RunCmd) :
    (State.setEng s n e r).wf := by
  unfold State.setEng
  with_reducible repeat' first | assumption | apply State.modCore_wf

theorem State.ecPush_wf {s : State} (hs : s.wf) (c : EngCmd) :
    (State.ecPush s c).wf := by
  unfold State.ecPush
  with_reducible repeat' first
    | assumption | apply State.modMe_wf | apply State.modCore_wf | apply wf_ite | intro _ | apply wf_putBytes | refine State.wf.mem ?_
    | refine State.wf.host ?_ | apply wf_mk

theorem State.ecGo_wf {s : State} (hs : s.wf) (i : Instr) (op : Nat) (a : EArgs) :
    wfOut (State.ecGo s i op a) := by
  unfold State.ecGo
  with_reducible repeat' first | assumption | apply issue_wf | apply State.ecPush_wf | apply wf_ite | apply wfOut.next | split

theorem execCopy_wf (a : EArgs) {s : State} (hs : s.wf) :
    wfOut (execCopy a s) := by
  unfold execCopy
  with_reducible repeat' first | assumption | apply State.ecGo_wf

theorem execOffl_wf (a : EArgs) {s : State} (hs : s.wf) :
    wfOut (execOffl a s) := by
  unfold execOffl
  with_reducible repeat' first | assumption | apply State.ecGo_wf

theorem execOnld_wf (a : EArgs) {s : State} (hs : s.wf) :
    wfOut (execOnld a s) := by
  unfold execOnld
  with_reducible repeat' first | assumption | apply State.ecGo_wf

theorem execPub_wf (a : EArgs) {s : State} (hs : s.wf) :
    wfOut (execPub a s) := by
  unfold execPub
  with_reducible repeat' first | assumption | apply State.ecGo_wf

theorem execPost_wf (a : EArgs) {s : State} (hs : s.wf) :
    wfOut (execPost a s) := by
  unfold execPost
  with_reducible repeat' first | assumption | apply State.ecGo_wf

theorem execXchg_wf (a : EArgs) {s : State} (hs : s.wf) :
    wfOut (execXchg a s) := by
  unfold execXchg
  with_reducible repeat' first | assumption | apply State.ecGo_wf

theorem execEsend_wf (a : EArgs) {s : State} (hs : s.wf) :
    wfOut (execEsend a s) := by
  unfold execEsend
  with_reducible repeat' first | assumption | apply State.ecGo_wf

theorem execDictld_wf (a : EArgs) {s : State} (hs : s.wf) :
    wfOut (execDictld a s) := by
  unfold execDictld
  with_reducible repeat' first | assumption | apply State.ecGo_wf

theorem execUnpick_wf (a : EArgs) {s : State} (hs : s.wf) :
    wfOut (execUnpick a s) := by
  unfold execUnpick
  with_reducible repeat' first | assumption | apply State.ecGo_wf

theorem execCkpt_wf (a : EArgs) {s : State} (hs : s.wf) :
    wfOut (execCkpt a s) := by
  unfold execCkpt
  with_reducible repeat' first | assumption | apply State.ecGo_wf

theorem execDrain_wf (a : EArgs) {s : State} (hs : s.wf) :
    wfOut (execDrain a s) := by
  unfold execDrain
  with_reducible repeat' first | assumption | apply State.ecGo_wf

theorem execTreeMake_wf (a : EArgs) {s : State} (hs : s.wf) :
    wfOut (execTreeMake a s) := by
  unfold execTreeMake
  with_reducible repeat' first | assumption | apply State.ecGo_wf

theorem execTreeFree_wf (a : EArgs) {s : State} (hs : s.wf) :
    wfOut (execTreeFree a s) := by
  unfold execTreeFree
  with_reducible repeat' first | assumption | apply State.ecGo_wf

theorem execTreeFreeze_wf (a : EArgs) {s : State} (hs : s.wf) :
    wfOut (execTreeFreeze a s) := by
  unfold execTreeFreeze
  with_reducible repeat' first | assumption | apply State.ecGo_wf

theorem execTreeSave_wf (a : EArgs) {s : State} (hs : s.wf) :
    wfOut (execTreeSave a s) := by
  unfold execTreeSave
  with_reducible repeat' first | assumption | apply State.ecGo_wf

theorem execTreeLoad_wf (a : EArgs) {s : State} (hs : s.wf) :
    wfOut (execTreeLoad a s) := by
  unfold execTreeLoad
  with_reducible repeat' first | assumption | apply State.ecGo_wf

theorem execTreeEdit_wf (a : EArgs) {s : State} (hs : s.wf) :
    wfOut (execTreeEdit a s) := by
  unfold execTreeEdit
  with_reducible repeat' first | assumption | apply State.ecGo_wf

theorem execTreeThaw_wf (a : EArgs) {s : State} (hs : s.wf) :
    wfOut (execTreeThaw a s) := by
  unfold execTreeThaw
  with_reducible repeat' first | assumption | apply State.ecGo_wf

theorem execTreeQuery_wf (a : EArgs) {s : State} (hs : s.wf) :
    wfOut (execTreeQuery a s) := by
  unfold execTreeQuery
  with_reducible repeat' first | assumption | apply State.ecGo_wf

theorem execWplan_wf (a : EArgs) {s : State} (hs : s.wf) :
    wfOut (execWplan a s) := by
  unfold execWplan
  with_reducible repeat' first | assumption | apply State.ecGo_wf

theorem execEtab_wf (a : EArgs) {s : State} (hs : s.wf) :
    wfOut (execEtab a s) := by
  unfold execEtab
  with_reducible repeat' first | assumption | apply State.ecGo_wf

theorem State.engRead_wf {s : State} (hs : s.wf) (x : W64) :
    (State.engRead s x).1.wf := by
  unfold State.engRead
  repeat' first
    | with_reducible assumption | with_reducible apply State.loadLocal_wf | with_reducible apply wfP_ite
    | with_reducible refine State.wf.mem ?_ | with_reducible refine State.wf.host ?_ | dsimp only | with_reducible apply wf_mk

theorem wf_etabRow {d : State × Row × Bool} (h : d.1.wf) (k : Nat) {p : State × Nat × Nat} (hp : p.1.wf) :
    (if d.2.2 then (d.1, 0x08, k) else if !(etOk d.2.1) then (d.1, 0x1C, k) else p).1.wf :=
  wfP_ite (wfP_mk h) (wfP_ite (wfP_mk h) hp)

theorem State.engReads_wf {s : State} (hs : s.wf) (z0 : List W64) :
    (State.engReads s z0).1.wf := by
  revert hs
  induction z0 generalizing s with
  | nil =>
    intros; unfold State.engReads
    with_reducible repeat' first | assumption
  | cons _ _ ih =>
    intros; unfold State.engReads
    with_reducible repeat' first | assumption | apply ih | apply State.engRead_wf

theorem State.readSpan_wf {s : State} (hs : s.wf) (a : Nat) (n : Nat) :
    (State.readSpan s a n).1.wf := by
  unfold State.readSpan
  with_reducible repeat' first | assumption | apply State.engReads_wf | intro _

theorem State.engWrite_wf {s : State} (hs : s.wf) (core : Nat) (c : EngCmd) (ext : List Extent) (vc : Nat) (x : W64) (r : Row) :
    wfOpt (State.engWrite s core c ext vc x r) := by
  unfold State.engWrite
  with_reducible repeat' first | assumption | apply State.storeLocal_wf | apply State.inject_wf | apply wfOpt_ite | apply wfOpt.some

theorem State.engWritePart_wf {s : State} (hs : s.wf) (core : Nat) (c : EngCmd) (ext : List Extent) (vc : Nat) (x : W64) (r : Row) (mask : Row) :
    wfOpt (State.engWritePart s core c ext vc x r mask) := by
  unfold State.engWritePart
  with_reducible repeat' first
    | assumption | apply State.storeLocal_wf | apply State.inject_wf | apply wf_ite | apply wfOpt_ite | apply wfOpt.some
    | apply wfOpt.none

theorem State.engWrites_wf {s : State} (hs : s.wf) (core : Nat) (c : EngCmd) (ext : List Extent) (vc : Nat) (pace : Bool) (z0 : List (W64 × Row)) :
    (State.engWrites s core c ext vc pace z0).st.wf := by
  match z0 with
  | [] => unfold State.engWrites; exact hs
  | [(x, r)] =>
    unfold State.engWrites
    split
    · exact hs
    · have h := State.engWrite_wf hs core c ext vc x r
      split <;> rename_i e
      · rw [e] at h; exact h
      · exact hs
  | (x, r) :: (y, q) :: rest =>
    unfold State.engWrites
    extract_lets f two
    split
    · exact hs
    · split
      · have h := State.inject_wf hs core (devOf x) f
        split <;> rename_i e
        · rw [e] at h; exact State.engWrites_wf h core c ext vc pace rest
        · exact hs
      · have h := State.engWrite_wf hs core c ext vc x r
        split <;> rename_i e
        · rw [e] at h; exact State.engWrites_wf h core c ext vc pace ((y, q) :: rest)
        · exact hs
termination_by z0.length

theorem State.takeHead_wf {s : State} (hs : s.wf) (n : Nat) (e : Eng) (key : Nat) (c : EngCmd) :
    (State.takeHead s n e key c).wf := by
  unfold State.takeHead
  with_reducible repeat' first
    | assumption | apply State.modCore_wf | apply State.modCtx_wf | intro _ | apply wf_putBytes | refine State.wf.mem ?_
    | refine State.wf.host ?_ | apply wf_mk

theorem State.argRow_wf {s : State} (hs : s.wf) (c : EngCmd) (has : Bool) (k : Nat) :
    (State.argRow s c has k).1.wf := by
  unfold State.argRow
  with_reducible repeat' first | assumption | apply State.engRead_wf | apply wfP_ite

theorem State.argRows_wf {s : State} (hs : s.wf) (c : EngCmd) :
    (State.argRows s c).1.wf := by
  unfold State.argRows
  with_reducible repeat' first | assumption | apply State.argRow_wf

theorem State.startWith_wf {s : State} (hs : s.wf) (c : EngCmd) (args : Row) (lnr : BitVec 2048) (bad : Bool) :
    (State.startWith s c args lnr bad).1.wf := by
  unfold State.startWith
  with_reducible repeat' first | assumption | apply State.loadPair_wf | apply wfP_ite | split

theorem State.startRun_wf {s : State} (hs : s.wf) (c : EngCmd) :
    (State.startRun s c).1.wf := by
  unfold State.startRun
  with_reducible repeat' first | assumption | apply State.argRows_wf | apply State.startWith_wf

theorem State.markIrrev_wf {s : State} (hs : s.wf) (c : EngCmd) :
    (State.markIrrev s c).wf := by
  unfold State.markIrrev
  with_reducible repeat' first | assumption | apply State.modCtx_wf | apply wf_ite

theorem State.walkLive_wf {s : State} (hs : s.wf) (n : Nest) (z0 : Nat) :
    (State.walkLive s n z0).1.wf := by
  revert hs
  induction z0 generalizing s n with
  | zero =>
    intros; unfold State.walkLive
    with_reducible repeat' first | assumption
  | succ _ ih =>
    intros; unfold State.walkLive
    with_reducible repeat' first | assumption | apply ih | apply State.liveRead_wf | split

theorem State.loadPair_wf {s : State} (hs : s.wf) (core : Nat) (r : RunCmd) :
    (State.loadPair s core r).1.wf := by
  unfold State.loadPair
  with_reducible repeat' first | assumption | apply State.engRead_wf | apply wfP_ite | split

theorem State.walkStep_wf {s : State} (hs : s.wf) (core : Nat) (e : Eng) (r : RunCmd) (n : Nest) :
    (State.walkStep s core e r n).wf := by
  unfold State.walkStep
  extract_lets l rows vc peer src dst put
  split
  · exact State.setEng_wf hs _ _ _
  · exact State.setEng_wf hs _ _ _
  · rename_i xs ys _ _
    have h := State.engReads_wf hs ((xs.drop r.prog).take 32)
    generalize s.engReads ((xs.drop r.prog).take 32) = d at h ⊢
    extract_lets _ w t prog u p
    have ht : t.wf := State.engWrites_wf h ..
    have hu : u.wf := wf_ite ht (State.post_wf ht _ _ _)
    exact wf_ite (State.setEng_wf h _ _ _) (wf_ite (State.setEng_wf ht _ _ _) (wf_ite (State.setEng_wf ht _ _ _)
      (wf_ite (State.setEng_wf ht _ _ _) (State.setEng_wf hu _ _ _))))
  · exact State.setEng_wf hs _ _ _

theorem State.pubRow_wf {s : State} (hs : s.wf) (core : Nat) (c : EngCmd) (x : W64) (row : Row) (seq : Nat) (h : Nat) (n : Nat) :
    (State.pubRow s core c x row seq h n).wf := by
  unfold State.pubRow
  with_reducible repeat' first | assumption | apply State.engWrite_wf | apply wf_ite | apply wf_getD

theorem State.doPub_wf {s : State} (hs : s.wf) (core : Nat) (c : EngCmd) (x : W64) (row : Row) (more : List W64) (h : Nat) (n : Nat) :
    (State.doPub s core c x row more h n).1.wf := by
  unfold State.doPub
  with_reducible repeat' first
    | assumption | apply State.pubRow_wf | apply State.engRead_wf | apply State.notePub_wf | apply State.setPub_wf
    | apply State.modCtx_wf | apply wf_ite | apply wfP_ite | apply wf_foldl | apply wf_foldlP | intro _ | apply wf_putBytes
    | refine State.wf.mem ?_ | refine State.wf.host ?_ | split | apply wf_mk

theorem State.pubAt_wf {s : State} (hs : s.wf) (core : Nat) (r : RunCmd) (a : EngRows) (more : List W64) (h : Option Nat) (n : Nat) :
    wfOptP (State.pubAt s core r a more h n) := by
  unfold State.pubAt
  with_reducible repeat' first
    | assumption | apply State.doPub_wf | apply State.engRead_wf | apply wf_ite | apply wfOptP_ite | apply wfOptP.some
    | apply wfOptP.none | split

/-! Collect -/

theorem State.treeFault_wf {s : State} (hs : s.wf) (c : EngCmd) (h : Nat) :
    (State.treeFault s c h).wf := by
  unfold State.treeFault
  with_reducible repeat' first | assumption | apply State.reportTask_wf

theorem State.postCheck_wf {s : State} (hs : s.wf) (core : Nat) (r : RunCmd) (e : BitVec 2048) (rec : Nat) :
    (State.postCheck s core r e rec).1.wf := by
  unfold State.postCheck
  with_reducible repeat' first | assumption | apply State.treeFault_wf | apply wfP_ite

theorem State.postStart_wf {s : State} (hs : s.wf) (core : Nat) (r : RunCmd) :
    (State.postStart s core r).1.wf := by
  unfold State.postStart
  with_reducible repeat' first | assumption | apply State.treeFault_wf | apply State.postCheck_wf | apply State.freed_wf | apply wfP_ite | split

theorem State.addPosted_wf {s : State} (hs : s.wf) (core : Nat) (e : Eng) (r : RunCmd) (seg : Nat) (st : Option Nat) :
    (State.addPosted s core e r seg st).wf := by
  unfold State.addPosted
  with_reducible repeat' first | assumption | refine State.wf.mem ?_ | refine State.wf.host ?_ | apply wf_mk

theorem State.setNext_wf {s : State} (hs : s.wf) (e : BitVec 2048) (m : Nat) (seg : Nat) :
    (State.setNext s e m seg).wf := by
  unfold State.setNext
  with_reducible repeat' first | assumption | apply State.putMem_wf

theorem State.postNext_wf {s : State} (hs : s.wf) (r : RunCmd) (t : BitVec 2048) (seg : Nat) : (State.postNext s r t seg).wf := by
  unfold State.postNext
  exact wf_ite (State.setNext_wf hs _ _ _) hs

theorem State.postSkip_wf {s : State} (hs : s.wf) (r : RunCmd) (t : BitVec 2048) (seg : Nat) :
    (State.postSkip s r t seg).1.wf := by
  unfold State.postSkip
  with_reducible repeat' first | assumption | apply State.postNext_wf

theorem State.postLate_wf {s : State} (hs : s.wf) (core : Nat) (r : RunCmd) (seg : Nat) :
    (State.postLate s core r seg).wf := by
  unfold State.postLate
  with_reducible repeat' first | assumption | apply State.sendLate_wf | split

theorem State.postSend_wf {s : State} (hs : s.wf) (core : Nat) (r : RunCmd) (f : Flit) :
    (State.postSend s core r f).wf := by
  unfold State.postSend
  with_reducible repeat' first | assumption | apply State.post_wf | apply State.inject_wf | apply wf_ite | apply wf_getD | split

theorem State.postGot_wf {s : State} (hs : s.wf) (core : Nat) (e : Eng) (r : RunCmd) (t : BitVec 2048) (seg : Nat) (row : Nat) (data : List Row) (bad : Bool) :
    (State.postGot s core e r t seg row data bad).1.wf := by
  unfold State.postGot
  with_reducible repeat' first
    | assumption | apply State.postSend_wf | apply State.postNext_wf | apply State.addPosted_wf | apply wf_ite | apply wfP_ite
    | intro _ | apply wf_putBytes | refine State.wf.mem ?_ | refine State.wf.host ?_ | apply wf_mk

theorem State.postData_wf {s : State} (hs : s.wf) (core : Nat) (e : Eng) (r : RunCmd) (t : BitVec 2048) (seg : Nat) (row : Nat) (rows : Nat) :
    (State.postData s core e r t seg row rows).1.wf := by
  unfold State.postData
  with_reducible repeat' first
    | assumption | apply State.postGot_wf | apply State.engReads_wf | apply wf_ite | apply wfP_ite | intro _

theorem State.postRowTo_wf {s : State} (hs : s.wf) (core : Nat) (e : Eng) (r : RunCmd) (t : BitVec 2048) :
    wfOptP (State.postRowTo s core e r t) := by
  unfold State.postRowTo
  with_reducible repeat' first
    | assumption | apply State.postData_wf | apply State.postLate_wf | apply State.postSkip_wf | apply State.addPosted_wf
    | apply wf_ite | apply wfOptP_ite | apply wfOptP.some | apply wfOptP.none | apply wf_putBytes | refine State.wf.mem ?_
    | refine State.wf.host ?_ | apply wf_mk

theorem State.postRowFar_wf {s : State} (hs : s.wf) (core : Nat) (e : Eng) (r : RunCmd) :
    wfOptP (State.postRowFar s core e r) := by
  unfold State.postRowFar
  with_reducible repeat' first
    | assumption | apply State.postData_wf | apply State.postLate_wf | apply State.postSkip_wf | apply State.addPosted_wf
    | apply wf_ite | apply wfOptP_ite | intro _ | apply wfOptP.some | apply wfOptP.none | apply wf_putBytes | refine State.wf.mem ?_
    | refine State.wf.host ?_ | apply wf_mk

theorem State.postRow_wf {s : State} (hs : s.wf) (core : Nat) (e : Eng) (r : RunCmd) :
    wfOptP (State.postRow s core e r) := by
  unfold State.postRow
  with_reducible repeat' first
    | assumption | apply State.addPosted_wf | apply State.postRowFar_wf | apply State.postRowTo_wf | apply wfOptP_ite | apply wfOptP.some | exact wfOptP.none | split

theorem State.postChunk_wf {s : State} (hs : s.wf) (core : Nat) (e : Eng) (r : RunCmd) (z0 : Nat) :
    (State.postChunk s core e r z0).wf := by
  revert hs
  induction z0 generalizing s core e r with
  | zero =>
    intros; unfold State.postChunk
    with_reducible repeat' first | assumption | apply State.setEng_wf
  | succ _ ih =>
    intros; unfold State.postChunk
    repeat' first
      | with_reducible assumption | with_reducible apply ih | with_reducible apply State.setEng_wf | with_reducible apply State.postRow_wf
      | with_reducible apply wf_ite | split | (refine wf_optPSome (by assumption) ?_)

theorem State.postEnd_wf {s : State} (hs : s.wf) (r : RunCmd) :
    wfOptP (State.postEnd s r) := by
  unfold State.postEnd
  repeat' first
    | with_reducible assumption | with_reducible apply State.reportTask_wf | with_reducible apply wf_ite | with_reducible apply wfOptP_ite
    | with_reducible apply wfOptP.some | with_reducible exact wfOptP.none | with_reducible refine State.wf.mem ?_
    | with_reducible refine State.wf.host ?_ | split | dsimp only | with_reducible apply wf_mk

theorem State.esendStart_wf {s : State} (hs : s.wf) (r : RunCmd) :
    (State.esendStart s r).1.wf := by
  unfold State.esendStart
  with_reducible repeat' first | assumption | apply State.modCtx_wf

theorem State.esendFlits_wf {s : State} (hs : s.wf) (core : Nat) (r : RunCmd) (rows : List Row) (z0 : Nat) :
    (State.esendFlits s core r rows z0).wf := by
  revert hs
  induction z0 generalizing s core r rows with
  | zero =>
    intros; unfold State.esendFlits
    with_reducible repeat' first | assumption
  | succ _ ih =>
    intros; unfold State.esendFlits
    with_reducible repeat' first | assumption | apply ih | apply State.post_wf

theorem State.esendChunk_wf {s : State} (hs : s.wf) (core : Nat) (r : RunCmd) :
    (State.esendChunk s core r).wf := by
  unfold State.esendChunk
  with_reducible repeat' first | assumption | apply State.engReads_wf | apply State.setEng_wf | apply State.esendFlits_wf | apply wf_ite

theorem State.esendEnd_wf {s : State} (hs : s.wf) (r : RunCmd) :
    wfOptP (State.esendEnd s r) := by
  unfold State.esendEnd
  with_reducible repeat' first | assumption | apply wfOptP_ite | apply wfOptP.some | exact wfOptP.none

theorem State.etabFrom_wf {s : State} (hs : s.wf) (die : Nat) (idx : Nat) (src : Nat) (k : Nat) (z0 : Nat) :
    (State.etabFrom s die idx src k z0).1.wf := by
  induction z0 generalizing s k with
  | zero => rw [State.etabFrom.eq_1]; exact hs
  | succ n ih =>
    rw [State.etabFrom.eq_2]
    have h := State.engRead_wf hs (s.here (src + 128 * k))
    generalize s.engRead (s.here (src + 128 * k)) = d at h ⊢
    exact wf_etabRow h k (ih (State.putEtab_wf h _ _ _) _)

theorem State.etabEnd_wf {s : State} (hs : s.wf) (r : RunCmd) :
    (State.etabEnd s r).1.wf := by
  unfold State.etabEnd
  with_reducible repeat' first | assumption | apply State.etabFrom_wf

theorem State.setShadow_wf {s : State} (hs : s.wf) (c : EngCmd) (id : Nat) (base : Nat) (n : Nat) :
    (State.setShadow s c id base n).wf := by
  unfold State.setShadow
  with_reducible repeat' first | assumption | apply State.modCtx_wf | apply State.putMem_wf | split

theorem State.dictEnd_wf {s : State} (hs : s.wf) (core : Nat) (r : RunCmd) :
    wfOptP (State.dictEnd s core r) := by
  unfold State.dictEnd
  with_reducible repeat' first
    | assumption | apply State.engReads_wf | apply State.writeEntries_wf | apply State.setShadow_wf | apply State.reportTask_wf
    | apply wfOptP_ite | apply wfOptP.some | exact wfOptP.none | split

theorem State.ckptRows_wf {s : State} (hs : s.wf) (core : Nat) (r : RunCmd) (v bytes : Nat) (k : Nat) (z0 : List W64) :
    wfOpt (State.ckptRows s core r v bytes k z0) := by
  induction z0 generalizing s k with
  | nil => unfold State.ckptRows; exact hs
  | cons x xs ih =>
    unfold State.ckptRows
    extract_lets left row
    have h : wfOpt (if left < 128 then s.engWritePart core r.c r.ext 0 x row (BitVec.ofNat 1024 (2 ^ (8 * left) - 1)) else s.engWrite core r.c r.ext 0 x row) :=
      wfOpt_ite (State.engWritePart_wf hs ..) (State.engWrite_wf hs ..)
    split <;> rename_i e
    · rw [e] at h; exact ih h _
    · trivial

theorem State.ckptEnd_wf {s : State} (hs : s.wf) (core : Nat) (r : RunCmd) :
    wfOptP (State.ckptEnd s core r) := by
  unfold State.ckptEnd
  extract_lets nstr bytes t curs tab u crc
  split
  · exact hs
  · trivial
  · rename_i xs _
    have ht : t.wf := by
      show State.wf (match s.cmdCtx r.c with | some n => _ | none => _)
      split
      · exact wf_ite (State.putMem_wf hs _ _ _) hs
      · exact hs
    have hc : curs.1.wf := wf_foldlP ht fun q a hq => by
      dsimp only
      split
      · exact State.syRead_wf hq _
      · exact hq
    have hu : u.wf := State.readSpan_wf hc _ _
    refine wfOptP_ite hu ?_
    have h := State.ckptRows_wf hu core r (u.ckptRec r crc) bytes 0 (by assumption)
    split
    · rename_i e; rw [e] at h; exact h
    · exact hu

theorem State.drainGo_wf {s : State} (hs : s.wf) (core : Nat) (r : RunCmd) :
    (State.drainGo s core r).wf := by
  unfold State.drainGo
  with_reducible repeat' first | assumption | apply State.sendMarker_wf | apply State.setEng_wf | apply wf_ite | apply wf_foldl | intro _

theorem State.drainEnd_wf {s : State} (hs : s.wf) (r : RunCmd) :
    wfOptP (State.drainEnd s r) := by
  unfold State.drainEnd
  with_reducible repeat' first | assumption | apply wfOptP_ite | apply wfOptP.some | exact wfOptP.none

/-! Offload -/

theorem State.poolAdd_wf {s : State} (hs : s.wf) (a : W64) (n : Nat) :
    (State.poolAdd s a n).1.wf := by
  unfold State.poolAdd
  with_reducible repeat' first | assumption | apply State.syAtom_wf | apply State.freshWord_wf | apply wf_ite | apply wfP_ite

theorem State.putEntry_wf {s : State} (hs : s.wf) (core : Nat) (r : RunCmd) (x : W64) (t : Nat) (v : Nat) :
    wfOpt (State.putEntry s core r x t v) := by
  unfold State.putEntry
  with_reducible repeat' first | assumption | apply State.engWritePart_wf | apply wfOpt.some | apply wfOpt.none

theorem State.offlEntry_wf {s : State} (hs : s.wf) (core : Nat) (r : RunCmd) (n : Nest) (ent : W64) (v : Nat) :
    (State.offlEntry s core r n ent v).wf := by
  unfold State.offlEntry
  repeat' first
    | with_reducible assumption | with_reducible apply State.setEng_wf | with_reducible apply State.putEntry_wf | split
    | (refine wf_optSome (by assumption) ?_)

theorem State.offlStep_wf {s : State} (hs : s.wf) (core : Nat) (r : RunCmd) (n : Nest) :
    (State.offlStep s core r n).wf := by
  unfold State.offlStep
  extract_lets l bytes t slot put stop wait
  split
  · exact State.setEng_wf hs _ _ _
  · exact State.setEng_wf hs _ _ _
  · rename_i xs ent _ _
    have h := State.engReads_wf hs xs
    generalize s.engReads xs = d at h ⊢
    extract_lets _ b ns passed al r' v
    split
    · exact wf_ite hs (State.offlEntry_wf hs _ _ _ _ _)
    · refine wf_ite (State.setEng_wf h _ _ _) ?_
      split
      · exact State.setEng_wf h _ _ _
      · exact State.setEng_wf hs _ _ _
      · have ha : al.1.wf := wfP_ite (wfP_mk h) (wfP_ite (wfP_mk h) (State.poolAdd_wf h _ _))
        refine wf_ite (State.setEng_wf ha _ _ _) (wf_ite (State.setEng_wf ha _ _ _) ?_)
        split
        · exact State.setEng_wf ha _ _ _
        · exact State.setEng_wf ha _ _ _
        · extract_lets rows w u
          have hu : u.wf := State.engWrites_wf ha ..
          exact wf_ite (State.setEng_wf hu _ _ _) (wf_ite (State.setEng_wf hu _ _ _) (State.offlEntry_wf hu _ _ _ _ _))
  · exact State.setEng_wf hs _ _ _

theorem State.onldStep_wf {s : State} (hs : s.wf) (core : Nat) (r : RunCmd) (n : Nest) :
    (State.onldStep s core r n).wf := by
  unfold State.onldStep
  with_reducible repeat' first
    | assumption | apply State.engWrites_wf | apply State.engReads_wf | apply State.engRead_wf | apply State.setEng_wf | apply wf_ite
    | intro _ | apply wf_putBytes | refine State.wf.mem ?_ | refine State.wf.host ?_ | split | apply wf_mk

/-! TreeCmds -/

theorem State.installSeams_wf {s : State} (hs : s.wf) (part : Nat) (h : W32) (r : List Placed) (f : Nat → Placed → Seam) :
    (State.installSeams s part h r f).wf := by
  unfold State.installSeams
  with_reducible repeat' first | assumption | apply State.setWin_wf | apply State.putSeam_wf | apply wf_ite | apply wf_foldl | intro _ | split

theorem State.copyMembers_wf {s : State} (hs : s.wf) (src : Nat) (dst : Nat) (z0 : Nat) :
    (State.copyMembers s src dst z0).wf := by
  revert hs
  induction z0 generalizing s src dst with
  | zero =>
    intros; unfold State.copyMembers
    with_reducible repeat' first | assumption
  | succ _ ih =>
    intros; unfold State.copyMembers
    with_reducible repeat' first | assumption | apply ih | apply State.putMem_wf

theorem State.treeMake_wf {s : State} (hs : s.wf) (r : RunCmd) :
    (State.treeMake s r).1.wf := by
  unfold State.treeMake
  with_reducible repeat' first
    | assumption | apply State.copyMembers_wf | apply State.installSeams_wf | apply State.readSpan_wf | apply State.putRoute_wf
    | apply State.putMem_wf | apply wf_ite | apply wfP_ite | intro _ | split

theorem State.treeFreeze_wf {s : State} (hs : s.wf) (part : Nat) (h : W32) :
    (State.treeFreeze s part h).wf := by
  unfold State.treeFreeze
  with_reducible repeat' first | assumption | apply State.putTt_wf | apply State.putSeam_wf | apply wf_foldl | intro _

theorem State.thawSeam_wf {s : State} (hs : s.wf) (x : Seam) :
    (State.thawSeam s x).wf := by
  unfold State.thawSeam
  repeat' first
    | with_reducible assumption | with_reducible apply State.putSeam_wf | with_reducible apply State.extend_wf
    | with_reducible apply State.sendSeam_wf | with_reducible apply State.foldSeam_wf | split | dsimp only

theorem State.treeThaw_wf {s : State} (hs : s.wf) (part : Nat) (h : W32) :
    (State.treeThaw s part h).wf := by
  unfold State.treeThaw
  with_reducible repeat' first | assumption | apply State.putTt_wf | apply State.thawSeam_wf | apply wf_ite | apply wf_foldl | intro _ | split

theorem State.saveSeam_wf {s : State} (hs : s.wf) (e : BitVec 2048) (a : Nat) (x : Seam) :
    (State.saveSeam s e a x).wf := by
  unfold State.saveSeam
  with_reducible repeat' first | assumption | apply State.putRow_wf | apply State.putRows_wf

theorem State.treeSave_wf {s : State} (hs : s.wf) (part : Nat) (h : W32) (e : BitVec 2048) :
    (State.treeSave s part h e).wf := by
  unfold State.treeSave
  with_reducible repeat' first
    | assumption | apply State.freed_wf | apply State.saveSeam_wf | apply State.putRows_wf | apply State.putTt_wf | apply State.releaseTree_wf | apply wf_foldl
    | intro _ | split

theorem State.takeSlots_wf {s : State} (hs : s.wf) (part : Nat) (h : W32) : (State.takeSlots s part h).wf := by
  unfold State.takeSlots
  refine wf_foldl hs fun t x ht => wf_ite ht ?_
  have h := State.claimSlot_wf ht x.place
  split <;> rename_i e
  · rw [e] at h; exact State.putSeam_wf h _
  · exact ht

theorem State.reroute_wf {s : State} (hs : s.wf) (part : Nat) (h : W32) (e : BitVec 2048) (seg : Nat) :
    (State.reroute s part h e seg).wf := by
  unfold State.reroute
  with_reducible repeat' first
    | assumption | apply State.putRoute_wf | apply State.putTt_wf | apply State.putSeam_wf | apply State.openPending_wf | apply wf_ite
    | apply wf_foldl | intro _ | split

theorem State.rework_wf {s : State} (hs : s.wf) (part : Nat) (h : W32) (seg : Nat) (place : Nat) :
    (State.rework s part h seg place).wf := by
  unfold State.rework
  with_reducible repeat' first
    | assumption | apply State.putSeam_wf | apply wf_ite | apply wf_foldl | apply wf_foldlP | intro _ | apply wf_putBytes
    | refine State.wf.mem ?_ | refine State.wf.host ?_ | split | apply wf_mk

theorem State.retract_wf {s : State} (hs : s.wf) (part : Nat) (h : W32) (m seg : Nat) :
    (State.retract s part h m seg).wf := by
  unfold State.retract
  extract_lets places order t u
  have ht : t.wf := wf_foldl hs fun t p ht => State.rework_wf ht ..
  have hu : u.wf := wf_foldl ht fun t p ht => wf_ite (State.notify_wf ht ..) ht
  refine wf_foldl hu fun t p ht => ?_
  split
  · exact wf_ite (State.foldSeam_wf ht _) ht
  · exact ht

theorem State.addEdit_wf {s : State} (hs : s.wf) (e : BitVec 2048) (m : Nat) (remove : Bool) (seg : Nat) :
    (State.addEdit s e m remove seg).wf := by
  unfold State.addEdit
  with_reducible repeat' first | assumption | apply State.putMem_wf

theorem State.treeEdit_wf {s : State} (hs : s.wf) (r : RunCmd) (part : Nat) (h : W32) (e : BitVec 2048) :
    (State.treeEdit s r part h e).1.wf := by
  unfold State.treeEdit
  with_reducible repeat' first
    | assumption | apply State.addEdit_wf | apply State.retract_wf | apply State.reroute_wf | apply State.setNext_wf
    | apply State.readSpan_wf | apply State.dropTree_wf | apply State.putTt_wf | apply State.putMem_wf | apply wf_ite | apply wfP_ite

theorem State.treeLoad_wf {s : State} (hs : s.wf) (r : RunCmd) (part : Nat) (h : W32) (e : BitVec 2048) :
    (State.treeLoad s r part h e).1.wf := by
  unfold State.treeLoad
  extract_lets old base new i t u e'
  have hu : u.wf := State.takeSlots_wf (State.installSeams_wf (State.putTt_wf (State.putTt_wf (State.dropTree_wf hs _ _) ..) ..) ..) _ _
  exact wfP_ite hs (wfP_ite hs (wfP_ite hs (wf_ite (State.reroute_wf hu ..) hu)))

theorem State.treeCmd_wf {s : State} (hs : s.wf) (core : Nat) (r : RunCmd) :
    (State.treeCmd s core r).1.wf := by
  unfold State.treeCmd
  with_reducible repeat' first
    | assumption | apply State.treeMake_wf | apply State.endPosts_wf | apply State.releaseTree_wf | apply State.putTt_wf
    | apply State.treeFreeze_wf | apply State.treeSave_wf | apply State.treeLoad_wf | apply State.treeEdit_wf | apply State.treeThaw_wf
    | apply State.putRows_wf | apply State.putRow_wf | apply wfP_ite | split

/-! Wplan -/

theorem State.setWplanst_wf {s : State} (hs : s.wf) (id : W64) (st : Nat) :
    (State.setWplanst s id st).wf := by
  unfold State.setWplanst
  with_reducible repeat' first | assumption | apply State.setReg_wf

theorem State.drainAll_wf {s : State} (hs : s.wf) :
    (State.drainAll s).wf := by
  unfold State.drainAll
  with_reducible repeat' first | assumption | apply State.sendMarker_wf | apply wf_foldl | intro _

theorem State.wplanGot_wf {s : State} (hs : s.wf) (core : Nat) (r : RunCmd) (x : Nat) (bad : Bool) :
    (State.wplanGot s core r x bad).1.wf := by
  unfold State.wplanGot
  repeat' first
    | with_reducible assumption | with_reducible apply State.setWplanst_wf | with_reducible apply State.drainAll_wf
    | with_reducible apply wfP_ite | with_reducible refine State.wf.mem ?_ | with_reducible refine State.wf.host ?_ | dsimp only
    | with_reducible apply wf_mk

theorem State.wplanStart_wf {s : State} (hs : s.wf) (core : Nat) (r : RunCmd) : (State.wplanStart s core r).1.wf := by
  have e : s.wplanStart core r = if s.wp.isSome then (s, { r with status := some 0x19 }) else
      (s.engReads ((List.range 5).map fun k => s.here (devAddr (aF r 0x10 8) / 128 * 128 + 128 * k))).1.wplanGot core r
        (packRegs 1024 (fun i => ((s.engReads ((List.range 5).map fun k => s.here (devAddr (aF r 0x10 8) / 128 * 128 + 128 * k))).2.1.getD i 0).toNat) 5)
        (s.engReads ((List.range 5).map fun k => s.here (devAddr (aF r 0x10 8) / 128 * 128 + 128 * k))).2.2 := rfl
  rw [e]
  exact wfP_ite hs (State.wplanGot_wf (State.engReads_wf hs _) _ _ _ _)

theorem State.goDark_wf {s : State} (hs : s.wf) (w : WpRun) : (State.goDark s w).wf := by
  unfold State.goDark
  refine State.setWplanst_wf ?_ _ _
  have h1 := wf_foldl (f := fun (s : State) i =>
    let s := if fibreChanges s.planTx w.tx (i / 8) then s.setTx i { s.tx i with locked := false } else s
    if fibreChanges s.planRx w.rx (i / 8) then s.setRx i { s.rx i with locked := false } else s) (l := List.range 256) hs fun t i ht =>
      wf_ite (State.setRx_wf (wf_ite (State.setTx_wf ht _ _) ht) _ _) (wf_ite (State.setTx_wf ht _ _) ht)
  exact wf_mk h1.mem h1.host

theorem execWplanDrainDone_wf {s : State} (hs : s.wf) :
    wfOut (execWplanDrainDone s) := by
  unfold execWplanDrainDone
  with_reducible repeat' first | assumption | apply State.goDark_wf | apply wf_ite | apply wfOut.next | split

theorem execRetuneLatchTimeout_wf {s : State} (hs : s.wf) :
    wfOut (execRetuneLatchTimeout s) := by
  unfold execRetuneLatchTimeout
  with_reducible repeat' first | assumption | apply wf_ite | apply wfOut.next | refine State.wf.mem ?_ | refine State.wf.host ?_ | split | apply wf_mk

theorem State.relockOver_wf {s : State} (hs : s.wf) (w : WpRun) :
    (State.relockOver s w).wf := by
  unfold State.relockOver
  with_reducible repeat' first | assumption | apply State.post_wf | apply wf_ite

theorem execDarkIntervalEnd_wf {s : State} (hs : s.wf) :
    wfOut (execDarkIntervalEnd s) := by
  unfold execDarkIntervalEnd
  with_reducible repeat' first
    | assumption | apply State.setWplanst_wf | apply State.relockOver_wf | apply wfOut.next | apply wfOut_ite | refine State.wf.mem ?_
    | refine State.wf.host ?_ | split | apply wf_mk

theorem execRelockTimeout_wf {s : State} (hs : s.wf) :
    wfOut (execRelockTimeout s) := by
  unfold execRelockTimeout
  with_reducible repeat' first | assumption | apply State.post_wf | apply wf_ite | apply wfOut.next | split

theorem State.lockTx_wf {s : State} (hs : s.wf) (i : Nat) (changed : Bool) (allow : List Nat) :
    (State.lockTx s i changed allow).wf := by
  unfold State.lockTx
  with_reducible repeat' first | assumption | apply State.setTx_wf

theorem State.lockRx_wf {s : State} (hs : s.wf) (i : Nat) (changed : Bool) :
    (State.lockRx s i changed).wf := by
  unfold State.lockRx
  with_reducible repeat' first | assumption | apply State.setRx_wf

theorem execSlotLock_wf (slot : Nat) (allow : List Nat) {s : State} (hs : s.wf) :
    wfOut (execSlotLock slot allow s) := by
  unfold execSlotLock
  with_reducible repeat' first
    | assumption | apply State.lockTx_wf | apply State.relockOver_wf | apply State.lockRx_wf | apply wfOut.next | apply wfOut_ite | split

theorem State.clearTxQueues_wf {s : State} (hs : s.wf) :
    (State.clearTxQueues s).wf := by
  unfold State.clearTxQueues
  with_reducible repeat' first | assumption | apply State.setTx_wf | apply wf_foldl | intro _

theorem State.relink_wf {s : State} (hs : s.wf) (peer : Nat → Nat) :
    (State.relink s peer).wf := by
  unfold State.relink
  repeat' first
    | with_reducible assumption | with_reducible apply State.discard_wf | with_reducible apply wf_foldl
    | with_reducible refine State.wf.mem ?_ | with_reducible refine State.wf.host ?_ | intro _ | dsimp only | with_reducible apply wf_mk

theorem State.installPlan_wf {s : State} (hs : s.wf) (w : WpRun) :
    (State.installPlan s w).wf := by
  unfold State.installPlan
  with_reducible repeat' first | assumption | apply State.setWplanst_wf | refine State.wf.mem ?_ | refine State.wf.host ?_ | apply wf_mk

theorem State.requeueAll_wf {s : State} (hs : s.wf) (queued : List (Nat × Flit)) (peer : Nat → Nat) :
    (State.requeueAll s queued peer).wf := by
  unfold State.requeueAll
  with_reducible repeat' first
    | assumption | apply State.toSlot_wf | apply State.discard_wf | apply State.relink_wf | apply wf_foldl | intro _ | split

theorem State.checkHeld_wf {s : State} (hs : s.wf) :
    (State.checkHeld s).wf := by
  unfold State.checkHeld
  with_reducible repeat' first
    | assumption | apply State.discard_wf | apply wf_foldl | apply wf_foldlP | intro _ | apply wf_putBytes | refine State.wf.mem ?_
    | refine State.wf.host ?_ | split | apply wf_mk

theorem State.checkQueued_wf {s : State} (hs : s.wf) :
    (State.checkQueued s).wf := by
  unfold State.checkQueued
  with_reducible repeat' first
    | assumption | apply State.checkHeld_wf | apply State.discard_wf | apply State.setTx_wf | apply wf_ite | apply wf_foldl
    | apply wf_foldlP | intro _ | apply wf_putBytes | refine State.wf.mem ?_ | refine State.wf.host ?_ | apply wf_mk

/-! Recovery -/

theorem State.setRecctl_wf {s : State} (hs : s.wf) (st : Nat) (skew : Nat) :
    (State.setRecctl s st skew).wf := by
  unfold State.setRecctl
  with_reducible repeat' first | assumption | apply State.setReg_wf

theorem State.putStream_wf {s : State} (hs : s.wf) (x : Nat) (skews : List (Nat × W64)) (n : Nat) :
    (State.putStream s x skews n).1.wf := by
  unfold State.putStream
  with_reducible repeat' first | assumption | apply State.putMem_wf

theorem State.unskew_wf {s : State} (hs : s.wf) (p : Nat × W64) : (State.unskew s p).wf := by
  unfold State.unskew
  repeat' first
    | with_reducible assumption | with_reducible apply State.putMem_wf | with_reducible apply wf_ite | with_reducible refine State.wf.mem ?_
    | with_reducible refine State.wf.host ?_ | dsimp only | with_reducible apply wf_mk

theorem State.putCursor_wf {s : State} (hs : s.wf) (a : W64) (v : W64) :
    (State.putCursor s a v).wf := by
  unfold State.putCursor
  with_reducible repeat' first | assumption | apply State.syStore_wf | apply State.sendCtl_wf | apply wf_ite

theorem State.reconcile_wf {s : State} (hs : s.wf) (x n : Nat) : (State.reconcile s x n).wf := by
  have h : ((List.range (min 16 (bitsOf x 192 16))).foldl (fun s k =>
      s.putCursor (BitVec.ofNat 64 (bitsOf x (512 + 64 * k) 64)) (BitVec.ofNat 64 (bitsOf x (1536 + 64 * k) 64)))
      ((List.range n).foldl (fun (a : State × List (Nat × W64)) k => a.1.putStream x a.2 k) (s, [])).1).wf := by
    with_reducible repeat' first
      | assumption | apply State.putStream_wf | apply State.putCursor_wf | apply wf_foldl | apply wf_foldlP | intro _
  unfold State.reconcile
  exact wf_ite (State.setRecctl_wf h 0 0) (State.setReg_wf (wf_mk h.mem h.host) _ _)

theorem execRecctlGo_wf {s : State} (hs : s.wf) :
    wfOut (execRecctlGo s) := by
  unfold execRecctlGo
  have h : (s.dev.recon.foldl State.unskew s).wf := wf_foldl hs fun _ _ ht => State.unskew_wf ht _
  refine wfOut_ite ?_ (wfOut.next (State.setRecctl_wf (wf_mk h.mem h.host) _ _))
  with_reducible repeat' first
    | assumption | apply State.engReads_wf | apply State.setRecctl_wf | apply State.reconcile_wf | apply wf_ite | apply wfOut.next

theorem State.setPg_wf {s : State} (hs : s.wf) (g : Nat) (off : Nat) (n : Nat) (v : Nat) :
    (State.setPg s g off n v).wf := by
  unfold State.setPg
  with_reducible repeat' first | assumption | apply State.putMem_wf

theorem State.setPgctl_wf {s : State} (hs : s.wf) (st : Nat) :
    (State.setPgctl s st).wf := by
  unfold State.setPgctl
  with_reducible repeat' first | assumption | apply State.setReg_wf

theorem State.pgChecked_wf {s : State} (hs : s.wf) :
    (State.pgChecked s).wf := by
  unfold State.pgChecked
  with_reducible repeat' first | assumption | apply State.setReg_wf

theorem State.pgLost_wf {s : State} (hs : s.wf) (g : Nat) :
    (State.pgLost s g).wf := by
  unfold State.pgLost
  repeat' first
    | with_reducible assumption | with_reducible apply State.setPg_wf | with_reducible apply State.endTasks_wf
    | with_reducible apply State.finishCmd_wf | with_reducible apply wf_foldl | with_reducible refine State.wf.mem ?_
    | with_reducible refine State.wf.host ?_ | intro _ | dsimp only | with_reducible apply wf_mk

theorem State.setFill_wf {s : State} (hs : s.wf) (g : Nat) (f : Fill) : (State.setFill s g f).wf :=
  State.setPg_wf (wf_mk hs.mem hs.host) _ _ _ _

theorem State.fillFrom0_wf {s : State} (hs : s.wf) (g j : Nat) : (State.fillFrom0 s g j).wf := State.setFill_wf hs _ _

theorem State.pgFill_wf {s : State} (hs : s.wf) (g : Nat) :
    (State.pgFill s g).wf := by
  unfold State.pgFill
  repeat' first
    | with_reducible assumption | with_reducible apply State.fillFrom0_wf | with_reducible apply State.pgLost_wf
    | with_reducible apply State.setPgctl_wf | split

theorem execSeal_wf {s : State} (hs : s.wf) :
    wfOut (execSeal s) := by
  unfold execSeal
  with_reducible repeat' first
    | assumption | apply State.pgChecked_wf | apply State.setPgctl_wf | apply State.setPg_wf | apply wf_ite | apply wfOut_ite
    | apply wfOut.next | apply wfOut.fault | apply wfOut.refused

theorem execLost_wf {s : State} (hs : s.wf) :
    wfOut (execLost s) := by
  unfold execLost
  with_reducible repeat' first
    | assumption | apply State.pgFill_wf | apply State.pgLost_wf | apply State.pgChecked_wf | apply State.setPgctl_wf
    | apply State.setPg_wf | apply wf_ite | apply wfOut_ite | apply wfOut.next | apply wfOut.fault | apply wfOut.refused | split

theorem State.pgXor_wf {s : State} (hs : s.wf) (g : Nat) (r : Nat) (z0 : List Nat) :
    (State.pgXor s g r z0).1.wf := by
  revert hs
  induction z0 generalizing s g r with
  | nil =>
    intros; unfold State.pgXor
    with_reducible repeat' first | assumption
  | cons _ _ ih =>
    intros; unfold State.pgXor
    with_reducible repeat' first | assumption | apply ih | apply State.engRead_wf

theorem State.pgPut_wf {s : State} (hs : s.wf) (x : W64) (row : Row) (poison : Bool) :
    (State.pgPut s x row poison).wf := by
  unfold State.pgPut
  with_reducible repeat' first | assumption | apply State.storeLocal_wf | apply State.sendCtl_wf | apply wf_ite

theorem State.pgRows_wf {s : State} (hs : s.wf) (g : Nat) (dst : W64) (members : List Nat) (k z0 : Nat) :
    (State.pgRows s g dst members k z0).wf := by
  revert hs
  induction z0 generalizing s g dst members k with
  | zero =>
    intros; unfold State.pgRows
    with_reducible repeat' first | assumption
  | succ _ ih =>
    intros; unfold State.pgRows
    with_reducible repeat' first | assumption | apply ih | apply State.pgXor_wf | apply State.pgPut_wf

theorem execSealComplete_wf {s : State} (hs : s.wf) :
    wfOut (execSealComplete s) := by
  unfold execSealComplete
  with_reducible repeat' first
    | assumption | apply State.pgRows_wf | apply State.freshWord_wf | apply State.setPg_wf | apply wf_ite | apply wfOut.next

theorem State.fillEnd_wf {s : State} (hs : s.wf) (g : Nat) (f : Fill) : (State.fillEnd s g f).wf := by
  unfold State.fillEnd
  repeat' first
    | with_reducible assumption | with_reducible apply State.setPg_wf | with_reducible refine State.wf.mem ?_ | with_reducible refine State.wf.host ?_
    | dsimp only | with_reducible apply wf_mk

theorem execParityFillComplete_wf {s : State} (hs : s.wf) :
    wfOut (execParityFillComplete s) := by
  unfold execParityFillComplete
  repeat' first
    | with_reducible assumption | with_reducible apply State.pgRows_wf | with_reducible apply State.setFill_wf
    | with_reducible apply State.fillFrom0_wf | with_reducible apply State.fillEnd_wf | with_reducible apply wf_ite
    | with_reducible apply wfOut.next | split | dsimp only

theorem State.pgEvent_wf {s : State} (hs : s.wf) (gone : Nat → Bool) (chan : Nat → Bool) :
    (State.pgEvent s gone chan).wf := by
  unfold State.pgEvent
  with_reducible repeat' first
    | assumption | apply State.pgLost_wf | apply State.setPgctl_wf | apply State.pgFill_wf | apply State.fillFrom0_wf | apply wf_ite
    | apply wf_foldl | intro _

/-! ResetMap -/

theorem State.afterReset_wf {s : State} (hs : s.wf) : (State.afterReset s).wf := wf_mk rfl hs.host

theorem execColdReset_wf {s : State} (hs : s.wf) :
    wfOut (execColdReset s) := by
  unfold execColdReset
  with_reducible repeat' first | assumption | apply State.afterReset_wf | apply wfOut.next

theorem execWarmReset_wf {s : State} (hs : s.wf) : wfOut (execWarmReset s) := by
  unfold execWarmReset
  exact wf_mk (wf_between hs.mem) (State.afterReset_wf hs).host

theorem execImageCheck_wf {s : State} (hs : s.wf) :
    wfOut (execImageCheck s) := by
  unfold execImageCheck
  repeat' first
    | with_reducible assumption | with_reducible apply wf_ite | with_reducible apply wfOut.next | with_reducible refine State.wf.mem ?_
    | with_reducible refine State.wf.host ?_ | dsimp only | with_reducible apply wf_mk

theorem execNewImageAccept_wf (img : Image) {s : State} (hs : s.wf) :
    wfOut (execNewImageAccept img s) := by
  unfold execNewImageAccept
  repeat' first
    | with_reducible assumption | with_reducible apply wf_ite | with_reducible apply wfOut.next | with_reducible refine State.wf.mem ?_
    | with_reducible refine State.wf.host ?_ | dsimp only | with_reducible apply wf_mk

theorem execArrayTest_wf (fails : List ArrayFail) {s : State} (hs : s.wf) :
    wfOut (execArrayTest fails s) := by
  unfold execArrayTest
  repeat' first
    | with_reducible assumption | with_reducible apply wf_ite | with_reducible apply wfOut.next | with_reducible refine State.wf.mem ?_
    | with_reducible refine State.wf.host ?_ | dsimp only | with_reducible apply wf_mk

theorem execCoreSelfTest_wf (failed : List Nat) {s : State} (hs : s.wf) :
    wfOut (execCoreSelfTest failed s) := by
  unfold execCoreSelfTest
  repeat' first
    | with_reducible assumption | with_reducible apply wf_ite | with_reducible apply wfOut.next | with_reducible refine State.wf.mem ?_
    | with_reducible refine State.wf.host ?_ | dsimp only | with_reducible apply wf_mk

theorem execMemoryTest_wf (r : MemTest) {s : State} (hs : s.wf) :
    wfOut (execMemoryTest r s) := by
  unfold execMemoryTest
  repeat' first
    | with_reducible assumption | with_reducible apply wf_ite | with_reducible apply wfOut.next | with_reducible refine State.wf.mem ?_
    | with_reducible refine State.wf.host ?_ | dsimp only | with_reducible apply wf_mk

theorem State.publish_wf {s : State} (hs : s.wf) (cause : Nat) :
    (State.publish s cause).wf := by
  unfold State.publish
  repeat' first
    | with_reducible assumption | with_reducible apply State.setReg_wf | with_reducible refine State.wf.mem ?_
    | with_reducible refine State.wf.host ?_ | dsimp only | with_reducible apply wf_mk

theorem State.postCutOff_wf {s : State} (hs : s.wf) :
    (State.postCutOff s).wf := by
  unfold State.postCutOff
  with_reducible repeat' first | assumption | apply State.post_wf | apply wf_foldl | intro _

theorem execLinkBringup_wf (r : LinkTest) {s : State} (hs : s.wf) : wfOut (execLinkBringup r s) := by
  unfold execLinkBringup
  refine wfOut_ite hs ?_
  extract_lets ok tx s1 rx s2 d1 m1 s3 m2 s4 up d2 s5
  have h1 : s1.wf := wf_ite (wf_foldl hs fun t i ht => State.setTx_wf ht _ _) hs
  have h2 : s2.wf := wf_ite (wf_foldl h1 fun t i ht => State.setRx_wf ht _ _) h1
  have h3 : s3.wf := wf_mk h2.mem h2.host
  have h4 : s4.wf := State.publish_wf (wf_mk h3.mem h3.host) _
  exact wfOut.next (wf_ite (State.postCutOff_wf (wf_mk h4.mem h4.host)) (wf_mk h4.mem h4.host))

theorem execPowerMeasurement_wf (watts : List Nat) {s : State} (hs : s.wf) :
    wfOut (execPowerMeasurement watts s) := by
  unfold execPowerMeasurement
  repeat' first
    | with_reducible assumption | with_reducible apply State.post_wf | with_reducible apply wfOut.next | with_reducible apply wfOut_ite
    | with_reducible refine State.wf.mem ?_ | with_reducible refine State.wf.host ?_ | split | dsimp only | with_reducible apply wf_mk

theorem execThermalLimit_wf {s : State} (hs : s.wf) :
    wfOut (execThermalLimit s) := by
  unfold execThermalLimit
  with_reducible repeat' first | assumption | apply State.post_wf | apply wfOut.next | apply wfOut_ite

theorem State.takeFirst_wf {s : State} (hs : s.wf) (r : MapReport) : (s.takeFirst r).2.wf := hs

theorem State.closeSlots_wf {s : State} (hs : s.wf) (old : ResMap) :
    (State.closeSlots s old).wf := by
  unfold State.closeSlots
  with_reducible repeat' first
    | assumption | apply State.vacate_wf | apply State.setRx_wf | apply wf_ite | apply wf_foldl | apply wf_foldlP | intro _
    | apply wf_putBytes | refine State.wf.mem ?_ | refine State.wf.host ?_ | apply wf_mk

theorem State.stopCores_wf {s : State} (hs : s.wf) (old : ResMap) :
    (State.stopCores s old).wf := by
  unfold State.stopCores
  with_reducible repeat' first | assumption | refine State.wf.mem ?_ | refine State.wf.host ?_ | apply wf_mk

theorem State.postPeers_wf {s : State} (hs : s.wf) :
    (State.postPeers s).wf := by
  unfold State.postPeers
  with_reducible repeat' first | assumption | apply State.post_wf | apply wf_ite

theorem State.afterMap_wf {s : State} (hs : s.wf) (old : ResMap) :
    (State.afterMap s old).wf := by
  unfold State.afterMap
  with_reducible repeat' first
    | assumption | apply State.postPeers_wf | apply State.stopCores_wf | apply State.closeSlots_wf | apply State.postCutOff_wf
    | apply State.pgEvent_wf | apply State.checkQueued_wf | apply State.voidRings_wf | apply State.breakTrees_wf
    | apply State.rerun_wf | apply wf_ite | apply wf_foldl | apply wf_foldlP | intro _

theorem State.mapReport_wf {s : State} (hs : s.wf) (r : MapReport) :
    (State.mapReport s r).wf := by
  unfold State.mapReport
  repeat' first
    | with_reducible assumption | with_reducible apply State.setTx_wf | with_reducible apply State.publish_wf
    | with_reducible apply State.afterMap_wf | with_reducible apply wf_ite | with_reducible refine State.wf.mem ?_
    | with_reducible refine State.wf.host ?_ | split | dsimp only | with_reducible apply wf_mk

theorem State.planReport_wf {s : State} (hs : s.wf) (w : WpRun) : (State.planReport s w).wf := by
  unfold State.planReport
  extract_lets queued peer t src m t2
  have h1 : t.wf := State.installPlan_wf (State.clearTxQueues_wf hs) _
  have h2 : t2.wf := wf_ite h1 (State.publish_wf (wf_mk h1.mem h1.host) _)
  exact State.afterMap_wf (State.requeueAll_wf h2 _ _) _

theorem State.mapAct_wf {s : State} (hs : s.wf) (r : MapReport) :
    (State.mapAct s r).wf := by
  unfold State.mapAct
  with_reducible repeat' first | assumption | apply State.planReport_wf | apply State.mapReport_wf | apply wf_ite | split

theorem execMapEvent_wf (r : MapReport) {s : State} (hs : s.wf) : wfOut (execMapEvent r s) := by
  unfold execMapEvent
  exact wfOut_ite (wfOut.next hs) (wfOut.next (State.mapAct_wf (State.takeFirst_wf hs r) _))

/-! Mailbox -/

theorem State.mbPut_wf {s : State} (hs : s.wf) (off : Nat) (bs : List Byte) :
    (State.mbPut s off bs).wf := by
  unfold State.mbPut
  with_reducible repeat' first | assumption | apply State.putMem_wf

theorem State.mbDone_wf {s : State} (hs : s.wf) (st : Nat) :
    (State.mbDone s st).wf := by
  unfold State.mbDone
  repeat' first
    | with_reducible assumption | with_reducible refine State.wf.mem ?_ | with_reducible refine State.wf.host ?_ | dsimp only
    | with_reducible apply wf_mk

theorem State.mbServe_wf {s : State} (hs : s.wf) (ident : Bool) {run : State → State} (hr : ∀ t : State, t.wf → (run t).wf) :
    (s.mbServe ident run).wf := by
  unfold State.mbServe
  exact wf_ite hs (wf_ite (State.mbDone_wf hs _) (hr _ hs))

theorem execIdent_wf {s : State} (hs : s.wf) :
    wfOut (execIdent s) := by
  unfold execIdent
  with_reducible repeat' first | assumption | apply State.mbServe_wf | apply State.mbPut_wf | apply State.mbDone_wf | apply wfOut.next | intro _

theorem execAttest_wf {s : State} (hs : s.wf) :
    wfOut (execAttest s) := by
  unfold execAttest
  with_reducible repeat' first | assumption | apply State.mbServe_wf | apply State.mbPut_wf | apply State.mbDone_wf | apply wfOut.next | intro _

theorem State.installKey_wf {s : State} (hs : s.wf) (dir : Nat) (peer : Nat) (part : Nat) (g : Nat) (k : BitVec 256) :
    (State.installKey s dir peer part g k).wf := by
  unfold State.installKey
  repeat' first
    | with_reducible assumption | with_reducible refine State.wf.mem ?_ | with_reducible refine State.wf.host ?_ | split | dsimp only
    | with_reducible apply wf_mk

theorem execKeywrap_wf {s : State} (hs : s.wf) :
    wfOut (execKeywrap s) := by
  unfold execKeywrap
  with_reducible repeat' first
    | assumption | apply State.mbServe_wf | apply State.mbDone_wf | apply State.installKey_wf | apply wf_ite | apply wfOut.next | intro _
    | split

theorem execKeyretire_wf {s : State} (hs : s.wf) :
    wfOut (execKeyretire s) := by
  unfold execKeyretire
  repeat' first
    | with_reducible assumption | with_reducible apply State.mbServe_wf | with_reducible apply State.mbDone_wf | with_reducible apply wf_ite
    | with_reducible apply wfOut.next | with_reducible refine State.wf.mem ?_ | with_reducible refine State.wf.host ?_ | intro _
    | dsimp only | with_reducible apply wf_mk

theorem State.mbGo_wf {s : State} (hs : s.wf) :
    (State.mbGo s).wf := by
  unfold State.mbGo
  repeat' first
    | with_reducible assumption | with_reducible apply State.post_wf | with_reducible apply State.mbDone_wf | with_reducible apply wf_ite
    | with_reducible refine State.wf.mem ?_ | with_reducible refine State.wf.host ?_ | split | dsimp only | with_reducible apply wf_mk

/-! Unpick -/

theorem Uk.s_wf {self : Uk} (hself : self.s.wf) :
    (Uk.s self).wf := by
  unfold Uk.s
  with_reducible repeat' first | assumption | split

theorem Uk.read_wf {u : Uk} (hu : u.s.wf) (g : Nat) (k : Nat) :
    (Uk.read u g k).1.s.wf := by
  unfold Uk.read
  with_reducible repeat' first | assumption | apply State.loadLocal_wf

theorem Uk.write_wf {u : Uk} (hu : u.s.wf) (g : Nat) (k : Nat) (r : Row) (poison : Bool) :
    (Uk.write u g k r poison).s.wf := by
  unfold Uk.write
  with_reducible repeat' first | assumption | apply State.storeLocal_wf

theorem Uk.zeros_wf {u : Uk} (hu : u.s.wf) (g : Nat) (z0 : Nat) :
    (Uk.zeros u g z0).s.wf := by
  revert hu
  induction z0 generalizing u g with
  | zero =>
    intros; unfold Uk.zeros
    with_reducible repeat' first | assumption
  | succ _ ih =>
    intros; unfold Uk.zeros
    with_reducible repeat' first | assumption | apply ih | apply Uk.write_wf

theorem Uk.touch_wf {u : Uk} (hu : u.s.wf) (g : Nat) :
    (Uk.touch u g).s.wf := by
  unfold Uk.touch
  with_reducible repeat' first | assumption | apply Uk.zeros_wf | apply State.putMem_wf | apply wfU_ite

theorem Uk.updRow_wf {u : Uk} (hu : u.s.wf) (v : View) (passed : Bool) (f : Nat → Nat → Option (Nat × Bool)) (k : Nat) :
    (Uk.updRow u v passed f k).s.wf := by
  unfold Uk.updRow
  with_reducible repeat' first | assumption | apply Uk.read_wf | apply Uk.write_wf | apply wfU_ite | apply wfUP_ite

theorem Uk.upd_wf {u : Uk} (hu : u.s.wf) (v : View) (passed : Bool) (f : Nat → Nat → Option (Nat × Bool)) :
    (Uk.upd u v passed f).s.wf := by
  unfold Uk.upd
  with_reducible repeat' first | assumption | apply Uk.updRow_wf | apply Uk.touch_wf | apply wfU_foldl | intro _ | split

theorem Uk.accum_wf {u : Uk} (hu : u.s.wf) (v : Option View) (f : Nat → Option (Nat × Bool)) :
    (Uk.accum u v f).s.wf := by
  unfold Uk.accum
  with_reducible repeat' first | assumption | apply Uk.upd_wf | split

theorem Uk.assign_wf {u : Uk} (hu : u.s.wf) (v : View) (f : Nat → Option (Nat × Bool)) :
    (Uk.assign u v f).s.wf := by
  unfold Uk.assign
  with_reducible repeat' first | assumption | apply Uk.upd_wf

theorem Uk.load_wf {u : Uk} (hu : u.s.wf) (v : View) :
    (Uk.load u v).1.s.wf := by
  unfold Uk.load
  with_reducible repeat' first | assumption | apply Uk.read_wf | apply wfUP_foldl | intro _

theorem State.ukPoison_wf {s : State} (hs : s.wf) (c : EngCmd) (p : Option (Nat × W64)) :
    (State.ukPoison s c p).wf := by
  unfold State.ukPoison
  with_reducible repeat' first
    | assumption | apply State.reportTask_wf | apply State.modCtx_wf | apply wf_ite | intro _ | apply wf_putBytes
    | refine State.wf.mem ?_ | refine State.wf.host ?_ | split | apply wf_mk

theorem State.keptRows_wf {s : State} (hs : s.wf) (core : Nat) (h : Row) (i : Nat) :
    (State.keptRows s core h i).1.wf := by
  unfold State.keptRows
  with_reducible repeat' first | assumption | apply State.engReads_wf | split

theorem State.slotRows_wf {s : State} (hs : s.wf) (core : Nat) (h : Row) (rows : List Row) (i : Nat) :
    (State.slotRows s core h rows i).1.wf := by
  unfold State.slotRows
  with_reducible repeat' first | assumption | apply State.keptRows_wf | split

theorem State.plainVals_wf {s : State} (hs : s.wf) (core : Nat) (c : EngCmd) (h : Row) (rows : List Row) :
    wfVals (State.plainVals s core c h rows) := by
  unfold State.plainVals
  repeat' first
    | with_reducible assumption | with_reducible apply State.slotRows_wf | with_reducible apply State.ukPoison_wf | intro _
    | with_reducible apply wfVals.ok | with_reducible apply wfVals.stop | with_reducible apply wfVals.pause | split | dsimp only

theorem State.ukEntry_wf {s : State} (hs : s.wf) (core : Nat) (r : RunCmd) (o : Nat) :
    wfVals (State.ukEntry s core r o) := by
  unfold State.ukEntry
  with_reducible repeat' first
    | assumption | apply State.ukPoison_wf | apply State.engReads_wf | apply wf_ite | apply wfVals_ite | apply wfVals.ok
    | apply wfVals.stop | apply wfVals.pause | split

theorem State.ukVals_wf {s : State} (hs : s.wf) (core : Nat) (r : RunCmd) (h : Row) (rows : List Row) :
    wfVals (State.ukVals s core r h rows) := by
  unfold State.ukVals
  have h1 := State.plainVals_wf hs core r.c h rows
  generalize s.plainVals core r.c h rows = x at h1 ⊢
  cases x with
  | ok t a b c =>
    refine wfVals_ite h1 ?_
    have h2 := State.ukEntry_wf (s := t) h1 core r (trF h 0x40 8)
    generalize t.ukEntry core r (trF h 0x40 8) = y at h2 ⊢
    cases y with
    | ok u prows _ _ =>
      have h3 := State.plainVals_wf (s := u) h2 core r.c (prows.headD 0) prows
      dsimp only
      generalize u.plainVals core r.c (prows.headD 0) prows = z at h3 ⊢
      cases z <;> exact h3
    | stop => exact h2
    | pause => exact h2
  | stop => exact h1
  | pause => exact h1

theorem Uk.adjMul_wf {u : Uk} (hu : u.s.wf) (h : Row) (v0 : Option View) (v1 : Option View) (v3 : View) (A : List Row) (B : List Row) (M : List Row) :
    (Uk.adjMul u h v0 v1 v3 A B M).s.wf := by
  unfold Uk.adjMul
  with_reducible repeat' first | assumption | apply Uk.load_wf | apply Uk.accum_wf | apply Uk.assign_wf | apply wfU_ite

theorem Uk.adjoint_wf {u : Uk} (hu : u.s.wf) (h : Row) (v0 : Option View) (v1 : Option View) (v3 : View) (A : List Row) (B : List Row)
    (M : List Row) :
    (Uk.adjoint u h v0 v1 v3 A B M).s.wf := by
  unfold Uk.adjoint
  with_reducible repeat' first | assumption | apply Uk.load_wf | apply Uk.assign_wf | apply Uk.adjMul_wf | apply Uk.accum_wf | apply wfU_ite | split

theorem State.quAdd_wf {s : State} (hs : s.wf) (core : Nat) (part : Nat) (conf : Bool) (x : W64) (byte : Nat) (vs : List W32) :
    (State.quAdd s core part conf x byte vs).wf := by
  unfold State.quAdd
  with_reducible repeat' first | assumption | apply State.addLocal_wf | apply State.inject_wf | apply wf_ite | apply wf_getD

theorem Uk.adjQld_wf {u : Uk} (hu : u.s.wf) (part : Nat) (h : Row) (coords : List Row) (d : BitVec 2048) (v0 : Option View) (v3 : View)
    (table : Nat → Row) (grad : Nat → W64) (conf : W64 → Bool) :
    (Uk.adjQld u part h coords d v0 v3 table grad conf).s.wf := by
  unfold Uk.adjQld
  with_reducible repeat' first
    | assumption | apply Uk.load_wf | apply State.quAdd_wf | apply Uk.accum_wf | apply Uk.assign_wf | apply wfU_foldl | intro _

theorem State.setRec_wf {s : State} (hs : s.wf) (c : EngCmd) (f : W64 → W64) (g : W64 → W64) :
    (State.setRec s c f g).wf := by
  unfold State.setRec
  with_reducible repeat' first | assumption | apply State.modCtx_wf | apply State.putMem_wf | split

theorem State.unpickOpen_wf {s : State} (hs : s.wf) (core : Nat) (r : RunCmd) :
    (State.unpickOpen s core r).1.wf := by
  unfold State.unpickOpen
  dsimp only
  split
  · exact hs
  · exact State.setRec_wf hs ..
  · have h := State.engReads_wf hs ‹List W64›
    with_reducible repeat' first
      | assumption | apply State.setRec_wf | apply State.putMem_wf | apply wf_foldl | apply wfP_ite | intro _

theorem State.unpickStart_wf {s : State} (hs : s.wf) (core : Nat) (r : RunCmd) :
    (State.unpickStart s core r).1.wf := by
  unfold State.unpickStart
  with_reducible repeat' first | assumption | apply State.unpickOpen_wf | apply wfP_ite | split

theorem State.unpickEnd_wf {s : State} (hs : s.wf) (core : Nat) (r : RunCmd) (st : Nat) :
    (State.unpickEnd s core r st).wf := by
  unfold State.unpickEnd
  with_reducible repeat' first | assumption | apply State.setRec_wf | apply State.setEng_wf

theorem State.unpickNext_wf {s : State} (hs : s.wf) (core : Nat) (r : RunCmd) (h : Row) :
    (State.unpickNext s core r h).wf := by
  unfold State.unpickNext
  with_reducible repeat' first | assumption | apply State.setRec_wf | apply State.unpickEnd_wf | apply State.setEng_wf | apply wf_ite

theorem State.ukOwn_wf {s : State} (hs : s.wf) (core : Nat) (r : RunCmd) (h : Row) :
    wfOwn (State.ukOwn s core r h) := by
  unfold State.ukOwn
  with_reducible repeat' first | assumption | apply State.claimFor_wf | apply wfOwn.go | exact wfOwn.wait | exact wfOwn.trap | apply wfOwn_ite | split

theorem State.ukDone_wf (core : Nat) (r : RunCmd) (h : Row) {u : Uk} (hu : u.s.wf) :
    (State.ukDone core r h u).wf := by
  unfold State.ukDone
  with_reducible repeat' first
    | assumption | apply State.unpickNext_wf | apply State.unpickEnd_wf | apply State.ukPoison_wf | apply Uk.s_wf | apply wf_ite
    | apply wf_putBytes | refine State.wf.mem ?_ | refine State.wf.host ?_ | apply wf_mk

theorem State.ukQld_wf {s : State} (hs : s.wf) (core : Nat) (r : RunCmd) (h : Row) (rows : List Row) (v0 : Option View) (v3 : View) :
    (State.ukQld s core r h rows v0 v3).wf := by
  unfold State.ukQld
  with_reducible repeat' first
    | assumption | apply State.ukDone_wf | apply State.unpickEnd_wf | apply Uk.adjQld_wf | apply State.ukPoison_wf
    | apply State.engReads_wf | apply State.setEng_wf | apply wf_ite | intro _ | apply wf_getD | apply wf_putBytes
    | refine State.wf.mem ?_ | refine State.wf.host ?_ | split | apply wf_mk

theorem State.adjPush_wf {s : State} (hs : s.wf) (core : Nat) (r : RunCmd) :
    (State.adjPush s core r).wf := by
  unfold State.adjPush
  with_reducible repeat' first
    | assumption | apply State.setEng_wf | apply State.mxPush_wf | apply wf_ite | apply wf_putBytes | refine State.wf.mem ?_
    | refine State.wf.host ?_ | apply wf_mk

theorem State.ukOne_wf {s : State} (hs : s.wf) (core : Nat) (r : RunCmd) (rows : List Row) :
    (State.ukOne s core r rows).wf := by
  unfold State.ukOne
  extract_lets h
  split
  · exact State.unpickNext_wf hs _ _ _
  · refine wf_ite (State.ukQld_wf hs ..) ?_
    have h1 := State.ukVals_wf hs core r h rows
    generalize s.ukVals core r h rows = x at h1 ⊢
    cases x with
    | stop t st => exact State.unpickEnd_wf h1 _ _ _
    | pause => exact State.setEng_wf hs _ _ _
    | ok t a b c =>
      dsimp only
      have h2 := State.ukOwn_wf (s := t) h1 core r h
      generalize t.ukOwn core r h = y at h2 ⊢
      cases y with
      | wait => exact h1
      | trap => exact State.report_wf h1 _ _ _
      | go u => exact wf_ite (State.ukDone_wf _ _ _ (Uk.adjoint_wf (u := ⟨u, core, r.gm, none⟩) h2 ..)) (State.adjPush_wf h2 _ _)
  · exact State.unpickEnd_wf hs _ _ _

theorem execUnpickEntry_wf {s : State} (hs : s.wf) :
    wfOut (execUnpickEntry s) := by
  unfold execUnpickEntry
  repeat' first
    | with_reducible assumption | with_reducible apply State.ukEntry_wf | with_reducible apply State.unpickEnd_wf
    | with_reducible apply State.setEng_wf | with_reducible apply State.ukOne_wf | with_reducible apply State.unpickOpen_wf
    | with_reducible apply wfOut.next | with_reducible apply wfOut_ite | split | (refine wf_valsOk (by assumption) ?_) | (refine wf_valsStop (by assumption) ?_) | dsimp only

/-! EngRun -/

theorem State.xchgTree_wf {s : State} (hs : s.wf) (r : RunCmd) :
    (State.xchgTree s r).1.wf := by
  unfold State.xchgTree
  with_reducible repeat' first
    | assumption | apply State.treeFault_wf | apply State.freed_wf | apply wf_ite | apply wfP_ite | apply wf_putBytes
    | refine State.wf.mem ?_ | refine State.wf.host ?_ | split | apply wf_mk

theorem State.pairUp_wf {s : State} (hs : s.wf) (core : Nat) (r : RunCmd) :
    (State.pairUp s core r).1.wf := by
  unfold State.pairUp
  with_reducible repeat' first | assumption | apply State.loadPair_wf | apply wf_ite | apply wfP_ite

theorem State.startOp_wf {s : State} (hs : s.wf) (core : Nat) (r : RunCmd) :
    (State.startOp s core r).1.wf := by
  unfold State.startOp
  with_reducible repeat' first
    | assumption | apply State.pairUp_wf | apply State.xchgTree_wf | apply State.unpickStart_wf | apply State.wplanStart_wf
    | apply State.treeCmd_wf | apply State.esendStart_wf | apply State.postStart_wf | apply wf_ite | apply wfP_ite | apply wf_putBytes
    | refine State.wf.mem ?_ | refine State.wf.host ?_ | split | apply wf_mk

theorem State.beginCmd_wf {s : State} (hs : s.wf) (core : Nat) (e : Eng) (c : EngCmd) :
    (State.beginCmd s core e c).wf := by
  unfold State.beginCmd
  with_reducible repeat' first | assumption | apply State.startRun_wf | apply State.markIrrev_wf | apply State.startOp_wf | apply State.setEng_wf

theorem State.fillPrio_wf {s : State} (hs : s.wf) (core : Nat) :
    (State.fillPrio s core).wf := by
  unfold State.fillPrio
  with_reducible repeat' first
    | assumption | apply State.takeHead_wf | apply State.modCore_wf | apply wf_ite | intro _ | apply wf_putBytes
    | refine State.wf.mem ?_ | refine State.wf.host ?_ | split | apply wf_mk

theorem State.startPrio_wf {s : State} (hs : s.wf) (core : Nat) :
    (State.startPrio s core).wf := by
  unfold State.startPrio
  with_reducible repeat' first | assumption | apply State.modCore_wf | apply State.beginCmd_wf | apply wf_ite | split

theorem execEngineAccept_wf (core : Nat) (e : Eng) {s : State} (hs : s.wf) :
    wfOut (execEngineAccept core e s) := by
  unfold execEngineAccept
  with_reducible repeat' first
    | assumption | apply State.startPrio_wf | apply State.fillPrio_wf | apply State.beginCmd_wf | apply State.takeHead_wf
    | apply wf_ite | apply wfOut_ite | apply wfOut.next | apply wfOut.fault | apply wfOut.refused | split

theorem State.walkChunk_wf {s : State} (hs : s.wf) (core : Nat) (e : Eng) (r : RunCmd) (n : Nest) :
    (State.walkChunk s core e r n).wf := by
  unfold State.walkChunk
  with_reducible repeat' first
    | assumption | apply State.pairUp_wf | apply State.onldStep_wf | apply State.offlStep_wf | apply State.walkStep_wf
    | apply State.walkLive_wf | apply State.setEng_wf | apply wf_ite | apply wf_putBytes | refine State.wf.mem ?_
    | refine State.wf.host ?_ | split | apply wf_mk

theorem State.chunk_wf {s : State} (hs : s.wf) (core : Nat) (e : Eng) (r : RunCmd) :
    (State.chunk s core e r).wf := by
  unfold State.chunk
  with_reducible repeat' first
    | assumption | apply State.walkChunk_wf | apply State.drainGo_wf | apply State.esendChunk_wf | apply State.postChunk_wf
    | apply wf_ite | split

theorem State.chunkOf_wf {s : State} (hs : s.wf) (core : Nat) (e : Eng) :
    (State.chunkOf s core e).wf := by
  unfold State.chunkOf
  with_reducible repeat' first | assumption | apply State.chunk_wf | split

theorem execChunkBoundary_wf {s : State} (hs : s.wf) :
    wfOut (execChunkBoundary s) := by
  unfold execChunkBoundary
  with_reducible repeat' first | assumption | apply State.chunkOf_wf | apply wf_ite | apply wfOut.next | split

theorem execLiveBoundRead_wf {s : State} (hs : s.wf) :
    wfOut (execLiveBoundRead s) := by
  unfold execLiveBoundRead
  with_reducible repeat' first
    | assumption | apply State.liveAsk_wf | apply wfOut.next | apply wfOut.fault | apply wfOut.refused

theorem State.walkEnd_wf {s : State} (hs : s.wf) (core : Nat) (r : RunCmd) : wfOptP (State.walkEnd s core r) := by
  unfold State.walkEnd
  split
  · refine wfOptP_ite trivial (wfOptP_ite ?_ hs)
    have h := State.pubAt_wf hs core r (s.pairRow core r (firstPeer r.lnr)) (s.morePairs core r) none (lnrF r.lnr 3 1)
    generalize s.pubAt core r _ _ none _ = o at h
    cases o
    · trivial
    · exact h
  · trivial

theorem State.endOf_wf {s : State} (hs : s.wf) (core : Nat) (r : RunCmd) :
    wfOptP (State.endOf s core r) := by
  unfold State.endOf
  repeat' first
    | with_reducible assumption | with_reducible apply State.walkEnd_wf | with_reducible apply State.pubAt_wf
    | with_reducible apply State.postEnd_wf | with_reducible apply State.esendEnd_wf | with_reducible apply State.dictEnd_wf
    | with_reducible apply State.ckptEnd_wf | with_reducible apply State.drainEnd_wf | with_reducible apply State.etabEnd_wf
    | with_reducible apply State.treeCmd_wf | with_reducible apply wfOptP_ite | with_reducible apply wfOptP.some
    | with_reducible exact wfOptP.none | with_reducible refine State.wf.mem ?_ | with_reducible refine State.wf.host ?_ | split | dsimp only
    | with_reducible apply wf_mk

theorem State.tellEnd_wf {s : State} (hs : s.wf) (core : Nat) (c : EngCmd) (st : Nat) (count : Nat) :
    (State.tellEnd s core c st count).wf := by
  unfold State.tellEnd
  with_reducible repeat' first | assumption | apply State.storeMem_wf | apply State.setFlag_wf | apply State.setTaskFlag_wf | apply wf_ite

theorem execEngineCommandComplete_wf (core : Nat) (e : Eng) {s : State} (hs : s.wf) :
    wfOut (execEngineCommandComplete core e s) := by
  unfold execEngineCommandComplete
  repeat' first
    | with_reducible assumption | with_reducible apply State.endOf_wf | with_reducible apply State.setEng_wf
    | with_reducible apply State.tellEnd_wf | with_reducible apply State.tryFinish_wf | with_reducible apply wfOut.next
    | with_reducible apply wfOut_ite | split | (refine wf_optPSome (by assumption) ?_)

end Sys2Proof.Machine
end

