-- ==== Sys2Proof/Laws/WfHost.lean ====
section
/-! SUPPORT. Canonical memory is kept by the scheduler, host commands, registers and exec: one lemma per operation. -/

namespace Sys2Proof.Machine

/-! Sched -/

theorem State.park_wf {s : State} (hs : s.wf) (key : Nat) (e : Entry) (f : WalkFault) (i : Nat) (va : Nat) :
    (State.park s key e f i va).wf := by
  unfold State.park
  repeat' first
    | with_reducible assumption | with_reducible apply State.putMem_wf | with_reducible apply State.setReg_wf | with_reducible apply wf_ite
    | with_reducible refine State.wf.mem ?_ | with_reducible refine State.wf.host ?_ | split | dsimp only | with_reducible apply wf_mk

theorem execTranslationComplete_wf {s : State} (hs : s.wf) :
    wfOut (execTranslationComplete s) := by
  unfold execTranslationComplete
  repeat' first
    | with_reducible assumption | with_reducible apply State.extentsOf_wf | with_reducible apply State.park_wf
    | with_reducible apply wfOut.next | with_reducible apply wfOut_ite | with_reducible refine State.wf.mem ?_
    | with_reducible refine State.wf.host ?_ | split | (refine wf_pair (by assumption) ?_) | with_reducible apply wf_mk

theorem State.startLaunch_wf {s : State} (hs : s.wf) (cmd : Nat) :
    (State.startLaunch s cmd).wf := by
  unfold State.startLaunch
  with_reducible repeat' first
    | assumption | apply State.writeRec_wf | apply wf_ite | refine State.wf.mem ?_ | refine State.wf.host ?_ | split | apply wf_mk

theorem State.seat_wf {s : State} (hs : s.wf) (n : Nat) (t : TaskRun) (es : List Extent) :
    (State.seat s n t es).wf := by
  unfold State.seat
  with_reducible repeat' first | assumption | apply State.setCtx_wf | apply State.setExt_wf | apply State.startLaunch_wf

theorem State.loadFrame_wf {s : State} (hs : s.wf) (n : Nat) (t : TaskRun) :
    (State.loadFrame s n t).wf := by
  unfold State.loadFrame
  with_reducible repeat' first | assumption | apply State.modCtx_wf

theorem State.imLoop_wf {s : State} (hs : s.wf) (n : Nat) (a : Nat) :
    (State.imLoop s n a).1.wf := by
  unfold State.imLoop
  with_reducible repeat' first
    | assumption | apply State.bodyFrom_wf | apply wf_ite | apply wfP_ite | intro _ | apply wf_putBytes | refine State.wf.mem ?_
    | refine State.wf.host ?_ | split | apply wf_mk

theorem State.unspill_wf {s : State} (hs : s.wf) (es : List Extent) (spill : List (Nat × Nat × Nat)) :
    (State.unspill s es spill).wf := by
  unfold State.unspill
  with_reducible repeat' first | assumption | apply State.copyRows_wf | apply wf_foldl | intro _ | split

theorem State.requeueMx_wf {s : State} (hs : s.wf) (n : Nat) (cs : List MxCmd) :
    (State.requeueMx s n cs).wf := by
  unfold State.requeueMx
  with_reducible repeat' first | assumption | apply State.mxPush_wf | apply wf_foldl | intro _

theorem State.restore_wf {s : State} (hs : s.wf) (n : Nat) (key : Nat) (v : Saved) (es : List Extent) :
    (State.restore s n key v es).wf := by
  unfold State.restore
  with_reducible repeat' first
    | assumption | apply State.requeueMx_wf | apply State.unspill_wf | apply State.imLoop_wf | apply State.startLaunch_wf
    | apply State.setExt_wf | apply State.goOn_wf | apply State.bindRng_wf | apply State.modCtx_wf | apply State.setCtx_wf
    | apply wf_ite | apply wf_foldl | apply wf_foldlP | intro _ | apply wf_putBytes | refine State.wf.mem ?_ | refine State.wf.host ?_
    | apply wf_mk

theorem State.dispatch_wf {s : State} (hs : s.wf) (key : Nat) (e : Entry) (ctxs : List Nat) :
    (State.dispatch s key e ctxs).wf := by
  unfold State.dispatch
  with_reducible repeat' first
    | assumption | apply State.restore_wf | apply State.loadFrame_wf | apply State.seat_wf | apply wf_foldl | apply wf_foldlP
    | intro _ | apply wf_putBytes | refine State.wf.mem ?_ | refine State.wf.host ?_ | split | apply wf_mk

theorem State.preqEntry_wf {s : State} (hs : s.wf) (key : Nat) (e : Entry) :
    (State.preqEntry s key e).wf := by
  unfold State.preqEntry
  repeat' first
    | with_reducible assumption | with_reducible apply State.raiseReq_wf | with_reducible apply wf_ite | with_reducible apply wf_foldl
    | intro _ | split | dsimp only

theorem State.preqLaunch_wf {s : State} (hs : s.wf) (cmd : Nat) (c : Cmd) (l : Launch) (die : Nat) (size : Nat) :
    (State.preqLaunch s cmd c l die size).wf := by
  unfold State.preqLaunch
  repeat' first
    | with_reducible assumption | with_reducible apply State.raiseReq_wf | with_reducible apply wf_ite | with_reducible apply wf_foldl
    | with_reducible apply wf_foldlP | intro _ | split | dsimp only

theorem execTaskDispatch_wf {s : State} (hs : s.wf) :
    wfOut (execTaskDispatch s) := by
  unfold execTaskDispatch
  repeat' first
    | with_reducible assumption | with_reducible apply State.rerun_wf | with_reducible apply State.dispatch_wf
    | with_reducible apply State.preqEntry_wf | with_reducible apply wf_ite | with_reducible apply wfOut.next
    | with_reducible apply wf_foldl | intro _ | split | dsimp only

theorem execWatchdogPreempt_wf {s : State} (hs : s.wf) :
    wfOut (execWatchdogPreempt s) := by
  unfold execWatchdogPreempt
  with_reducible repeat' first | assumption | apply State.raiseReq_wf | apply State.modCtx_wf | apply wfOut.next | apply wfOut_ite

theorem execWatchdogKill_wf {s : State} (hs : s.wf) :
    wfOut (execWatchdogKill s) := by
  unfold execWatchdogKill
  repeat' first
    | with_reducible assumption | with_reducible apply State.killTask_wf | with_reducible apply State.modCtx_wf
    | with_reducible apply wf_ite | with_reducible apply wfOut_ite | intro _ | with_reducible apply wfOut.next
    | with_reducible apply wfOut.fault | with_reducible apply wfOut.refused | with_reducible apply wf_putBytes
    | with_reducible refine State.wf.mem ?_ | with_reducible refine State.wf.host ?_ | split | dsimp only | with_reducible apply wf_mk

theorem execWatchdogFence_wf {s : State} (hs : s.wf) :
    wfOut (execWatchdogFence s) := by
  unfold execWatchdogFence
  with_reducible repeat' first | assumption | apply State.modCtx_wf | apply State.mapReport_wf | apply wfOut.next | apply wfOut_ite

theorem State.xDone_wf {s : State} (hs : s.wf) :
    (State.xDone s).wf := by
  unfold State.xDone
  with_reducible repeat' first | assumption | apply State.setReg_wf

theorem State.dropTc_wf {s : State} (hs : s.wf) (drop : TcEnt → Bool) :
    (State.dropTc s drop).wf := by
  unfold State.dropTc
  repeat' first
    | with_reducible assumption | with_reducible refine State.wf.mem ?_ | with_reducible refine State.wf.host ?_ | dsimp only
    | with_reducible apply wf_mk

theorem execInval_wf {s : State} (hs : s.wf) :
    wfOut (execInval s) := by
  unfold execInval
  with_reducible repeat' first | assumption | apply State.dropTc_wf | apply State.xDone_wf | apply wfOut.next | apply wfOut_ite

theorem State.mapExts_wf {s : State} (hs : s.wf) (part : Nat) (f : Extent → Extent) :
    (State.mapExts s part f).wf := by
  unfold State.mapExts
  repeat' first
    | with_reducible assumption | with_reducible apply State.setExt_wf | with_reducible apply wf_foldl
    | with_reducible refine State.wf.mem ?_ | with_reducible refine State.wf.host ?_ | intro _ | dsimp only | with_reducible apply wf_mk

theorem execRevoke_wf {s : State} (hs : s.wf) :
    wfOut (execRevoke s) := by
  unfold execRevoke
  with_reducible repeat' first
    | assumption | apply State.mapExts_wf | apply State.dropTc_wf | apply State.xDone_wf | apply wf_ite | apply wfOut.next | apply wfOut_ite

theorem execRemap_wf {s : State} (hs : s.wf) :
    wfOut (execRemap s) := by
  unfold execRemap
  with_reducible repeat' first | assumption | apply State.mapExts_wf | apply State.xDone_wf | apply wfOut.next | apply wfOut_ite

theorem execRetry_wf {s : State} (hs : s.wf) :
    wfOut (execRetry s) := by
  unfold execRetry
  repeat' first
    | with_reducible assumption | with_reducible apply State.post_wf | with_reducible apply State.xDone_wf | with_reducible apply wfOut.next
    | with_reducible apply wfOut_ite | with_reducible apply wf_foldl | with_reducible refine State.wf.mem ?_
    | with_reducible refine State.wf.host ?_ | intro _ | dsimp only | with_reducible apply wf_mk

theorem State.endParked_wf {s : State} (hs : s.wf) (key : Nat) (e : Entry) :
    (State.endParked s key e).wf := by
  unfold State.endParked
  with_reducible repeat' first
    | assumption | apply State.failLaunch_wf | apply State.tryFinish_wf | apply wf_ite | refine State.wf.mem ?_ | refine State.wf.host ?_
    | split | apply wf_mk

theorem execFailpark_wf {s : State} (hs : s.wf) :
    wfOut (execFailpark s) := by
  unfold execFailpark
  with_reducible repeat' first
    | assumption | apply State.endParked_wf | apply State.xDone_wf | apply wfOut.next | apply wfOut_ite | apply wf_foldl | intro _

/-! HostCmd -/

theorem execNopCommand_wf {s : State} (hs : s.wf) :
    wfOut (execNopCommand s) := by
  unfold execNopCommand
  with_reducible repeat' first | assumption | apply State.finishCmd_wf | apply wfOut.next | split

theorem State.nextGroup_wf {s : State} (hs : s.wf) (k : Nat) (c : Cmd) (l : Launch) :
    (State.nextGroup s k c l).wf := by
  unfold State.nextGroup
  repeat' first
    | with_reducible assumption | with_reducible apply State.preqLaunch_wf | with_reducible apply State.failLaunch_wf
    | with_reducible apply State.tryFinish_wf | with_reducible apply State.makeGroup_wf | with_reducible apply State.post_wf
    | with_reducible apply wf_ite | with_reducible apply wfP_ite | intro _ | with_reducible apply wf_putBytes
    | with_reducible refine State.wf.mem ?_ | with_reducible refine State.wf.host ?_ | split | (refine wf_madeOk (by assumption) ?_)
    | dsimp only | with_reducible apply wf_mk

theorem execLaunch_wf {s : State} (hs : s.wf) :
    wfOut (execLaunch s) := by
  unfold execLaunch
  repeat' first
    | with_reducible assumption | with_reducible apply State.nextGroup_wf | with_reducible apply State.finishCmd_wf
    | with_reducible apply State.post_wf | with_reducible apply wf_ite | with_reducible apply wfP_ite | with_reducible apply wfOut_ite
    | intro _ | with_reducible apply wfOut.next | with_reducible apply wfOut.fault | with_reducible apply wfOut.refused
    | with_reducible apply wf_putBytes | with_reducible refine State.wf.mem ?_ | with_reducible refine State.wf.host ?_ | split
    | dsimp only | with_reducible apply wf_mk

theorem State.copyRow_wf {s : State} (hs : s.wf) (x : W64) :
    (State.copyRow s x).1.wf := by
  unfold State.copyRow
  with_reducible repeat' first | assumption | apply State.freed_wf | apply State.loadLocal_wf | apply wfP_ite | dsimp only

theorem State.copyIn_wf {s : State} (hs : s.wf) (src : Nat) (dst : Nat) (z0 : Nat) :
    (State.copyIn s src dst z0).wf := by
  revert hs
  induction z0 generalizing s src dst with
  | zero =>
    intros; unfold State.copyIn
    with_reducible repeat' first | assumption
  | succ _ ih =>
    intros; unfold State.copyIn
    with_reducible repeat' first | assumption | apply ih | apply State.storeFabric_wf

theorem State.copyOut_wf {s : State} (hs : s.wf) (src : Nat) (dst : Nat) (z0 : Nat) :
    (State.copyOut s src dst z0).wf := by
  revert hs
  induction z0 generalizing s src dst with
  | zero =>
    intros; unfold State.copyOut
    with_reducible repeat' first | assumption
  | succ _ ih =>
    intros; unfold State.copyOut
    repeat' first
      | with_reducible assumption | with_reducible apply ih | with_reducible apply State.copyRow_wf | with_reducible apply wf_putBytes
      | with_reducible refine State.wf.mem ?_ | with_reducible refine State.wf.host ?_ | dsimp only | with_reducible apply wf_mk

theorem execCopyh_wf {s : State} (hs : s.wf) :
    wfOut (execCopyh s) := by
  unfold execCopyh
  with_reducible repeat' first
    | assumption | apply State.copyIn_wf | apply State.copyOut_wf | apply State.finishCmd_wf | apply wf_ite | apply wfOut.next | split

theorem State.putTiles_wf {s : State} (hs : s.wf) (core : Nat) (a : Nat) :
    (State.putTiles s core a).wf := by
  unfold State.putTiles
  with_reducible repeat' first | assumption | apply State.putRow_wf | apply State.modCore_wf | apply wf_foldl | intro _

theorem State.saveArea_wf {s : State} (hs : s.wf) (n : Nat) (area : Nat) :
    (State.saveArea s n area).wf := by
  unfold State.saveArea
  with_reducible repeat' first | assumption | apply State.saveTo_wf | apply State.putTiles_wf | apply wf_ite | split

theorem execCtxsave_wf {s : State} (hs : s.wf) :
    wfOut (execCtxsave s) := by
  unfold execCtxsave
  repeat' first
    | with_reducible assumption | with_reducible apply State.modCtx_wf | with_reducible apply State.finishCmd_wf
    | with_reducible apply State.saveArea_wf | with_reducible apply State.post_wf | with_reducible apply wfOut.next
    | with_reducible apply wf_foldl | intro _ | split | dsimp only

theorem State.loadOne_wf {s : State} (hs : s.wf) (x : Nat × Saved) :
    (State.loadOne s x).wf := by
  unfold State.loadOne
  repeat' first
    | with_reducible assumption | with_reducible apply State.post_wf | with_reducible refine State.wf.mem ?_
    | with_reducible refine State.wf.host ?_ | split | dsimp only | with_reducible apply wf_mk

theorem State.preqLoad_wf {s : State} (hs : s.wf) (k : Nat) (c : Cmd) (x : Nat × Saved) :
    (State.preqLoad s k c x).wf := by
  unfold State.preqLoad
  with_reducible repeat' first | assumption | apply State.raiseReq_wf | apply wf_foldl | apply wf_foldlP | intro _ | split

theorem execCtxload_wf {s : State} (hs : s.wf) :
    wfOut (execCtxload s) := by
  unfold execCtxload
  with_reducible repeat' first
    | assumption | apply State.preqLoad_wf | apply State.loadOne_wf | apply State.finishCmd_wf | apply wf_ite | apply wfOut_ite
    | apply wf_foldl | apply wf_foldlP | intro _ | apply wfOut.next | apply wfOut.fault | apply wfOut.refused | apply wf_putBytes
    | refine State.wf.mem ?_ | refine State.wf.host ?_ | split | apply wf_mk

theorem execVariant_wf {s : State} (hs : s.wf) :
    wfOut (execVariant s) := by
  unfold execVariant
  with_reducible repeat' first
    | assumption | apply State.finishCmd_wf | apply wf_ite | apply wfOut.next | refine State.wf.mem ?_ | refine State.wf.host ?_ | split
    | apply wf_mk

theorem execMapsetRemove_wf {s : State} (hs : s.wf) :
    wfOut (execMapsetRemove s) := by
  unfold execMapsetRemove
  with_reducible repeat' first | assumption | apply State.mapReport_wf | apply State.finishCmd_wf | apply wf_ite | apply wfOut.next | split

theorem execMapsetReturn_wf {s : State} (hs : s.wf) :
    wfOut (execMapsetReturn s) := by
  unfold execMapsetReturn
  with_reducible repeat' first | assumption | apply State.finishCmd_wf | apply wf_ite | apply wfOut.next | split

theorem execMapsetRetestDone_wf (cmd : Nat) (fault : Bool) (failed : List Nat) (cap : Nat) {s : State} (hs : s.wf) :
    wfOut (execMapsetRetestDone cmd fault failed cap s) := by
  unfold execMapsetRetestDone
  with_reducible repeat' first | assumption | apply State.finishCmd_wf | apply State.mapReport_wf | apply wf_ite | apply wfOut.next | split

theorem execSignal_wf {s : State} (hs : s.wf) :
    wfOut (execSignal s) := by
  unfold execSignal
  with_reducible repeat' first
    | assumption | apply State.sendCtl_wf | apply State.syCount_wf | apply State.syStore_wf | apply State.finishCmd_wf
    | apply State.setPub_wf | apply wf_ite | apply wfOut_ite | apply wfOut.next | apply wfOut.fault | apply wfOut.refused | split

theorem State.word64_wf {s : State} (hs : s.wf) (x : W64) :
    (State.word64 s x).1.wf := by
  unfold State.word64
  with_reducible repeat' first | assumption | apply State.syRefuse_wf | apply wf_ite | apply wfP_ite | split

theorem State.pollWait_wf {s : State} (hs : s.wf) (k : Nat) :
    (State.pollWait s k).wf := by
  unfold State.pollWait
  with_reducible repeat' first
    | assumption | apply State.word64_wf | apply State.finishCmd_wf | apply State.freed_wf | apply wf_ite | split

theorem execWaitv_wf {s : State} (hs : s.wf) :
    wfOut (execWaitv s) := by
  unfold execWaitv
  with_reducible repeat' first | assumption | apply State.pollWait_wf | apply wfOut.next

theorem execWaitvPoll_wf {s : State} (hs : s.wf) :
    wfOut (execWaitvPoll s) := by
  unfold execWaitvPoll
  with_reducible repeat' first | assumption | apply State.pollWait_wf | apply wfOut.next

theorem execFenceCommand_wf {s : State} (hs : s.wf) :
    wfOut (execFenceCommand s) := by
  unfold execFenceCommand
  with_reducible repeat' first | assumption | apply State.finishCmd_wf | apply wf_ite | apply wfOut.next | split

/-! Dict -/

theorem State.setDictctl_wf {s : State} (hs : s.wf) (st : Nat) :
    (State.setDictctl s st).wf := by
  unfold State.setDictctl
  with_reducible repeat' first | assumption | apply State.setReg_wf

theorem State.dictBind_wf {s : State} (hs : s.wf) :
    (State.dictBind s).wf := by
  unfold State.dictBind
  repeat' first
    | with_reducible assumption | with_reducible apply State.bindId_wf | with_reducible apply State.setDictctl_wf | split
    | (refine wf_optSome (by assumption) ?_)

theorem execLoad_wf {s : State} (hs : s.wf) :
    wfOut (execLoad s) := by
  unfold execLoad
  with_reducible repeat' first
    | assumption | apply State.setDictctl_wf | apply State.writeEntries_wf | apply State.dictBind_wf | apply wf_ite | apply wfOut.next
    | split

theorem execBind_wf {s : State} (hs : s.wf) :
    wfOut (execBind s) := by
  unfold execBind
  with_reducible repeat' first | assumption | apply State.setDictctl_wf | apply State.dictBind_wf | apply wfOut.next | split

theorem execUnbind_wf {s : State} (hs : s.wf) :
    wfOut (execUnbind s) := by
  unfold execUnbind
  with_reducible repeat' first | assumption | apply State.setDictctl_wf | apply State.setCore_wf | apply wf_ite | apply wfOut.next

theorem State.stopTarget_wf {s : State} (hs : s.wf) (core : Nat) : (State.stopTarget s core).wf := by
  unfold State.stopTarget
  exact wf_ite hs (wf_foldl hs fun t n ht => wf_ite (State.modCtx_wf ht _ _) ht)

theorem State.setMode_wf {s : State} (hs : s.wf) (core : Nat) (mode : Nat) :
    (State.setMode s core mode).wf := by
  unfold State.setMode
  with_reducible repeat' first
    | assumption | apply State.modCore_wf | apply State.modCtx_wf | apply State.stopTarget_wf | apply wf_ite | apply wf_foldl | intro _

theorem execDbgcfgModeWrite_wf (core : Nat) (mode : Nat) {s : State} (hs : s.wf) :
    wfOut (execDbgcfgModeWrite core mode s) := by
  unfold execDbgcfgModeWrite
  with_reducible repeat' first
    | assumption | apply State.setMode_wf | apply State.heard_wf | apply wfOut.next | apply wfOut.fault | apply wfOut.refused

theorem execHalt_wf {s : State} (hs : s.wf) :
    wfOut (execHalt s) := by
  unfold execHalt
  with_reducible repeat' first | assumption | apply State.setMode_wf | apply wfOut.next | apply wf_foldl | intro _

theorem execResume_wf {s : State} (hs : s.wf) :
    wfOut (execResume s) := by
  unfold execResume
  with_reducible repeat' first | assumption | apply State.setMode_wf | apply wfOut.next | apply wf_foldl | intro _

theorem execGo_wf {s : State} (hs : s.wf) :
    wfOut (execGo s) := by
  unfold execGo
  with_reducible repeat' first | assumption | apply State.setMode_wf | apply wfOut.next

theorem execStep_wf {s : State} (hs : s.wf) :
    wfOut (execStep s) := by
  unfold execStep
  with_reducible repeat' first | assumption | apply State.modCore_wf | apply wf_ite | apply wfOut.next

theorem execStreamEntryArrival_wf {s : State} (hs : s.wf) :
    wfOut (execStreamEntryArrival s) := by
  unfold execStreamEntryArrival
  with_reducible repeat' first | assumption | apply State.setCtx_wf | apply wf_ite | apply wfOut.next

theorem State.fetchRow_wf {s : State} (hs : s.wf) (key k : Nat) : (State.fetchRow s key k).wf := by
  unfold State.fetchRow
  dsimp only
  split
  · exact hs
  · exact wf_ite hs (State.modCtx_wf hs ..)

theorem execCodeFetch_wf {s : State} (hs : s.wf) :
    wfOut (execCodeFetch s) := by
  unfold execCodeFetch
  with_reducible repeat' first | assumption | apply State.fetchOne_wf | apply State.fetchRow_wf | apply wf_ite | apply wfOut.next

/-! Regs -/

theorem State.modCsr_wf {s : State} (hs : s.wf) (n : Nat) (f : Csrs → Csrs) :
    (State.modCsr s n f).wf := by
  unfold State.modCsr
  with_reducible repeat' first | assumption | apply State.modCtx_wf

theorem State.writeRngsel_wf {s : State} (hs : s.wf) (n : Nat) (v : W64) :
    (State.writeRngsel s n v).wf := by
  unfold State.writeRngsel
  with_reducible repeat' first | assumption | apply State.unbindRng_wf | apply State.bindRng_wf | apply wf_ite

theorem State.writeFpstat_wf {s : State} (hs : s.wf) (n : Nat) (v : Nat) :
    (State.writeFpstat s n v).wf := by
  unfold State.writeFpstat
  with_reducible repeat' first
    | assumption | apply State.modCsr_wf | apply wf_ite | intro _ | apply wf_putBytes | refine State.wf.mem ?_
    | refine State.wf.host ?_ | apply wf_mk

theorem State.writeUser_wf {s : State} (hs : s.wf) (n : Nat) (num : Nat) (v : W64) (win : Bool) :
    (State.writeUser s n num v win).wf := by
  unfold State.writeUser
  with_reducible repeat' first
    | assumption | apply State.writeFpstat_wf | apply State.writeRngsel_wf | apply State.modCsr_wf | apply State.modCtx_wf
    | apply wf_ite | intro _ | apply wf_putBytes | refine State.wf.mem ?_ | refine State.wf.host ?_ | split | apply wf_mk

theorem State.writePriv_wf {s : State} (hs : s.wf) (n : Nat) (num : Nat) (v : W64) :
    (State.writePriv s n num v).wf := by
  unfold State.writePriv
  with_reducible repeat' first | assumption | apply State.modCsr_wf | split

theorem State.writeAccown_wf {s : State} (hs : s.wf) (core : Nat) (v : W64) :
    (State.writeAccown s core v).wf := by
  unfold State.writeAccown
  repeat' first
    | with_reducible assumption | with_reducible apply State.modCore_wf | with_reducible apply wf_ite
    | with_reducible refine State.wf.mem ?_ | with_reducible refine State.wf.host ?_ | dsimp only | with_reducible apply wf_mk

theorem State.writeKatcfg_wf {s : State} (hs : s.wf) (core : Nat) (v : W64) :
    (State.writeKatcfg s core v).wf := by
  unfold State.writeKatcfg
  with_reducible repeat' first | assumption | apply State.modCore_wf

theorem State.writeDbgcfg_wf {s : State} (hs : s.wf) (core : Nat) (v : W64) :
    (State.writeDbgcfg s core v).wf := by
  unfold State.writeDbgcfg
  with_reducible repeat' first | assumption | apply State.modCore_wf | apply State.setMode_wf | apply State.post_wf | apply wf_ite

theorem State.writeCore_wf {s : State} (hs : s.wf) (core : Nat) (num : Nat) (v : W64) :
    (State.writeCore s core num v).wf := by
  unfold State.writeCore
  with_reducible repeat' first
    | assumption | apply State.writeAccown_wf | apply State.modCore_wf | apply State.writeKatcfg_wf | apply State.writeDbgcfg_wf | split

theorem State.writeEinjc_wf {s : State} (hs : s.wf) (v : W64) :
    (State.writeEinjc s v).wf := by
  unfold State.writeEinjc
  with_reducible repeat' first | assumption | apply State.setReg_wf

theorem State.writeJcfg_wf {s : State} (hs : s.wf) (v : W64) :
    (State.writeJcfg s v).wf := by
  unfold State.writeJcfg
  with_reducible repeat' first | assumption | apply State.setReg_wf | apply State.post_wf | apply wf_ite

theorem State.writeXctl_wf {s : State} (hs : s.wf) (v : W64) :
    (State.writeXctl s v).wf := by
  unfold State.writeXctl
  with_reducible repeat' first | assumption | apply State.setReg_wf | apply State.post_wf | apply wf_ite | split

theorem State.writeDictctl_wf {s : State} (hs : s.wf) (v : W64) :
    (State.writeDictctl s v).wf := by
  unfold State.writeDictctl
  with_reducible repeat' first | assumption | apply State.post_wf | apply State.setReg_wf | apply wf_ite | split

theorem State.writePgctl_wf {s : State} (hs : s.wf) (v : W64) :
    (State.writePgctl s v).wf := by
  unfold State.writePgctl
  with_reducible repeat' first | assumption | apply State.post_wf | apply State.setReg_wf | apply wf_ite | split

theorem State.writeDbgctl_wf {s : State} (hs : s.wf) (v : W64) :
    (State.writeDbgctl s v).wf := by
  unfold State.writeDbgctl
  with_reducible repeat' first | assumption | apply State.setReg_wf | apply State.post_wf | apply wf_ite

theorem State.writeStrtab_wf {s : State} (hs : s.wf) (v : W64) :
    (State.writeStrtab s v).wf := by
  unfold State.writeStrtab
  with_reducible repeat' first | assumption | apply State.setReg_wf | apply wf_ite

theorem State.writeDevLow_wf {s : State} (hs : s.wf) (num : Nat) (v : W64) :
    (State.writeDevLow s num v).wf := by
  unfold State.writeDevLow
  with_reducible repeat' first
    | assumption | apply State.setReg_wf | apply State.writeEinjc_wf | apply State.writeJcfg_wf | apply State.writeXctl_wf
    | apply State.writeTtab_wf | apply wf_ite | split

theorem State.writeDevHigh_wf {s : State} (hs : s.wf) (num : Nat) (v : W64) :
    (State.writeDevHigh s num v).wf := by
  unfold State.writeDevHigh
  with_reducible repeat' first
    | assumption | apply State.writeStrtab_wf | apply State.writeDbgctl_wf | apply State.writePgctl_wf | apply State.writeDictctl_wf
    | apply State.post_wf | apply State.setReg_wf | apply wf_ite | split

theorem State.writeDev_wf {s : State} (hs : s.wf) (num : Nat) (v : W64) :
    (State.writeDev s num v).wf := by
  unfold State.writeDev
  with_reducible repeat' first | assumption | apply State.writeDevLow_wf | apply State.writeDevHigh_wf | apply wf_ite

theorem State.writeWindow_wf {s : State} (hs : s.wf) (n : Nat) (num : Nat) (v : W64) :
    (State.writeWindow s n num v).wf := by
  unfold State.writeWindow
  with_reducible repeat' first | assumption | apply State.modCtx_wf | apply State.modCore_wf | apply wf_ite

theorem State.writeReg64_wf {s : State} (hs : s.wf) (n : Nat) (num : Nat) (v : W64) (win : Bool) :
    (State.writeReg64 s n num v win).wf := by
  unfold State.writeReg64
  with_reducible repeat' first
    | assumption | apply State.writeUser_wf | apply State.writePriv_wf | apply State.writeCore_wf | apply State.writeDev_wf
    | apply State.writeWindow_wf | apply wf_ite

theorem State.writeQctl_wf {s : State} (hs : s.wf) (q : Nat) (v : W64) :
    (State.writeQctl s q v).wf := by
  unfold State.writeQctl
  with_reducible repeat' first | assumption | apply State.queueOff_wf | apply State.setHq_wf | apply State.queueOn_wf | apply wf_ite

theorem State.writeQueue_wf {s : State} (hs : s.wf) (q : Nat) (r : Nat) (v : W64) :
    (State.writeQueue s q r v).wf := by
  unfold State.writeQueue
  with_reducible repeat' first | assumption | apply State.setHq_wf | apply State.writeQctl_wf | apply wf_ite | split

theorem execRegisterWrite_wf (ctx : Nat) (num : Nat) (v : W64) {s : State} (hs : s.wf) :
    wfOut (execRegisterWrite ctx num v s) := by
  unfold execRegisterWrite
  with_reducible repeat' first
    | assumption | apply State.writeQueue_wf | apply State.writeReg64_wf | apply State.mbGo_wf | apply State.heard_wf | apply wf_ite
    | apply wfOut_ite | apply wfOut.next | apply wfOut.fault | apply wfOut.refused | apply wf_putBytes | refine State.wf.mem ?_
    | refine State.wf.host ?_ | apply wf_mk

theorem State.hostWord_wf {s : State} (hs : s.wf) (off : Nat) (v : W64) :
    (State.hostWord s off v).wf := by
  unfold State.hostWord
  with_reducible repeat' first | assumption | apply State.putMem_wf | apply State.writeQueue_wf | apply State.writeDev_wf | apply wf_ite

theorem State.hostWords_wf {s : State} (hs : s.wf) (off : Nat) (data : BitVec 512) :
    (State.hostWords s off data).wf := by
  unfold State.hostWords
  exact wf_foldl hs fun _ _ ht => State.hostWord_wf ht _ _

theorem execHostMemoryAccess_wf (addr : Nat) (store : Bool) (data : BitVec 512) {s : State} (hs : s.wf) :
    wfOut (execHostMemoryAccess addr store data s) := by
  unfold execHostMemoryAccess
  with_reducible repeat' first
    | assumption | apply State.storeLocal_wf | apply State.loadLocal_wf | apply State.hostWords_wf | apply wf_ite | apply wfOut.next
    | apply wfOut_ite | exact wfOut.fault _ | split

theorem execEinjcWrite_wf (v : W64) {s : State} (hs : s.wf) :
    wfOut (execEinjcWrite v s) := by
  unfold execEinjcWrite
  with_reducible repeat' first
    | assumption | apply State.writeEinjc_wf | apply State.heard_wf | apply wfOut.next | apply wfOut.fault | apply wfOut.refused

theorem execAccownWrite_wf (core : Nat) (v : W64) {s : State} (hs : s.wf) :
    wfOut (execAccownWrite core v s) := by
  unfold execAccownWrite
  with_reducible repeat' first
    | assumption | apply State.writeAccown_wf | apply State.heard_wf | apply wfOut.next | apply wfOut.fault | apply wfOut.refused

theorem execKatcfgWrite_wf (core : Nat) (v : W64) {s : State} (hs : s.wf) :
    wfOut (execKatcfgWrite core v s) := by
  unfold execKatcfgWrite
  with_reducible repeat' first
    | assumption | apply State.writeKatcfg_wf | apply State.heard_wf | apply wfOut.next | apply wfOut.fault | apply wfOut.refused

theorem execRngselWrite_wf (ctx : Nat) (v : W64) {s : State} (hs : s.wf) :
    wfOut (execRngselWrite ctx v s) := by
  unfold execRngselWrite
  with_reducible repeat' first
    | assumption | apply State.writeRngsel_wf | apply State.heard_wf | apply wfOut.next | apply wfOut.fault | apply wfOut.refused

theorem execCsrr_wf (r : BitVec 6) (csr : BitVec 12) {s : State} (hs : s.wf) :
    wfOut (execCsrr r csr s) := by
  unfold execCsrr
  with_reducible repeat' first | assumption | apply issue_wf | apply State.landS_wf

theorem execCsrw_wf (r : BitVec 6) (csr : BitVec 12) {s : State} (hs : s.wf) :
    wfOut (execCsrw r csr s) := by
  unfold execCsrw
  with_reducible repeat' first | assumption | apply issue_wf | apply State.writeReg64_wf

/-! Dispatch -/

theorem exec_wf (i : Instr) {s : State} (hs : s.wf) : wfOut (exec i s) :=
  match i with
  | .newImageAccept img => execNewImageAccept_wf img hs
  | .arrayTest fails => execArrayTest_wf fails hs
  | .coreSelfTest failed => execCoreSelfTest_wf failed hs
  | .memoryTest r => execMemoryTest_wf r hs
  | .linkBringup r => execLinkBringup_wf r hs
  | .powerMeasurement watts => execPowerMeasurement_wf watts hs
  | .mapEvent r => execMapEvent_wf r hs
  | .flitArbitration l => execFlitArbitration_wf l hs
  | .write rx f => execWrite_wf rx f hs
  | .read rx f => execRead_wf rx f hs
  | .atomic rx f => execAtomic_wf rx f hs
  | .resp rx f => execResp_wf rx f hs
  | .mapnote rx f => execMapnote_wf rx f hs
  | .credit rx f => execCredit_wf rx f hs
  | .nak rx f => execNak_wf rx f hs
  | .drainAnswer rx f => execDrainAnswer_wf rx f hs
  | .drainMarker rx f => execDrainMarker_wf rx f hs
  | .slotLock slot allow => execSlotLock_wf slot allow hs
  | .treeup seam f => execTreeup_wf seam f hs
  | .refill seam f => execRefill_wf seam f hs
  | .refillAnswer seam handle ans => execRefillAnswer_wf seam handle ans hs
  | .slotInstall seam handle => execSlotInstall_wf seam handle hs
  | .treeCredit child f => execTreeCredit_wf child f hs
  | .seamTimeout seam handle => execSeamTimeout_wf seam handle hs
  | .lateMark seam f => execLateMark_wf seam f hs
  | .treedown seam f => execTreedown_wf seam f hs
  | .deliveryStatus handle member seg torn part => execDeliveryStatus_wf handle member seg torn part hs
  | .postCompletionNotice handle member seg status => execPostCompletionNotice_wf handle member seg status hs
  | .expert die f => execExpert_wf die f hs
  | .commitAcknowledgement die entry rep bytes ack => execCommitAcknowledgement_wf die entry rep bytes ack hs
  | .engineAccept core e => execEngineAccept_wf core e hs
  | .engineCommandComplete core e => execEngineCommandComplete_wf core e hs
  | .mapsetRetestDone cmd fault failed cap => execMapsetRetestDone_wf cmd fault failed cap hs
  | .syncStore addr val => execSyncStore_wf addr val hs
  | .syncDec addr => execSyncDec_wf addr hs
  | .syncAtomic addr op x cv wide => execSyncAtomic_wf addr op x cv wide hs
  | .rendezvousArrival addr epoch rank parties ctx => execRendezvousArrival_wf addr epoch rank parties ctx hs
  | .hostMemoryAccess addr store data => execHostMemoryAccess_wf addr store data hs
  | .migrate core q1 => execMigrate_wf core q1 hs
  | .dbgcfgModeWrite core mode => execDbgcfgModeWrite_wf core mode hs
  | .einjcWrite v => execEinjcWrite_wf v hs
  | .accownWrite core v => execAccownWrite_wf core v hs
  | .katcfgWrite core v => execKatcfgWrite_wf core v hs
  | .ttabWrite n v => execTtabWrite_wf n v hs
  | .rngselWrite ctx v => execRngselWrite_wf ctx v hs
  | .registerWrite ctx num v => execRegisterWrite_wf ctx num v hs
  | .emptyBundle seg wf => execEmptyBundle_wf seg wf hs
  | .br off => execBr_wf off hs
  | .brz r off => execBrz_wf r off hs
  | .brnz r off => execBrnz_wf r off hs
  | .brg g inv off => execBrg_wf g inv off hs
  | .jmp r => execJmp_wf r hs
  | .call off => execCall_wf off hs
  | .loop base body off => execLoop_wf base body off hs
  | .loopbrk g inv => execLoopbrk_wf g inv hs
  | .twait r off => execTwait_wf r off hs
  | .tsig r => execTsig_wf r hs
  | .tspawn r off => execTspawn_wf r off hs
  | .rdv sa se => execRdv_wf sa se hs
  | .fset m => execFset_wf m hs
  | .fclr m => execFclr_wf m hs
  | .fence scope kind => execFence_wf scope kind hs
  | .trap cause code => execTrap_wf cause code hs
  | .csrr r csr => execCsrr_wf r csr hs
  | .csrw r csr => execCsrw_wf r csr hs
  | .bkpt imm => execBkpt_wf imm hs
  | .rot n => execRot_wf n hs
  | .snop p gd => execSnop_wf p gd hs
  | .add a => execAdd_wf a hs
  | .sub a => execSub_wf a hs
  | .addi a => execAddi_wf a hs
  | .li a => execLi_wf a hs
  | .lui a => execLui_wf a hs
  | .mul a => execMul_wf a hs
  | .mulh a => execMulh_wf a hs
  | .mulhu a => execMulhu_wf a hs
  | .div a => execDiv_wf a hs
  | .divu a => execDivu_wf a hs
  | .rem a => execRem_wf a hs
  | .remu a => execRemu_wf a hs
  | .and a => execAnd_wf a hs
  | .or a => execOr_wf a hs
  | .xor a => execXor_wf a hs
  | .andi a => execAndi_wf a hs
  | .ori a => execOri_wf a hs
  | .xori a => execXori_wf a hs
  | .shl a => execShl_wf a hs
  | .shr a => execShr_wf a hs
  | .sra a => execSra_wf a hs
  | .shli a => execShli_wf a hs
  | .shri a => execShri_wf a hs
  | .srai a => execSrai_wf a hs
  | .min a => execMin_wf a hs
  | .max a => execMax_wf a hs
  | .minu a => execMinu_wf a hs
  | .maxu a => execMaxu_wf a hs
  | .sel a => execSel_wf a hs
  | .cmpeq a => execCmpeq_wf a hs
  | .cmplt a => execCmplt_wf a hs
  | .cmpltu a => execCmpltu_wf a hs
  | .cmpeqi a => execCmpeqi_wf a hs
  | .cmplti a => execCmplti_wf a hs
  | .clz a => execClz_wf a hs
  | .popc a => execPopc_wf a hs
  | .bfx a => execBfx_wf a hs
  | .bfi a => execBfi_wf a hs
  | .ixr a => execIxr_wf a hs
  | .elen a => execElen_wf a hs
  | .elenPiece a => execElenPiece_wf a hs
  | .vnop p gd => execVnop_wf p gd hs
  | .vadd a => execVadd_wf a hs
  | .vsub a => execVsub_wf a hs
  | .vmul a => execVmul_wf a hs
  | .vfma a => execVfma_wf a hs
  | .vfms a => execVfms_wf a hs
  | .vfnma a => execVfnma_wf a hs
  | .vmin a => execVmin_wf a hs
  | .vmax a => execVmax_wf a hs
  | .vabs a => execVabs_wf a hs
  | .vneg a => execVneg_wf a hs
  | .vcmp a => execVcmp_wf a hs
  | .vsel a => execVsel_wf a hs
  | .vcvt a => execVcvt_wf a hs
  | .vrnd a => execVrnd_wf a hs
  | .vscalb a => execVscalb_wf a hs
  | .vexp2 a => execVexp2_wf a hs
  | .vlog2 a => execVlog2_wf a hs
  | .vrcp a => execVrcp_wf a hs
  | .vrsqrt a => execVrsqrt_wf a hs
  | .vsqrt a => execVsqrt_wf a hs
  | .vtanh a => execVtanh_wf a hs
  | .vsigm a => execVsigm_wf a hs
  | .vexp a => execVexp_wf a hs
  | .viadd a => execViadd_wf a hs
  | .visub a => execVisub_wf a hs
  | .viadds a => execViadds_wf a hs
  | .vimul a => execVimul_wf a hs
  | .vimad a => execVimad_wf a hs
  | .vand a => execVand_wf a hs
  | .vor a => execVor_wf a hs
  | .vxor a => execVxor_wf a hs
  | .vshl a => execVshl_wf a hs
  | .vshr a => execVshr_wf a hs
  | .vsra a => execVsra_wf a hs
  | .vimin a => execVimin_wf a hs
  | .vimax a => execVimax_wf a hs
  | .vicmp a => execVicmp_wf a hs
  | .vmov a => execVmov_wf a hs
  | .vbcast a => execVbcast_wf a hs
  | .vbcastI a => execVbcastI_wf a hs
  | .vext a => execVext_wf a hs
  | .vins a => execVins_wf a hs
  | .vperm a => execVperm_wf a hs
  | .vpermX a => execVpermX_wf a hs
  | .vrot a => execVrot_wf a hs
  | .vrotV a => execVrotV_wf a hs
  | .vrmrg a => execVrmrg_wf a hs
  | .vrmrgV a => execVrmrgV_wf a hs
  | .vpack a => execVpack_wf a hs
  | .vunpk a => execVunpk_wf a hs
  | .vzip a => execVzip_wf a hs
  | .vunzip a => execVunzip_wf a hs
  | .vlane a => execVlane_wf a hs
  | .vlaneMul a => execVlaneMul_wf a hs
  | .vxs a => execVxs_wf a hs
  | .vrsum a => execVrsum_wf a hs
  | .vrmax a => execVrmax_wf a hs
  | .vrmin a => execVrmin_wf a hs
  | .vramax a => execVramax_wf a hs
  | .vrisum a => execVrisum_wf a hs
  | .gand a => execGand_wf a hs
  | .gor a => execGor_wf a hs
  | .gxor a => execGxor_wf a hs
  | .gandn a => execGandn_wf a hs
  | .gcnt a => execGcnt_wf a hs
  | .gset a => execGset_wf a hs
  | .gsetN a => execGsetN_wf a hs
  | .vrng a => execVrng_wf a hs
  | .vrngf a => execVrngf_wf a hs
  | .nop slot => execNop_wf slot hs
  | .ldr a => execLdr_wf a hs
  | .ldrs a => execLdrs_wf a hs
  | .str a => execStr_wf a hs
  | .strs a => execStrs_wf a hs
  | .stash a => execStash_wf a hs
  | .stmc a => execStmc_wf a hs
  | .pld a => execPld_wf a hs
  | .pst a => execPst_wf a hs
  | .pstash a => execPstash_wf a hs
  | .gld a => execGld_wf a hs
  | .gst a => execGst_wf a hs
  | .glds a => execGlds_wf a hs
  | .gsts a => execGsts_wf a hs
  | .qld a => execQld_wf a hs
  | .qscat a => execQscat_wf a hs
  | .atom a => execAtom_wf a hs
  | .atomr a => execAtomr_wf a hs
  | .scld a => execScld_wf a hs
  | .scst a => execScst_wf a hs
  | .scmov a => execScmov_wf a hs
  | .scmovToVector a => execScmovToVector_wf a hs
  | .qmax a => execQmax_wf a hs
  | .qcvt a => execQcvt_wf a hs
  | .qcvtDec a => execQcvtDec_wf a hs
  | .qstep a => execQstep_wf a hs
  | .tmul a => execTmul_wf a hs
  | .tmuls a => execTmuls_wf a hs
  | .tzero a => execTzero_wf a hs
  | .tlda a => execTlda_wf a hs
  | .tsta a => execTsta_wf a hs
  | .ta2v a => execTa2v_wf a hs
  | .tv2a a => execTv2a_wf a hs
  | .tadd a => execTadd_wf a hs
  | .tscale a => execTscale_wf a hs
  | .tbias a => execTbias_wf a hs
  | .tact a => execTact_wf a hs
  | .tred a => execTred_wf a hs
  | .ttrans a => execTtrans_wf a hs
  | .tnorm a => execTnorm_wf a hs
  | .tcopy a => execTcopy_wf a hs
  | .kat pattern seed crc => execKat_wf pattern seed crc hs
  | .copy a => execCopy_wf a hs
  | .offl a => execOffl_wf a hs
  | .onld a => execOnld_wf a hs
  | .pub a => execPub_wf a hs
  | .post a => execPost_wf a hs
  | .xchg a => execXchg_wf a hs
  | .esend a => execEsend_wf a hs
  | .dictld a => execDictld_wf a hs
  | .unpick a => execUnpick_wf a hs
  | .ckpt a => execCkpt_wf a hs
  | .drain a => execDrain_wf a hs
  | .treeMake a => execTreeMake_wf a hs
  | .treeFree a => execTreeFree_wf a hs
  | .treeFreeze a => execTreeFreeze_wf a hs
  | .treeSave a => execTreeSave_wf a hs
  | .treeLoad a => execTreeLoad_wf a hs
  | .treeEdit a => execTreeEdit_wf a hs
  | .treeThaw a => execTreeThaw_wf a hs
  | .treeQuery a => execTreeQuery_wf a hs
  | .wplan a => execWplan_wf a hs
  | .etab a => execEtab_wf a hs
  | .coldReset => execColdReset_wf hs
  | .warmReset => execWarmReset_wf hs
  | .imageCheck => execImageCheck_wf hs
  | .thermalLimit => execThermalLimit_wf hs
  | .graceTimerExpiry => execGraceTimerExpiry_wf hs
  | .ident => execIdent_wf hs
  | .attest => execAttest_wf hs
  | .keywrap => execKeywrap_wf hs
  | .keyretire => execKeyretire_wf hs
  | .creditBatchTimer => execCreditBatchTimer_wf hs
  | .wplanDrainDone => execWplanDrainDone_wf hs
  | .retuneLatchTimeout => execRetuneLatchTimeout_wf hs
  | .darkIntervalEnd => execDarkIntervalEnd_wf hs
  | .relockTimeout => execRelockTimeout_wf hs
  | .ringReserve => execRingReserve_wf hs
  | .ringCommit => execRingCommit_wf hs
  | .chunkBoundary => execChunkBoundary_wf hs
  | .liveBoundRead => execLiveBoundRead_wf hs
  | .tailWordRead => execTailWordRead_wf hs
  | .commandAccept => execCommandAccept_wf hs
  | .queueEnable => execQueueEnable_wf hs
  | .queueDisable => execQueueDisable_wf hs
  | .dispatchDecision => execDispatchDecision_wf hs
  | .completionRecord => execCompletionRecord_wf hs
  | .journalReplay => execJournalReplay_wf hs
  | .nopCommand => execNopCommand_wf hs
  | .launch => execLaunch_wf hs
  | .copyh => execCopyh_wf hs
  | .ctxsave => execCtxsave_wf hs
  | .ctxload => execCtxload_wf hs
  | .variant => execVariant_wf hs
  | .mapsetRemove => execMapsetRemove_wf hs
  | .mapsetReturn => execMapsetReturn_wf hs
  | .signal => execSignal_wf hs
  | .waitv => execWaitv_wf hs
  | .waitvPoll => execWaitvPoll_wf hs
  | .fenceCommand => execFenceCommand_wf hs
  | .translationComplete => execTranslationComplete_wf hs
  | .taskDispatch => execTaskDispatch_wf hs
  | .forcedSave => execForcedSave_wf hs
  | .contextSave => execContextSave_wf hs
  | .pendingLoadIntoImage => execPendingLoadIntoImage_wf hs
  | .taskEndDrainComplete => execTaskEndDrainComplete_wf hs
  | .watchdogPreempt => execWatchdogPreempt_wf hs
  | .watchdogKill => execWatchdogKill_wf hs
  | .watchdogFence => execWatchdogFence_wf hs
  | .inval => execInval_wf hs
  | .revoke => execRevoke_wf hs
  | .remap => execRemap_wf hs
  | .retry => execRetry_wf hs
  | .failpark => execFailpark_wf hs
  | .rendezvousAnswer => execRendezvousAnswer_wf hs
  | .rdvtimeout => execRdvtimeout_wf hs
  | .codeFetch => execCodeFetch_wf hs
  | .resultLanding => execResultLanding_wf hs
  | .loadDataArrival => execLoadDataArrival_wf hs
  | .queuedAccessPerform => execQueuedAccessPerform_wf hs
  | .correctedWriteback => execCorrectedWriteback_wf hs
  | .reportTrap => execReportTrap_wf hs
  | .segmentEntry => execSegmentEntry_wf hs
  | .segmentRollback => execSegmentRollback_wf hs
  | .matrixCommandStart => execMatrixCommandStart_wf hs
  | .matrixCommandComplete => execMatrixCommandComplete_wf hs
  | .migratedResultReturn => execMigratedResultReturn_wf hs
  | .guardRelease => execGuardRelease_wf hs
  | .unpickEntry => execUnpickEntry_wf hs
  | .parityFillComplete => execParityFillComplete_wf hs
  | .sealComplete => execSealComplete_wf hs
  | .seal => execSeal_wf hs
  | .lost => execLost_wf hs
  | .recctlGo => execRecctlGo_wf hs
  | .load => execLoad_wf hs
  | .bind => execBind_wf hs
  | .unbind => execUnbind_wf hs
  | .halt => execHalt_wf hs
  | .resume => execResume_wf hs
  | .step => execStep_wf hs
  | .go => execGo_wf hs
  | .streamEntryArrival => execStreamEntryArrival_wf hs
  | .cnop => execCnop_wf hs
  | .ret => execRet_wf hs
  | .tend => execTend_wf hs
  | .trig => execTrig_wf hs
  | .yield => execYield_wf hs
  | .mark => execMark_wf hs
  | .rft => execRft_wf hs
  | .rmack => execRmack_wf hs
  | .dswap => execDswap_wf hs
  | .baste => execBaste_wf hs
  | .knot => execKnot_wf hs
  | .flitAcknowledgement => execFlitAcknowledgement_wf hs

end Sys2Proof.Machine
end

