-- ==== Sys2Proof/Laws/WfIssue.lean ====
section
/-! SUPPORT. Canonical memory is kept by the issue stage of one core and the end of a cycle: one lemma per operation. -/

namespace Sys2Proof.Machine

/-! Issue -/

theorem andThen_wf {o : Host.Outcome State Fault Refusal} (ho : wfOut o) {f : State → Host.Outcome State Fault Refusal}
    (hf : ∀ t : State, t.wf → wfOut (f t)) : wfOut (andThen o f) := by
  unfold andThen
  cases o with
  | next t => exact hf _ ho
  | fault r => trivial
  | refused r => trivial

theorem runAll_wf (is : List Instr) {s : State} (hs : s.wf) : wfOut (runAll is s) := by
  induction is generalizing s with
  | nil => exact hs
  | cons i is ih => exact andThen_wf (exec_wf i hs) fun t ht => ih ht

theorem State.idleTick_wf {s : State} (hs : s.wf) (key : Nat) :
    (State.idleTick s key).wf := by
  unfold State.idleTick
  with_reducible repeat' first | assumption | apply State.modCtx_wf

theorem State.startRows_wf {s : State} (hs : s.wf) (key : Nat) :
    (State.startRows s key).wf := by
  unfold State.startRows
  with_reducible repeat' first | assumption | apply State.time_wf | apply State.modCtx_wf | apply wf_ite | apply wf_foldl | intro _ | split

theorem State.startRdv_wf {s : State} (hs : s.wf) (key : Nat) :
    (State.startRdv s key).wf := by
  unfold State.startRdv
  with_reducible repeat' first | assumption | apply State.modCtx_wf | apply wf_ite | split

theorem State.sendArrival_wf {s : State} (hs : s.wf) (n : Nat) (a : W64) (e : W32) :
    (State.sendArrival s n a e).wf := by
  unfold State.sendArrival
  with_reducible repeat' first | assumption | apply State.post_wf | apply State.modCtx_wf | apply wf_ite | split

theorem State.fenceStep_wf {s : State} (hs : s.wf) (key : Nat) (scope : Nat) (kind : Nat) :
    (State.fenceStep s key scope kind).wf := by
  unfold State.fenceStep
  with_reducible repeat' first | assumption | apply State.modCtx_wf | apply State.idleTick_wf | apply wf_ite

theorem State.holdStep_wf {s : State} (hs : s.wf) (n : Nat) :
    (State.holdStep s n).wf := by
  unfold State.holdStep
  with_reducible repeat' first
    | assumption | apply State.fenceStep_wf | apply State.post_wf | apply State.idleTick_wf | apply State.sendArrival_wf | apply wf_ite
    | split

theorem State.forceStep_wf {s : State} (hs : s.wf) (n : Nat) :
    (State.forceStep s n).wf := by
  unfold State.forceStep
  with_reducible repeat' first | assumption | apply State.post_wf | apply wf_ite

theorem State.headStep_wf {s : State} (hs : s.wf) (key : Nat) :
    (State.headStep s key).wf := by
  unfold State.headStep
  with_reducible repeat' first
    | assumption | apply State.startRdv_wf | apply State.startRows_wf | apply State.liveAsk_wf | apply State.fetchOne_wf
    | apply State.modCtx_wf | apply wf_ite

theorem State.prepare_wf {s : State} (hs : s.wf) (n : Nat) : (State.prepare s n).wf := by
  unfold State.prepare
  extract_lets running s1 s2 s3 s4
  have h1 : s1.wf := State.landStep_wf (wf_mk hs.mem hs.host) _
  have h2 : s2.wf := State.liveAsk_wf (State.modCtx_wf h1 _ _) _
  have h3 : s3.wf := by
    unfold s3
    cases (s2.ctx n).hold with
    | ending _ => exact State.modCtx_wf h2 _ _
    | save _ _ => exact h2
    | rollback => exact h2
    | stuck => exact h2
    | late _ => exact State.takeReport_wf h2 _
    | none => exact State.takeReport_wf h2 _
    | fence _ _ => exact State.takeReport_wf h2 _
    | rdv _ _ _ => exact State.takeReport_wf h2 _
    | knot => exact State.takeReport_wf h2 _
    | rft => exact State.takeReport_wf h2 _
    | stopped => exact State.takeReport_wf h2 _
  have h4 : s4.wf := State.forceStep_wf (State.holdStep_wf (wf_mk h3.mem h3.host) _) _
  refine wf_ite hs (wf_ite h1 (wf_ite h3 (wf_ite (State.headStep_wf (wf_mk h4.mem h4.host) _) ?_)))
  split <;> exact h4

theorem State.readRegs_wf {s : State} (hs : s.wf) (array : Nat) (ctx : Nat) (z0 : List Nat) :
    (State.readRegs s array ctx z0).1.wf := by
  revert hs
  induction z0 generalizing s array ctx with
  | nil =>
    intros; unfold State.readRegs
    with_reducible repeat' first | assumption
  | cons _ _ ih =>
    intros; unfold State.readRegs
    with_reducible repeat' first | assumption | apply ih | apply State.injReg_wf

theorem State.readSources_wf {s : State} (hs : s.wf) (is : List Instr) :
    (State.readSources s is).1.wf := by
  unfold State.readSources
  with_reducible repeat' first | assumption | apply State.readRegs_wf | apply wfP_ite

theorem State.beginBundle_wf {s : State} (hs : s.wf) (key : Nat) (e : FetchEnt) :
    (State.beginBundle s key e).wf := by
  unfold State.beginBundle
  with_reducible repeat' first | assumption | apply State.modCtx_wf | apply State.enterSegment_wf | apply wf_ite

theorem State.afterSlots_wf {s : State} (hs : s.wf) (key : Nat) (inLoop : Bool) :
    (State.afterSlots s key inLoop).wf := by
  unfold State.afterSlots
  with_reducible repeat' first | assumption | apply State.modCtx_wf | apply wf_ite

theorem State.runBundle_wf {s : State} (hs : s.wf) (key : Nat) (e : FetchEnt) : wfOut (State.runBundle s key e) := by
  unfold State.runBundle
  extract_lets inLoop s1
  have h1 : s1.wf := State.beginBundle_wf hs _ _
  split
  · refine andThen_wf (exec_wf _ h1) fun t ht => wfOut.next (wf_ite (State.modCtx_wf ht _ _) ht)
  · exact andThen_wf (runAll_wf _ h1) fun t ht => andThen_wf (runAll_wf _ (State.afterSlots_wf ht _ _)) fun u hu => wfOut.next (State.tick_wf hu _)

theorem State.consumeAt_wf {s : State} (hs : s.wf) (key : Nat) (array : Nat) (addr : W64) :
    (State.consumeAt s key array addr).wf := by
  unfold State.consumeAt
  with_reducible repeat' first | assumption | apply State.modCtx_wf | apply State.consume_wf

theorem State.rdvAgain_wf {s : State} (hs : s.wf) (key : Nat) (cause : Nat) :
    (State.rdvAgain s key cause).wf := by
  unfold State.rdvAgain
  with_reducible repeat' first
    | assumption | apply State.modCtx_wf | apply wf_ite | intro _ | apply wf_putBytes | refine State.wf.mem ?_
    | refine State.wf.host ?_ | apply wf_mk

theorem State.issueHead_wf {s : State} (hs : s.wf) (key : Nat) : wfTry (s.issueHead key) := by
  unfold State.issueHead
  dsimp only
  split
  · exact State.consumeAt_wf hs _ _ _
  · split
    · exact State.takeTrap_wf hs _ _ _
    · split
      · exact State.takeTrap_wf (State.rdvAgain_wf hs _ _) _ _ _
      · have h1 := State.readSources_wf hs (s.head key).instrs
        split
        · exact State.consumeAt_wf h1 _ _ _
        · have h2 := State.runBundle_wf h1 key (s.head key)
          split
          · rename_i e
            rw [e] at h2
            split
            · trivial
            · exact h2
          · exact h2

theorem State.try_wf {s : State} (hs : s.wf) (key : Nat) : wfTry (s.try key) := by
  unfold State.try
  split
  · trivial
  · split
    · trivial
    · split
      · trivial
      · exact State.issueHead_wf hs _

theorem State.tryCtx_wf {s : State} (hs : s.wf) (n : Nat) : wfTry (s.tryCtx n) := by
  unfold State.tryCtx
  split
  · trivial
  · split
    · trivial
    · exact State.try_wf (wf_mk hs.mem hs.host) _

theorem State.tryLead_wf {s : State} (hs : s.wf) (n : Nat) : wfTry (s.tryLead n) := by
  unfold State.tryLead
  exact State.tryCtx_wf (State.modCore_wf hs _ _) n

theorem State.firstLead_wf {s : State} (hs : s.wf) (ns : List Nat) {m : Nat} {o : Host.Outcome State Fault Refusal}
    (h : s.firstLead ns = some (m, o)) : wfOut o := by
  induction ns with
  | nil => cases h
  | cons n ns ih =>
    have h1 := State.tryLead_wf hs n
    unfold State.firstLead at h
    split at h
    · rename_i e
      rw [e] at h1
      cases h
      exact h1
    · exact ih h

theorem State.firstReady_wf {s : State} (hs : s.wf) (ns : List Nat) {m : Nat} {o : Host.Outcome State Fault Refusal}
    (h : s.firstReady ns = some (m, o)) : wfOut o := by
  induction ns with
  | nil => cases h
  | cons n ns ih =>
    have h1 := State.tryCtx_wf hs n
    unfold State.firstReady at h
    split at h
    · rename_i e
      rw [e] at h1
      cases h
      exact h1
    · exact ih h

theorem State.leadOf_wf {s : State} (hs : s.wf) (k : Nat) (ns : List Nat) {o : Host.Outcome State Fault Refusal}
    (h : (s.leadOf k ns).2 = some o) : wfOut o := by
  unfold State.leadOf at h
  dsimp only at h
  have h1 := State.tryCtx_wf hs (4 * k + (s.core k).lead % 4)
  split at h
  · rename_i e
    rw [e] at h1
    cases h
    exact h1
  · split at h
    · rename_i e
      cases h
      exact State.firstLead_wf hs _ e
    · cases h
  · cases h

theorem State.stepped_wf {s : State} (hs : s.wf) (n : Nat) (before : Nat) :
    (State.stepped s n before).wf := by
  unfold State.stepped
  with_reducible repeat' first
    | assumption | apply State.landStep_wf | apply State.takeTrap_wf | apply State.report_wf | apply State.modCore_wf | apply wf_ite
    | intro _ | apply wf_putBytes | refine State.wf.mem ?_ | refine State.wf.host ?_ | apply wf_mk

theorem State.mergeOne_wf {s : State} (hs : s.wf) (lead : Nat) (mask : Nat) (order : List Nat) : wfOut (State.mergeOne s lead mask order) := by
  unfold State.mergeOne
  dsimp only
  split
  · rename_i e
    exact andThen_wf (State.firstReady_wf hs _ e) fun t ht => wfOut.next (State.stepped_wf ht _ _)
  · exact hs

theorem State.restTicks_wf {s : State} (hs : s.wf) (k : Nat) (ns : List Nat) :
    (State.restTicks s k ns).wf := by
  unfold State.restTicks
  with_reducible repeat' first | assumption | apply State.idleTick_wf | apply wf_ite | apply wf_foldl | intro _

theorem State.issueStage_wf {s : State} (hs : s.wf) (k : Nat) : wfOut (State.issueStage s k) := by
  unfold State.issueStage
  extract_lets order ticking l s0
  have h0 : s0.wf := State.modCore_wf hs _ _
  split
  · exact andThen_wf (State.mergeOne_wf h0 _ _ _) fun t ht => wfOut.next (State.restTicks_wf ht _ _)
  · rename_i e
    refine andThen_wf (State.leadOf_wf hs _ _ e) fun t ht => ?_
    extract_lets t2
    have h2 : t2.wf := State.stepped_wf (wf_ite ht (State.modCore_wf ht _ _)) _ _
    exact wfOut_ite (wfOut.next h2) (wfOut_ite (wfOut.next (State.restTicks_wf h2 _ _))
      (andThen_wf (State.mergeOne_wf h2 _ _ _) fun t ht => wfOut.next (State.restTicks_wf ht _ _)))

theorem State.prepareHidden_wf {s : State} (hs : s.wf) (k : Nat) :
    (State.prepareHidden s k).wf := by
  unfold State.prepareHidden
  with_reducible repeat' first | assumption | apply State.landStep_wf | apply State.fenceStep_wf | apply State.headStep_wf | apply wf_ite | split

theorem State.handlerCycle_wf {s : State} (hs : s.wf) (k : Nat) (r : Nat) : wfOut (State.handlerCycle s k r) := by
  unfold State.handlerCycle
  extract_lets key s1
  have h1 : s1.wf := State.prepareHidden_wf (wf_mk hs.mem hs.host) _
  split
  · exact h1
  · split
    · exact wfOut.next (wf_ite (State.returnTrap_wf (State.modCtx_wf h1 _ _)) (wf_ite h1 (State.idleTick_wf h1 _)))
    · have h2 := State.try_wf h1 key
      split
      · rename_i e
        rw [e] at h2
        exact h2
      · exact State.idleTick_wf h1 _
      · exact h1

theorem State.countDown_wf {s : State} (hs : s.wf) (k : Nat) : (State.countDown s k).wf := by
  unfold State.countDown
  exact wf_foldl hs fun t n ht => wf_ite (State.modCtx_wf ht _ _) ht

theorem State.coreCycle_wf {s : State} (hs : s.wf) (k : Nat) : wfOut (State.coreCycle s k) := by
  unfold State.coreCycle
  extract_lets s1 s2
  have h1 : s1.wf := State.countDown_wf (State.stopTarget_wf hs _) _
  split
  · exact State.handlerCycle_wf h1 _ _
  · have h2 : s2.wf := wf_foldl h1 fun t n ht => State.prepare_wf ht _
    exact wfOut_ite (wfOut.next h2) (State.issueStage_wf h2 _)

theorem State.countDies_wf {s : State} (hs : s.wf) : (State.countDies s).wf := by
  unfold State.countDies
  exact wf_foldl hs fun t d ht => wf_ite (wf_mk ht.mem ht.host) ht

theorem State.holdTimed_wf {s : State} (hs : s.wf) (ticked : Nat → Bool) :
    (State.holdTimed s ticked).wf := by
  unfold State.holdTimed
  with_reducible repeat' first
    | assumption | apply wf_ite | intro _ | apply wf_putBytes | refine State.wf.mem ?_ | refine State.wf.host ?_ | apply wf_mk

theorem State.seenFlags_wf {s : State} (hs : s.wf) :
    (State.seenFlags s).wf := by
  unfold State.seenFlags
  with_reducible repeat' first
    | assumption | intro _ | apply wf_putBytes | refine State.wf.mem ?_ | refine State.wf.host ?_ | apply wf_mk

theorem State.reconNext_wf {s : State} (hs : s.wf) : (State.reconNext s).wf := by
  unfold State.reconNext
  with_reducible repeat' first | assumption | apply State.post_wf | apply wf_ite

theorem State.newCycle_wf {s : State} (hs : s.wf) : (State.newCycle s).wf := by
  unfold State.newCycle
  have h := State.countDies_wf (State.performWrites_wf hs s.timedStops)
  exact State.reconNext_wf (State.freed_wf (State.performReads_wf (State.seenFlags_wf (State.holdTimed_wf (wf_mk h.mem h.host) _)) _) _)

theorem State.clock_wf {s : State} (hs : s.wf) :
    wfOut (State.clock s) := by
  unfold State.clock
  with_reducible repeat' first
    | assumption | apply State.newCycle_wf | apply State.coreCycle_wf | apply wfOut.next | apply wfOut.fault | apply wfOut.refused
    | apply andThen_wf | apply wf_putBytes | refine State.wf.mem ?_ | refine State.wf.host ?_ | split | apply wf_mk

theorem State.runTurn_wf {s : State} (hs : s.wf) (t : Turn) :
    wfOut (State.runTurn s t) := by
  unfold State.runTurn
  with_reducible repeat' first
    | assumption | apply State.clock_wf | apply exec_wf | apply wf_ite | apply wfOut_ite | apply wfOut.next | apply wfOut.fault
    | apply wfOut.refused | apply andThen_wf | apply wf_putBytes | refine State.wf.mem ?_ | refine State.wf.host ?_ | split
    | apply wf_mk

theorem State.next_wf {s : State} (hs : s.wf) :
    wfOut (State.next s) := by
  unfold State.next
  with_reducible repeat' first
    | assumption | apply State.runTurn_wf | apply State.clock_wf | apply wfOut.next | apply wfOut.fault | apply wfOut.refused
    | apply andThen_wf | apply wf_putBytes | refine State.wf.mem ?_ | refine State.wf.host ?_ | split | apply wf_mk

theorem State.placeTask_wf {s : State} (hs : s.wf) :
    (State.placeTask s).wf := by
  unfold State.placeTask
  with_reducible repeat' first
    | assumption | apply State.modCore_wf | apply State.modCtx_wf | intro _ | apply wf_putBytes | refine State.wf.mem ?_
    | refine State.wf.host ?_ | apply wf_mk

theorem State.placeRows_wf {s : State} (hs : s.wf) :
    (State.placeRows s).wf := by
  unfold State.placeRows
  with_reducible repeat' first
    | assumption | apply State.modCtx_wf | apply wf_ite | apply wf_foldl | apply wf_foldlP | intro _ | apply wf_putBytes
    | refine State.wf.mem ?_ | refine State.wf.host ?_ | apply wf_mk

theorem State.placeBundle_wf {s : State} (hs : s.wf) (w : Nat) :
    (State.placeBundle s w).wf := by
  unfold State.placeBundle
  with_reducible repeat' first | assumption | apply State.placeRows_wf | apply State.placeTask_wf | apply State.putMem_wf

end Sys2Proof.Machine
end

