-- ==== Sys2Proof/Tests/Slice0.lean ====
section
/-! SUPPORT. Tests of the model: ill-formed terms that the check refuses, words decoded bit by bit from the spec's encodings, single steps with
the spec's own worked values, and for the statements concrete states that meet their hypotheses. -/

namespace Sys2Proof.Tests

set_option Elab.async false

open Sys2Proof Sys2Proof.Machine Sys2Proof.Claims

/-! Small terms and states. -/

def g0 : Gd := ⟨0, false⟩
def ra (sd sa sb : BitVec 6) : RArgs := ⟨.p0, g0, sd, sa, sb⟩
def ia (sd sa : BitVec 6) (imm : BitVec 12) : IArgs := ⟨.p0, g0, sd, sa, imm⟩
def vr (fmt : BitVec 4) (vd va vb vc : BitVec 11) (mod : Bool) : VArgs := ⟨.p0, g0, fmt, vc, vb, va, vd, mod⟩
def ma (ext : BitVec 4) (off : BitVec 20) (base : BitVec 6) (rows : BitVec 3) (v : BitVec 11) (mods : BitVec 5) : MArgs :=
  ⟨g0, mods, ext, off, base, rows, v, 0⟩
def xa (tile : BitVec 3) (arow brow : BitVec 15) (acc : Bool) (fmta fmtb : BitVec 4) : XArgs :=
  ⟨0, 0, false, false, false, 0, brow, arow, acc, tile, fmtb, fmta⟩

/-! Ill-formed terms, at least one for each check, beside a term that the check accepts. -/

def refused (l : List Instr) : Bool := l.all fun i => !i.wf
def accepted (l : List Instr) : Bool := l.all Instr.wf

theorem test_wf_control : refused [.fence 6 0, .fence 7 0, .trap 0 1, .trap 0x19 1, .trap 0x0F 1, .trap 0x16 1] = true ∧
    accepted [.fence 5 0, .trap 0x18 1, .trap 1 0] = true := by decide +kernel
theorem test_wf_scalar : refused [.clz (ra 1 2 3), .popc (ra 1 2 3), .shli (ia 1 2 64), .shri (ia 1 2 64), .srai (ia 1 2 64), .cmpeq (ra 32 1 1),
    .cmplt (ra 32 1 1), .cmpltu (ra 32 1 1), .cmpeqi (ia 32 1 1), .cmplti (ia 32 1 1), .ixr (ia 1 1 0), .ixr (ia 1 0 6), .elen (ia 1 1 0),
    .elen (ia 1 0 16), .elenPiece (ia 1 1 16), .elenPiece (ia 1 0 15), .elenPiece (ia 1 0 32)] = true ∧
    accepted [.clz (ra 1 2 0), .shli (ia 1 2 63), .cmpeq (ra 31 1 1), .ixr (ia 1 0 5), .elen (ia 1 0 15), .elenPiece (ia 1 0 31)] = true := by
  decide +kernel
theorem test_wf_float : refused [.vadd (vr 8 1 2 3 0 false), .vadd (vr 0 1 2 3 1 false), .vadd (vr 0 1 2 3 0 true), .vfma (vr 8 1 2 3 4 false),
    .vfma (vr 0 1 2 3 4 true), .vabs (vr 8 1 2 0 0 false), .vabs (vr 0 1 2 1 0 false), .vneg (vr 0 1 2 0 1 false), .vneg (vr 0 1 2 0 0 true),
    .vrnd (vr 8 1 2 0 0 false), .vrnd (vr 0 1 2 1 0 false), .vrnd (vr 0 1 2 0 1 false), .vexp2 (vr 1 1 2 0 0 false), .vexp (vr 0 1 2 1 0 false)] = true ∧
    accepted [.vadd (vr 2 1 2 3 0 false), .vfma (vr 1 1 2 3 4 false), .vrnd (vr 0 1 2 0 0 true)] = true := by decide +kernel
theorem test_wf_compare : refused [.vcmp (vr 1 1 2 3 0 false), .vcmp (vr 0 16 2 3 0 false), .vcmp (vr 0 1 2 3 5 false), .vicmp (vr 10 1 2 3 0 false),
    .vicmp (vr 8 1 2 3 3 false), .vsel (vr 8 1 2 3 0 false), .vsel (vr 0 1 2 3 1 false)] = true ∧
    accepted [.vcmp (vr 0 15 2 3 4 true), .vicmp (vr 9 1 2 3 4 false)] = true := by decide +kernel
theorem test_wf_convert : refused [.vcvt (vr 5 1 2 0 0 false), .vcvt (vr 0 1 2 0 5 false), .vcvt (vr 0 1 2 1 1 false), .vcvt (vr 0 1 2 0 64 false),
    .vcvt (vr 0 1 2 0 0x21 false), .vcvt (vr 0 1 2 0 1 true)] = true ∧ accepted [.vcvt (vr 3 1 2 0 0x30 true), .vcvt (vr 0 1 2 0 0x11 false)] = true := by
  decide +kernel
theorem test_wf_integer : refused [.viadd (vr 0 1 2 3 0 false), .viadd (vr 8 1 2 3 0 true), .visub (vr 8 1 2 3 1 false), .vimul (vr 10 1 2 3 0 false),
    .vimad (vr 11 1 2 3 4 false), .vand (vr 1 1 2 3 0 false), .vshl (vr 0 1 2 3 0 false), .vshl (vr 8 1 2 1 3 true), .vshl (vr 8 1 2 0 32 true),
    .vshr (vr 10 1 2 0 8 true), .vsra (vr 8 1 2 3 1 false)] = true ∧ accepted [.visub (vr 8 1 2 3 0 true), .vshl (vr 10 1 2 0 7 true)] = true := by
  decide +kernel
theorem test_wf_moves : refused [.vmov (vr 0 1 2 1 0 false), .vpack (vr 8 1 2 0 0 false), .vbcast (vr 0 1 2 0 32 false), .vbcast (vr 0 1 2 0 1 true),
    .vbcastI (vr 0 1 1 0 5 true), .vext (vr 0 1 2 3 32 false), .vins (vr 0 1 2 0 1024 false), .vperm (vr 0 1 2 3 1 false), .vpermX (vr 0 1 2 3 4 false),
    .vrot (vr 0 1 2 0 32 false), .vrotV (vr 0 1 2 3 1 true), .vrmrg (vr 0 1 2 3 128 false), .vrmrgV (vr 0 1 2 3 4 false), .vzip (vr 0 1 2 3 1 false),
    .vlane (vr 0 1 1 0 3 false), .vlaneMul (vr 0 1 0 0 3 false), .vxs (vr 0 64 1 0 0 false), .vxs (vr 0 1 1 0 32 false), .vxs (vr 0 1 1 0 1 true)] = true ∧
    accepted [.vins (vr 0 1 2 0 1023 false), .vrmrg (vr 0 1 2 3 127 false), .vxs (vr 0 63 1 0 30 true)] = true := by decide +kernel
theorem test_wf_reductions : refused [.vrsum (vr 8 1 2 0 0 false), .vrmax (vr 1 1 2 0 0 false), .vramax (vr 8 1 2 0 0 false), .vrisum (vr 0 1 2 0 0 false),
    .vrisum (vr 8 1 2 1 0 false), .gand (vr 0 16 1 1 0 false), .gor (vr 0 1 16 1 0 false), .gxor (vr 0 1 1 16 0 false), .gandn (vr 0 1 1 1 1 false),
    .gcnt (vr 1 1 1 0 0 false), .gcnt (vr 0 1 16 0 0 false), .gset (vr 0 16 1 0 0 false), .gsetN (vr 0 1 0 0 33 true), .gsetN (vr 0 1 0 0 3 false),
    .vrng (vr 1 1 0 0 0 false), .vrng (vr 0 1 1 0 0 false), .vrngf (vr 12 1 0 0 0 false)] = true ∧
    accepted [.vrmax (vr 9 1 2 0 0 false), .gsetN (vr 0 1 0 0 32 true), .vrng (vr 12 1 0 0 0 false)] = true := by decide +kernel
theorem test_wf_memory : refused [.ldr (ma 1 0 1 0 1 0), .str (ma 0 0 1 0 1 1), .pld (ma 0 0 1 7 2041 0), .ldrs (ma 1 0 1 0 1 2), .stash (ma 5 0 1 0 1 0),
    .stash (ma 0 0 1 0 1 4), .pstash (ma 0 0 1 7 2041 0), .stmc (ma 0 256 1 0 1 0), .stmc (ma 0 0 1 1 1 0), .gld (ma 1 0 1 0 1 1), .gsts (ma 1 0 1 7 2041 1),
    .qld (ma 0 0 1 1 1 0), .qscat (ma 0 0 1 0 2040 0), .atom (ma 0 0 1 0 1 13), .atom (ma 0 0 1 2 1 0), .atomr (ma 0 0 1 1 1 1), .atomr (ma 0 0 1 0 2047 10)] = true ∧
    accepted [.pld (ma 0 0 1 7 2040 0), .stash (ma 0 0 1 0 1 3), .stmc (ma 0 255 1 0 1 0), .qld (ma 0 0 1 0 2039 0), .atom (ma 0 0 1 1 1 12)] = true := by
  decide +kernel
theorem test_wf_scale : refused [.scld ⟨0x1C0000, 1⟩, .scmov ⟨0x800, 1⟩, .scmovToVector ⟨0, 1⟩, .qmax ⟨0x8000, 1⟩, .qcvt ⟨0, 1⟩, .qcvt ⟨0x87FF, 1⟩,
    .qcvt ⟨0xC8000, 1⟩, .qstep ⟨0x28000, 1⟩, .qcvtDec ⟨0x8000, 1⟩, .qcvtDec ⟨0x28800, 1⟩] = true ∧
    accepted [.scld ⟨0, 1⟩, .scmovToVector ⟨0x800, 1⟩, .qcvt ⟨0x88001, 1⟩, .qcvtDec ⟨0x28001, 1⟩] = true := by decide +kernel
theorem test_wf_matrix : refused [.tmul (xa 0 0 0 false 1 3), .tmul { xa 0 0 0 false 1 1 with fn := 1 }, .tmul { xa 0 1 0 false 1 1 with ga := true },
    .tmuls { xa 0 0 1 false 1 1 with gb := true }, .tzero (xa 0 1 0 false 0 0), .tzero (xa 0 0 0 true 0 0), .tlda (xa 0 0 0 false 3 0), .tlda (xa 0 0 1 false 0 0),
    .tsta (xa 0 0 0 false 5 0), .tsta { xa 0 0 0 false 0 0 with fn := 1 }, .ta2v (xa 0 2017 0 false 0 0), .tv2a (xa 0 0 0 false 1 0), .tadd (xa 0 8 0 false 0 0),
    .ttrans (xa 0 0 0 true 0 0), .tcopy (xa 0 0 0 false 0 1), .tscale (xa 0 1 0 false 0 0), .tbias { xa 0 0 0 false 0 0 with fn := 2 },
    .tact { xa 0 0 0 false 0 0 with fn := 5 }, .tred { xa 0 0 0 false 0 0 with fn := 5 }, .tnorm { xa 0 0 0 false 0 0 with fn := 2 }, .kat 4 0 0] = true ∧
    accepted [.tmul (xa 0 0 0 true 3 4), .ta2v (xa 0 2016 0 false 0 0), .tact { xa 0 0 0 false 0 0 with fn := 4 }, .kat 3 0 0] = true := by decide +kernel
theorem test_wf_engine : refused [.copy ⟨true, 0, 0, 0⟩, .pub ⟨true, 0, 0, 0⟩, .wplan ⟨true, 0, 0, 0⟩, .etab ⟨true, 0, 0, 0⟩] = true ∧
    accepted [.copy ⟨false, 0, 0, 0⟩, .post ⟨true, 0, 0, 0⟩, .xchg ⟨true, 0, 0, 0⟩] = true := by decide +kernel

/-! Words written out from the spec's encodings (R235 to R251, R340, R355), one family after another. -/

/-- C: MASK bit 0; CSRW's worked parcel 0x0111_4018 (R388), `BRG !g3, +2`: op 0x04, [11:8] g, [12] invert, [31:13] offset (R240). -/
theorem test_decode_control : decodeBundle [0x00000001, 0x01114018] = some [.csrw 0 0x445] ∧
    decodeBundle [0x00000001, 0x00005304] = some [.brg 3 true 2] ∧ decodeBundle [0x00000001, 0x0000000A] = some [.tend] := by decide +kernel
/-- P0: the scalar half's worked word of `ELEN.PIECE s3, e2` is 0x0120_0328 (R304); VXS's vector half 0x0808_003C (R319). -/
theorem test_decode_pair : decodeBundle [0x00000002, 0x01200328, 0, 0] = some [.elenPiece (ia 3 0 0x12), .vnop .p0 g0] ∧
    decodeBundle [0x00000002, 0x00000000, 0x0808003C, 0] = some [.snop .p0 g0, .vxs (vr 0 8 1 0 0 false)] := by decide +kernel
/-- GS: QLD's worked parcels (R336). MX: TSTA a0 and `TSTA a7, sp:0x6020` (R350). KT: op 0x01 at MASK bit 10. -/
theorem test_decode_slots : decodeBundle [0x00000040, 0x04019145, 0x00040004] = some [.qld ⟨g0, 0, 1, 0x10, 4, 0, 100, 5⟩] ∧
    decodeBundle [0x00000080, 0x80000005, 0x00000001] = some [.tsta (xa 0 0x6000 0 false 0 0)] ∧
    decodeBundle [0x00000080, 0x8081C005, 0x00000001] = some [.tsta (xa 7 0x6020 0 false 0 0)] := by decide +kernel
/-- A reserved opcode in each kind of slot, and a header with no slot for its parcels, are refused. -/
theorem test_decode_refuses : decodeBundle [0x00000001, 0x0000003F] = none ∧ decodeBundle [0x00000008, 0x0000003F, 0] = none ∧
    decodeBundle [0x00000080, 0x0000003F, 0] = none ∧ decodeBundle [0x00000200, 0x0000001F] = none := by decide +kernel

/-! Single steps with the spec's own worked values. -/

/-- A device whose context 0 of core 0 is `c`; a live map, so that units answer. -/
def one (c : Ctx) : State := { State.reset with ctxs := [(0, c)], map := { State.reset.map with cores := BitVec.allOnes 512 } }
def after (o : Host.Outcome State Fault Refusal) : State := match o with | .next t => t | _ => State.reset
/-- The results that an operation of context 0 puts into its landing buffer: register, tick, data, mask. -/
def landed (i : Instr) (c : Ctx) : List (Nat × Nat × Nat × Nat) :=
  (after (exec i (one c))).me.land.map fun e => (e.dest, e.tick, e.data.toNat, e.mask.toNat)
/-- Lane l of the only result. -/
def laneGot (i : Instr) (c : Ctx) (l : Nat) : Nat := match landed i c with | [e] => lane (BitVec.ofNat 1024 e.2.2.1) l | _ => 2 ^ 64
def withS (l : AMap W64) : Ctx := { Ctx.reset with s := l }
def withV (l : AMap Row) : Ctx := { Ctx.reset with v := l }
def row (l : List Nat) : Row := BitVec.ofNat 1024 (packRegs 32 (fun i => l.getD i 0) 32)
def w64 : Nat := 2 ^ 64 - 1

/-- R298: DIV of −7 by 2 gives −3, REM −1, DIVU 0x7FFF_FFFF_FFFF_FFFC, REMU 1; by 0 −1, and the dividend. -/
theorem test_div : landed (.div (ra 3 1 2)) (withS [(1, -7), (2, 2)]) = [(3, 12, 2 ^ 64 - 3, w64)] ∧
    landed (.div (ra 3 1 2)) (withS [(1, -7)]) = [(3, 12, w64, w64)] := by decide +kernel
theorem test_rem : landed (.rem (ra 3 1 2)) (withS [(1, -7), (2, 2)]) = [(3, 12, w64, w64)] ∧
    landed (.rem (ra 3 1 2)) (withS [(1, 2 ^ 63), (2, -1)]) = [(3, 12, 0, w64)] := by decide +kernel
theorem test_divu : landed (.divu (ra 3 1 2)) (withS [(1, -7), (2, 2)]) = [(3, 12, 0x7FFFFFFFFFFFFFFC, w64)] := by decide +kernel
theorem test_remu : landed (.remu (ra 3 1 2)) (withS [(1, -7), (2, 2)]) = [(3, 12, 1, w64)] := by decide +kernel
/-- R297, R299: addition wraps; the multiplication's high half is signed; a shift of 64 shifts by 0; SRA copies the sign. -/
theorem test_add_wraps : landed (.add (ra 3 1 2)) (withS [(1, -1), (2, 2)]) = [(3, 1, 1, w64)] := by decide +kernel
theorem test_mulh : landed (.mulh (ra 3 1 2)) (withS [(1, -1), (2, 2)]) = [(3, 3, w64, w64)] ∧
    landed (.mulhu (ra 3 1 2)) (withS [(1, -1), (2, 2)]) = [(3, 3, 1, w64)] := by decide +kernel
theorem test_shl_64 : landed (.shl (ra 3 1 2)) (withS [(1, 5), (2, 64)]) = [(3, 1, 5, w64)] := by decide +kernel
theorem test_sra : landed (.sra (ra 3 1 2)) (withS [(1, 2 ^ 63), (2, 63)]) = [(3, 1, w64, w64)] := by decide +kernel
/-- R249, R295: s0 reads 0 and a write to it is discarded. -/
theorem test_s0 : landed (.addi (ia 0 1 5)) (withS [(1, 7)]) = [] ∧ landed (.add (ra 3 0 1)) (withS [(1, 7)]) = [(3, 1, 7, w64)] := by decide +kernel
/-- R300: CMPLTI g2, s4, −3 with s4 = −5: c and all lanes; as g2.c the c bit alone. -/
theorem test_cmplti : landed (.cmplti (ia 2 4 (-3))) (withS [(4, -5)]) = [(2, 1, 2 ^ 33 - 1, 2 ^ 33 - 1)] ∧
    landed (.cmplti (ia 0x12 4 (-3))) (withS [(4, -5)]) = [(2, 1, 2 ^ 32, 2 ^ 32)] := by decide +kernel
/-- R301: SEL takes a under a condition that holds, else b. -/
theorem test_sel : landed (.sel ⟨.p0, ⟨3, false⟩, 6, 4, 5⟩) (withS [(4, 10), (5, 20)]) = [(6, 1, 20, w64)] ∧
    landed (.sel ⟨.p0, ⟨3, true⟩, 6, 4, 5⟩) (withS [(4, 10), (5, 20)]) = [(6, 1, 10, w64)] := by decide +kernel
/-- R302: the sync address built in four steps: its second and last. -/
theorem test_lui : landed (.lui ⟨.p0, g0, 1, 0x30000⟩) (withS [(1, 0x37)]) = [(1, 1, 0xDF0000, w64)] ∧
    landed (.lui ⟨.p0, g0, 1, 0x800⟩) (withS [(1, 0x37C00002000)]) = [(1, 1, 0x0DF0000080000800, w64)] := by decide +kernel
theorem test_li : landed (.li ⟨.p0, g0, 1, 0x3FFFF⟩) (withS []) = [(1, 1, w64, w64)] := by decide +kernel
/-- R303: BFX 4, 8 of 0xABCD is 0xBC; BFI at 60 of width 8 keeps only 4 bits; a field across bit 63 ends there. -/
theorem test_bfx : landed (.bfx (ia 3 1 (BitVec.ofNat 12 (4 + 64 * 7)))) (withS [(1, 0xABCD)]) = [(3, 1, 0xBC, w64)] ∧
    landed (.bfx (ia 3 1 (BitVec.ofNat 12 (60 + 64 * 7)))) (withS [(1, -1)]) = [(3, 1, 15, w64)] := by decide +kernel
theorem test_bfi : landed (.bfi (ia 3 1 (BitVec.ofNat 12 (60 + 64 * 7)))) (withS [(1, 0xABCD), (3, -1)]) = [(3, 1, 0xDFFFFFFFFFFFFFFF, w64)] := by
  decide +kernel
def pieces3 : Ctx :=
  let e (len next : Nat) (chain : Bool) : Extent := { Extent.none with valid := true, len := len, chain := chain, next := BitVec.ofNat 4 next }
  { Ctx.reset with ext := [.none, .none, e 4096 8 true, .none, .none, .none, .none, .none, e 8192 9 true, e 1024 0 false] }
/-- R304: range 2 in three pieces: 13,312 rows in all, 4,096 in the first, 9,216 from the second on. -/
theorem test_elen : landed (.elen (ia 3 0 2)) pieces3 = [(3, 1, 13312, w64)] ∧ landed (.elen (ia 3 0 8)) pieces3 = [(3, 1, 9216, w64)] := by decide +kernel
theorem test_elen_piece : landed (.elenPiece (ia 3 0 0x12)) pieces3 = [(3, 1, 4096, w64)] ∧ landed (.elenPiece (ia 3 0 0x10)) pieces3 = [(3, 1, 0, w64)] := by
  decide +kernel
theorem test_clz : landed (.clz (ra 3 1 0)) (withS [(1, 1)]) = [(3, 1, 63, w64)] ∧ landed (.clz (ra 3 1 0)) (withS []) = [(3, 1, 64, w64)] := by decide +kernel

/-- R191, R309: 1.0 + 1.0 is 2.0, ∞ − ∞ the canonical NaN with NV. -/
theorem test_vadd : laneGot (.vadd (vr 0 3 1 2 0 false)) (withV [(1, row [0x3F800000]), (2, row [0x3F800000])]) 0 = 0x40000000 ∧
    ((after (exec (.vadd (vr 0 3 1 2 0 false)) (one (withV [(1, row [0x7F800000]), (2, row [0xFF800000])])))).me.land.map fun e =>
      (lane e.data 0, e.flags)) = [(0x7FC00000, 1)] := by decide +kernel
/-- R309: the fused product rounds once: (1 + 2^-12)² − 1 = 2^-11 + 2^-24. -/
theorem test_vfms : laneGot (.vfms (vr 0 4 1 1 2 false)) (withV [(1, row [0x3F800800]), (2, row [0x3F800000])]) 0 = 0x3A000400 := by decide +kernel
/-- R310: +0 is larger than −0; VABS clears the sign. -/
theorem test_vmax : laneGot (.vmax (vr 0 3 1 2 0 false)) (withV [(1, row [0x80000000])]) 0 = 0 ∧
    laneGot (.vmin (vr 0 3 1 2 0 false)) (withV [(1, row [0x80000000])]) 0 = 0x80000000 := by decide +kernel
theorem test_vabs : laneGot (.vabs (vr 0 3 1 0 0 false)) (withV [(1, row [0xBFC00000])]) 0 = 0x3FC00000 := by decide +kernel
/-- R190: 0.1 converts to E4M3 0x1D, E5M2 0x2E; −1.5 to BF16 0xBFC0. -/
theorem test_vcvt : (laneGot (.vcvt (vr 3 3 1 0 0 false)) (withV [(1, row [0x3DCCCCCD])]) 0) % 256 = 0x1D ∧
    (laneGot (.vcvt (vr 4 3 1 0 0 false)) (withV [(1, row [0x3DCCCCCD])]) 0) % 256 = 0x2E := by decide +kernel
/-- R204: 2^3 = 8 and 1 / 4 = 0.25 exactly; √2 rounded to nearest. -/
theorem test_vexp2 : laneGot (.vexp2 (vr 0 3 1 0 0 false)) (withV [(1, row [0x40400000])]) 0 = 0x41000000 := by decide +kernel
theorem test_vrcp : laneGot (.vrcp (vr 0 3 1 0 0 false)) (withV [(1, row [0x40800000])]) 0 = 0x3E800000 := by decide +kernel
theorem test_vsqrt : laneGot (.vsqrt (vr 0 3 1 0 0 false)) (withV [(1, row [0x40000000])]) 0 = 0x3FB504F3 := by decide +kernel
/-- R316: I8 addition wraps at 8 bits and saturates with VIADDS. -/
theorem test_viadd : laneGot (.viadd (vr 10 3 1 2 0 false)) (withV [(1, row [0x7F]), (2, row [1])]) 0 = 0x80 := by decide +kernel
theorem test_viadds : laneGot (.viadds (vr 10 3 1 2 0 false)) (withV [(1, row [0x7F]), (2, row [1])]) 0 = 0x7F := by decide +kernel
theorem test_vimul_hi : laneGot (.vimul (vr 8 3 1 2 0 true)) (withV [(1, row [0xFFFFFFFF]), (2, row [2])]) 0 = 0xFFFFFFFF := by decide +kernel
/-- R317: VSRA copies the element's top bit; the count of a register is taken modulo the width. -/
theorem test_vsra : laneGot (.vsra (vr 10 3 1 0 3 true)) (withV [(1, row [0x80])]) 0 = 0xF0 := by decide +kernel
theorem test_vshl : laneGot (.vshl (vr 8 3 1 2 0 false)) (withV [(1, row [1]), (2, row [33])]) 0 = 2 := by decide +kernel
/-- R312: VCMP.LT with a NaN is false; c is the OR over lanes. -/
theorem test_vcmp : landed (.vcmp (vr 0 2 1 3 1 false)) (withV [(1, row [0x7FC00000, 1]), (3, row [0, 2])]) = [(2, 4, 2 ^ 32 + 2, 2 ^ 33 - 1)] := by
  decide +kernel
/-- R313: VSEL writes every lane. -/
theorem test_vsel : laneGot (.vsel ⟨.p0, ⟨5, false⟩, 0, 0, 2, 1, 3, false⟩) (withV [(1, row [7]), (2, row [9])]) 0 = 9 := by decide +kernel
/-- R320: VRMRG v9, v6, v7, 0x35 starts at byte 0x35 of v6. -/
theorem test_vrmrg : laneGot (.vrmrg (vr 0 9 6 7 0x35 false)) (withV [(6, BitVec.ofNat 1024 (0xAB * 2 ^ (8 * 0x35))), (7, BitVec.ofNat 1024 0xCD)]) 0 = 0xAB ∧
    laneGot (.vrmrg (vr 0 9 6 7 0x7C false)) (withV [(7, BitVec.ofNat 1024 0xCD)]) 1 = 0xCD := by decide +kernel
def lanes64 : Ctx := { withV [(20, row ((List.range 32).map (· + 100)))] with g := [(4, 0xA6)] }
/-- R321: lanes 1, 2, 5 and 7 compacted into lanes 0 to 3, and no other lane written. -/
theorem test_vpack : ((List.range 4).map (laneGot (.vpack ⟨.p0, ⟨4, false⟩, 0, 0, 0, 20, 3, false⟩) lanes64)) = [101, 102, 105, 107] ∧
    (landed (.vpack ⟨.p0, ⟨4, false⟩, 0, 0, 0, 20, 3, false⟩) lanes64).map (·.2.2.2) = [2 ^ 128 - 1] := by decide +kernel
theorem test_gcnt : laneGot (.gcnt (vr 0 3 4 0 0 false)) lanes64 31 = 4 := by decide +kernel
def sumCtx : Ctx := { withV [(2, row [0x4B800000, 0x3F800000, 0x3F800000, 0x3F800000])] with g := [(6, 15)] }
/-- R322: the tree sum of 2^24, 1, 1, 1 is 0x4B80_0001 in all 32 lanes. -/
theorem test_vrsum : (List.range 32).all (fun l => laneGot (.vrsum ⟨.p0, ⟨6, false⟩, 0, 0, 0, 2, 9, false⟩) sumCtx l == 0x4B800001) = true := by decide +kernel
theorem test_vrisum : laneGot (.vrisum (vr 8 9 2 0 0 true)) (withV [(2, row [0x7FFFFFFF, 1])]) 5 = 0x7FFFFFFF := by decide +kernel
/-- R324: GSET.N 19 sets lanes 0 to 18. -/
theorem test_gset_n : landed (.gsetN (vr 0 7 0 0 19 true)) (withV []) = [(7, 2, 2 ^ 32 + 2 ^ 19 - 1, 2 ^ 33 - 1)] := by decide +kernel
/-- R319: VXS takes a lane into a scalar register two ticks on. -/
theorem test_vxs : landed (.vxs (vr 0 8 1 0 0 false)) (withV [(1, row [1])]) = [(8, 2, 1, w64)] := by decide +kernel
/-- R272: CTXID of context 2 of core 130 on device 3 is 0x1A0A. -/
theorem test_csrr_ctxid : ((after (exec (.csrr 4 0) { State.reset with cur := 522, dev := { State.reset.dev with devid := 3 } })).me.land.map
    fun e => (e.dest, e.data)) = [(4, 0x1A0A)] := by decide +kernel
/-- R196, R197, R198: the worked P4 block: its bytes, and what x5 decodes to. -/
def p4xs : List Nat := [0x40400000, 0xBF000000, 0x3E99999A, 0xBE4CCCCD, 0x3F800000, 0x3F600000] ++ List.replicate 10 0
theorem test_pleat_p4 : pleatExp p4xs = 0x80 ∧ (pleatWith 4 0x80 p4xs).1 = 0x0849_0A4C_FA80 := by decide +kernel
theorem test_pleat_decode : pleatDecode 4 0x0849_0A4C_FA80 5 = 0x3F800000 ∧ pleatDecode 4 0x0849_0A4C_FA80 2 = 0x3E800000 := by decide +kernel
/-- R275: a taken branch goes to the bundle's first word plus the offset. -/
theorem test_br : (after (exec (.br (-14)) (one { Ctx.reset with pc := 0x1000, next := 0x1003 }))).me.next = 0xFF2 := by decide +kernel
theorem test_brz : (after (exec (.brz 1 5) (one { withS [(1, 2 ^ 63)] with pc := 0x1000, next := 0x1003 }))).me.next = 0x1003 := by decide +kernel
theorem test_call : landed (.call 8) { Ctx.reset with pc := 0x1000, next := 0x1003 } = [(63, 1, 0x1003, w64)] := by decide +kernel
/-- R288: TRAP 0x11, 1 sets bit 62 of TVAL and TPC to the next bundle. -/
def handled (c : Ctx) : State := { one { c with pc := 0x1000, next := 0x1003 } with cores := [(0, { Core.reset with region := [(0, 0xFFFF, 64, 64)] })] }
theorem test_trap : let t := after (exec (.trap 0x11 1) (handled Ctx.reset))
    (t.tgt.csr.tcause, t.tgt.csr.tval, t.tgt.csr.tpc, t.hidden) = (0x11, 0x4000000000000001, 0x1003, true) := by decide +kernel
theorem test_bkpt : let t := after (exec (.bkpt 7) (handled Ctx.reset))
    (t.tgt.csr.tcause, t.tgt.csr.tval) = (0x11, 7) := by decide +kernel
/-- R271: outside a handler CSRR of 0x305 traps PRIV with the number in TVAL[27:16]. -/
theorem test_csrr_priv : let t := after (exec (.csrr 4 0x305) (handled Ctx.reset))
    (t.tgt.csr.tcause, fld t.tgt.csr.tval 16 12, t.tgt.csr.tpc) = (3, 0x305, 0x1000) := by decide +kernel
/-- R329: STASH.BF16 with column 1 and 8 rows of the registers writes bytes 16 to 31 of 64 rows. -/
theorem test_stash : let q := (after (exec (.stash { ma 1 0x1000 0 7 64 1 with lat := 0 }) (one Ctx.reset))).me.q
    (q.length, q.map fun x => match x.what with | .st _ m _ => m.toNat | _ => 0) = (64, List.replicate 64 ((2 ^ 128 - 1) * 2 ^ 128)) := by decide +kernel
/-- R109, R279: TEND begins the drain; R287: FENCE waits from the next bundle on; R286: f15 cannot be set. -/
theorem test_tend : (after (exec .tend (one Ctx.reset))).me.hold = .ending none := by decide +kernel
theorem test_fence : (after (exec (.fence 1 3) (one Ctx.reset))).me.hold = .fence 1 3 := by decide +kernel
theorem test_fset : (after (exec (.fset 0x8002) (one Ctx.reset))).me.f = 2 := by decide +kernel
/-- R289: RFT outside a handler traps PRIV. -/
theorem test_rft : (after (exec .rft (handled Ctx.reset))).tgt.csr.tcause = 3 := by decide +kernel
/-- R105, R106: a store of 1 through the arm view leaves a DEP word with COUNT 1; DEC through view 0 then takes it to 0 and sets
bit 49. -/
def word : Nat := 0x00F0000080000800
theorem test_sync_arm : let t := after (exec (.syncStore (BitVec.ofNat 64 (word + 2 ^ 56)) 1) { State.reset with map := { State.reset.map with dies := 255 } })
    (t.syWord word).kind = .dep ∧ (t.syWord word).val = 1 ∧ (after (exec (.syncDec (BitVec.ofNat 64 word)) t)).syWord word = ⟨.dep, 2 ^ 49⟩ := by decide +kernel

/-! For each statement with hypotheses, states and operands that meet them: one theorem a statement, one part for each clause, with
values at the ends of the ranges where a clause has one. -/

def s0 : State := one Ctx.reset
/-- A guard that disables the whole half. -/
def off : Gd := ⟨3, false⟩
def raOff : RArgs := { ra 3 1 2 with gd := off }
def iaOff : IArgs := { ia 3 1 2 with gd := off }

theorem witness_ScalarRegisterForms : s0.scalarOn (ra 63 1 2).gd.g (ra 63 1 2).gd.inv = true ∧ (ra 63 1 2).sd ≠ 0 := by decide +kernel
def landE (issued : Nat) : LandEntry := ⟨.scalar, 5, 4, issued, 0, 0, 9, BitVec.ofNat 1024 (2 ^ 64 - 1), 0, none, true, none, 0, none, 0⟩
def landing2 (e f : LandEntry) : State := one { Ctx.reset with schc := 4, land := [e, f] }
theorem witness_ScalarDivision : (s0.scalarOn (ra 1 1 2).gd.g (ra 1 1 2).gd.inv = true ∧ (ra 1 1 2).sd ≠ 0) ∧
    ∀ s ∈ [landing2 (landE 2) (landE 3), landing2 (landE 3) (landE 2)], let c := s.ctx s.unit
      s.unit < 2048 ∧ (c.land = [landE 2, landE 3] ∨ c.land = [landE 3, landE 2]) ∧ c.poisoned = none ∧ s.frozenLand s.unit = false ∧ bit (s.reg 0x301) 63 = false ∧
      (∀ x ∈ [landE 2, landE 3], x.kind = .scalar ∧ x.dest = (landE 2).dest ∧ x.tick = (landE 2).tick ∧ x.tick ≤ c.schc ∧
        x.mask = BitVec.ofNat 1024 (2 ^ 64 - 1) ∧ x.flags = 0 ∧ x.gone = none ∧ x.poison = none) ∧
      (landE 2).dest ≠ 0 ∧ (landE 2).issued < (landE 3).issued := by decide +kernel
theorem witness_ScalarImmediateForms : (s0.scalarOn (ia 1 1 2).gd.g (ia 1 1 2).gd.inv = true ∧ (ia 1 1 2).sd ≠ 0) ∧
    (s0.tgt.extent ((ia 1 0 15).imm.toNat % 16)).valid = false ∧
    (let x := (one pieces3).tgt.extent ((ia 1 0 9).imm.toNat % 16); x.valid = true ∧ x.chain = false) := by decide +kernel
theorem witness_ScalarCompares :
    (s0.scalarOn (ra 31 1 1).gd.g (ra 31 1 1).gd.inv = true ∧ (ra 31 1 1).sd.toNat % 16 ≠ 0) ∧
    (s0.scalarOn (ia 1 1 1).gd.g (ia 1 1 1).gd.inv = true ∧ (ia 1 1 1).sd.toNat % 16 ≠ 0) ∧ ((ra 16 1 1).sd.toNat % 16 = 0 ∧ (ia 0 1 1).sd.toNat % 16 = 0) ∧
    s0.scalarOn raOff.gd.g raOff.gd.inv = false ∧ (ra 0 1 1).sd = 0 ∧ s0.scalarOn iaOff.gd.g iaOff.gd.inv = false ∧ raOff.sd ≠ 0 := by decide +kernel

def sr (rngsel : W64) : State := one { Ctx.reset with csr := { Csrs.reset with fpmode := 4, rngsel := rngsel } }
theorem witness_VectorRounded : s0.rm ≠ 4 ∧ ((sr 0x8000000000000000).rm = 4 ∧ (sr 0).rm = 4 ∧ (sr 0xC000000000000000).rm = 4) ∧
    (bit (sr 0x8000000000000000).tgt.csr.rngsel 63 = true ∧ bit (sr 0x8000000000000000).tgt.csr.rngsel 62 = false) ∧ bit (sr 0).tgt.csr.rngsel 63 = false ∧
    (bit (sr 0xC000000000000000).tgt.csr.rngsel 63 = true ∧ bit (sr 0xC000000000000000).tgt.csr.rngsel 62 = true) := by decide +kernel
theorem witness_VectorInteger : fmtWidth (vr 8 1 2 3 0 true).fmt.toNat = 32 := by decide +kernel
theorem witness_VectorCompareSelect : (vr 0 15 2 3 0 false).vd.toNat % 16 ≠ 0 ∧ (vr 0 0 2 3 0 false).vd.toNat % 16 = 0 := by decide +kernel
theorem witness_VectorMoves :
    (laneOn (s0.lanes (vr 0 63 1 0 31 false).gd) ((vr 0 63 1 0 31 false).vc.toNat % 32) = true ∧ BitVec.ofNat 6 (vr 0 63 1 0 31 false).vd.toNat ≠ 0) ∧
    laneOn (s0.lanes { vr 0 63 1 0 31 false with gd := off }.gd) 31 = false ∧ BitVec.ofNat 6 (vr 0 0 1 0 31 false).vd.toNat = 0 := by decide +kernel
def lane31 : State := one { Ctx.reset with g := [(4, 0x80000000)] }
def vrG (gd : Gd) : VArgs := { vr 8 1 2 0 0 false with gd := gd }
theorem witness_VectorReductions : (∀ l, l < 32 → laneOn (s0.lanes (vrG off).gd) l = false) ∧
    ((∀ m, m < 32 → (laneOn (lane31.lanes (vrG ⟨4, false⟩).gd) m = true ↔ m = 31)) ∧ (vrG ⟨4, false⟩).fmt.toNat ≠ 0) ∧
    ((vr 0 1 2 0 32 true).vd.toNat % 16 ≠ 0 ∧ (vr 0 1 2 0 32 true).vc.toNat ≤ 32) := by decide +kernel
theorem witness_VectorDrawsAndConversion :
    (let s := sr 0x8000000000000000; s.rm = 4 ∧ bit s.tgt.csr.rngsel 63 = true ∧ bit s.tgt.csr.rngsel 62 = false) ∧
    (let s := sr 0xC000000000000000; s.rm = 4 ∧ bit s.tgt.csr.rngsel 63 = true ∧ bit s.tgt.csr.rngsel 62 = true) ∧
    ((sr 0).rm = 4 ∧ bit (sr 0).tgt.csr.rngsel 63 = false) ∧ s0.rm ≠ 4 ∧
    fmtWidth (0x11 % 16) ≤ fmtWidth 0 ∧ (fmtWidth 3 < fmtWidth (0x30 % 16) ∧ 0x30 / 16 % 4 < fmtWidth (0x30 % 16) / fmtWidth 3) := by decide +kernel
theorem homeOf_unit (a k : Nat) : (homeOf a = .hbm k → k < 16) ∧ (homeOf a = .tier k → k < 48) := by
  have hs : Config.nStacks = 16 := rfl
  have hb : 0 < Config.stackBytes := by decide
  unfold homeOf
  constructor <;> intro h <;> repeat' split at h
  all_goals try cases h
  · rename_i _ h1; exact (Nat.div_lt_iff_lt_mul hb).mpr (hs ▸ h1)
  · rename_i h1; omega
  · exact Nat.mod_lt _ (by decide)
theorem witness_Quiet : Quiet s0 := by
  have hh : ∀ k, k < 16 → s0.map.hbms.getLsbD k = true := by decide +kernel
  have ht : ∀ k, k < 48 → s0.map.tierch.getLsbD k = true := by decide +kernel
  have hr : s0.dev.retired = [] := rfl
  refine ⟨by decide +kernel, fun a => ?_⟩
  unfold State.lost
  split
  · rename_i h; rw [hh _ ((homeOf_unit a _).1 h), hr]; rfl
  · rename_i h; rw [ht _ ((homeOf_unit a _).2 h), hr]; rfl
  · rfl

def withS' (l : AMap W64) : State := one (withS l)
theorem witness_LocalAccess : (∀ k, k ≤ (ma 0 7 1 7 8 0).rows.toNat → wideRow (withS' [(1, 3407857)]) (ma 0 7 1 7 8 0) 1 k < 3407872) ∧
    (3407872 ≤ wideRow (withS' [(1, 3407858)]) (ma 0 7 1 7 8 0) 1 7 ∧ ∀ j, j < 7 → wideRow (withS' [(1, 3407858)]) (ma 0 7 1 7 8 0) 1 j < 3407872) ∧
    3407872 ≤ wideRow (withS' [(1, 3407865)]) (ma 0 7 1 7 8 0) 1 0 := by decide +kernel
def rows8 : Extent := { Extent.none with valid := true, access := 3, len := 8, base := 0x10000 }
def inExt : State := one { Ctx.reset with ext := [rows8] }
def rowAt (k : Nat) : W64 := 0x10000 + BitVec.ofNat 64 (128 * k)
theorem witness_ExtentAccess : InExtent inExt (ma 0 0 1 7 8 0) false 1 rowAt ∧ InExtent inExt (ma 0 0 1 7 8 0) true 1 rowAt ∧
    InExtent inExt (ma 0 7 1 7 8 31) false (ma 0 7 1 7 8 31).mods.toInt (fun k => rowAt (7 - k)) ∧
    InExtent inExt (ma 0 7 1 7 8 31) true (ma 0 7 1 7 8 31).mods.toInt (fun k => rowAt (7 - k)) := by unfold InExtent; decide +kernel
theorem witness_ExtentBound :
    (∀ w ∈ [false, true],
      (extRow inExt.tgt w 0 (wideRow inExt (ma 0 1 1 7 8 0) 1 7) = .bound ∧
        ∀ j, j < 7 → ¬ extRow inExt.tgt w 0 (wideRow inExt (ma 0 1 1 7 8 0) 1 j) = .bound) ∧ extRow inExt.tgt w 0 (wideRow inExt (ma 0 8 1 7 8 0) 1 0) = .bound ∧
      (extRow inExt.tgt w 0 (wideRow inExt (ma 0 6 1 7 8 2) (ma 0 6 1 7 8 2).mods.toInt 1) = .bound ∧
        ∀ j, j < 1 → ¬ extRow inExt.tgt w 0 (wideRow inExt (ma 0 6 1 7 8 2) (ma 0 6 1 7 8 2).mods.toInt j) = .bound)) ∧
    (let may := fun (c : Ctx) (w : Bool) (e : Nat) => (c.extent e).valid && (c.extent e).access.getLsbD (if w then 1 else 0)
     let c := inExt.tgt
     let d := { Ctx.reset with ext := [{ rows8 with chain := true, next := 1 }, rows8] }
     may c false 1 = false ∧
     (may c true 0 = true ∧ 7 < (c.extent 0).len ∧ (c.extent 0).revoked = false ∧ (c.extent 0).refused = false) ∧
     (may c false 0 = true ∧ (c.extent 0).len ≤ 8 ∧ (c.extent 0).chain = false) ∧
     (may d false 0 = true ∧ (d.extent 0).len ≤ 8 ∧ (d.extent 0).chain = true)) := by decide +kernel
theorem witness_CornerTurn : (∀ k, k < 1024 / fmtWidth (ma 1 0 1 7 8 0).ext.toNat → wideRow (withS' [(1, 3407808)]) (ma 1 0 1 7 8 0) 1 k < 3407872) ∧
    (63 < 1024 / fmtWidth (ma 1 0 1 7 8 0).ext.toNat ∧ 3407872 ≤ wideRow (withS' [(1, 3407809)]) (ma 1 0 1 7 8 0) 1 63 ∧
      ∀ j, j < 63 → wideRow (withS' [(1, 3407809)]) (ma 1 0 1 7 8 0) 1 j < 3407872) := by decide +kernel
/-- A quilt descriptor at row 0 of the scratchpad: D 1, L 1, F 1, FP32, T 10, N0 4.0, B 2.0; its table and its gradient in extent 0. -/
def quilt : Nat := 1 + 2 ^ 8 + 2 ^ 16 + 10 * 2 ^ 32 + 0x40800000 * 2 ^ 64 + 0x40000000 * 2 ^ 96
def quilted : State := { one { Ctx.reset with ext := [rows8] } with mem := putBytes Config.spBase 256 quilt [] }
theorem witness_AtomicIssue :
    (let o := wideRow inExt (ma 0 7 1 0 8 0) 1 0
     inExt.reach (rowAt 7) = true ∧ extRow inExt.tgt true 0 o = .at (rowAt 7) ∧ extRow inExt.tgt false 0 o = .at (rowAt 7)) ∧
    (quilted.recording = false ∧ quilted.qldCheck (ma 0 0 1 0 8 0) = .ok [(0x10000, false)] ∧ quilted.lanes (ma 0 0 1 0 8 0).gd ≠ 0) ∧
    (quilted.qldCheck { ma 0 0 1 0 8 0 with gd := off } = .ok [] ∧ quilted.lanes off = 0) ∧
    quilted.qscatCheck (ma 0 0 1 0 8 0) = .ok (List.replicate 64 (0x10000, false)) := by decide +kernel

def looping : LoopSt := ⟨[], 0x40, 0, false, ⟨1, [2], [false], [0], [0], [2], none, false⟩, 0, 0x20, none⟩
def inLoop : State := one { Ctx.reset with lp := some looping }
def busyHandler : State := { s0 with cores := [(0, { Core.reset with run := some 0 })] }
/-- A loop record at scratchpad row 0: one level with bound 2, or with bound 0. -/
def loopRec : State := { s0 with mem := putBytes Config.spBase 256 (2 ^ 8 + 2 * 2 ^ (8 * 0x28)) [] }
/-- One level whose bound is LIVE, at most 2. -/
def liveRec : State := { s0 with mem := putBytes Config.spBase 256 (2 ^ 8 + 2 ^ 35 + 2 * 2 ^ (8 * 0x28) + 0x00F0000000000800 * 2 ^ (8 * 0x40)) [] }
def emptyRec : State := { s0 with mem := putBytes Config.spBase 256 (2 ^ 8) [] }
theorem witness_ControlTransfers :
    (s0.rdS 1 = 0 ∧ (withS' [(1, 5)]).rdS 1 ≠ 0) ∧ (s0.scalarOn 0 false = true ∧ s0.scalarOn 3 false = false) ∧ (s0.me.lp = none ∧ inLoop.me.lp ≠ none) ∧
    (s0.hidden = false ∧ lnrOkLoop (s0.pairAt 0) 0 = false) ∧ busyHandler.hidden = true ∧ (nestOf (loopRec.pairAt 0)).await = none ∧
    (nestOf (liveRec.pairAt 0)).await ≠ none ∧ (lnrOkLoop (liveRec.pairAt 0) 0 = true ∧ (nestOf (liveRec.pairAt 0)).done = false) ∧
    (loopRec.hidden = false ∧ loopRec.me.lp = none ∧ lnrOkLoop (loopRec.pairAt 0) 0 = true ∧ (nestOf (loopRec.pairAt 0)).done = false) ∧
    (emptyRec.hidden = false ∧ emptyRec.me.lp = none ∧ lnrOkLoop (emptyRec.pairAt 0) 0 = true ∧ (nestOf (emptyRec.pairAt 0)).done = true) ∧
    (inLoop.hidden = false ∧ inLoop.me.lp = some looping ∧ inLoop.scalarOn 0 false = true ∧ inLoop.scalarOn 3 false = false) := by decide +kernel

def task0 : TaskRun := ⟨7, false, 0, 0, groupKey 3 0, 0, 0, 1, 0, 0, 3, 0, 0, 0, 0, 0⟩
def group0 : Group := ⟨3, 0, 0, 1, 0, 0, 0, false, false, 1, [], 0⟩
def launch0 : Launch := ⟨0, 0, 1, 1, false, false, false, 0, 1, 0, 1, false⟩
def cmd0 : Cmd := ⟨0, 0, .started, 1, 0, 0, 0, false, 0, some launch0⟩
/-- Context 0 of core 0 holds the one task of command 3's only group. -/
def tasked (c : Ctx) : State := { one { c with task := some task0 } with groups := [(groupKey 3 0, group0)], cmds := [(3, cmd0)] }
/-- A word of this device's sync space, and one of device 5's. -/
def syn : W64 := 0x00F0000000000800
def far : W64 := 0x14F0000000000800
def frameTask : TaskRun := { task0 with trec := BitVec.ofNat 1024 ((2 ^ 36 + 3 * 2 ^ 62) * 2 ^ 256) }
def frame : State :=
  { one { Ctx.reset with ext := [rows8], s := [(1, syn)], task := some frameTask } with sync := [(syKey (localOf syn), ⟨.dep, 1⟩)] }
def inHandler : State := { tasked Ctx.reset with cores := [(0, { Core.reset with run := some 0, region := [(0, 0xFFFF, 64, 64)] })] }
/-- The frame's extent revoked. -/
def frameOff : State := { frame with ctxs := [(0, { frame.ctx 0 with ext := [{ rows8 with revoked := true }] })] }
theorem witness_TaskControl : (s0.hidden = false ∧ s0.twaitTrap (.twait 1 0) (s0.rdS 1) ≠ none) ∧
    (frame.twaitTrap (.twait 1 0) (frame.rdS 1) = none ∧ frame.hidden = false ∧ frame.twaitWaits (frame.rdS 1) = false) ∧
    (frameOff.twaitTrap (.twait 1 0) (frameOff.rdS 1) = none ∧ frameOff.hidden = false ∧ frameOff.twaitWaits (frameOff.rdS 1) = true) ∧
    (((withS' [(1, syn)]).rdS 1).extractLsb' 52 4 = 15#4 ∧ (withS' [(1, syn)]).reach ((withS' [(1, syn)]).rdS 1) = true) ∧
    (s0.rdS 1).extractLsb' 52 4 ≠ 15#4 ∧
    (((withS' [(1, far)]).rdS 1).extractLsb' 52 4 = 15#4 ∧ (withS' [(1, far)]).reach ((withS' [(1, far)]).rdS 1) = false) ∧
    (one { Ctx.reset with req := true }).me.req = true ∧ s0.me.req = false ∧ inHandler.hidden = true := by decide +kernel
/-- A pool on die 0: LOG2MB 1. -/
def pool : State := { tasked Ctx.reset with regs := State.reset.regs.put 0x320 1 }
theorem witness_TriggerAndSpawn :
    (let s := tasked Ctx.reset
     s.hidden = false ∧ s.me.task = some task0 ∧ s.groups.find task0.group = some group0 ∧ group0.trigd = false ∧ group0.never = false) ∧
    (let s := { tasked Ctx.reset with groups := [(groupKey 3 0, { group0 with trigd := true })] }
     s.hidden = false ∧ s.me.task = some task0 ∧ s.groups.find task0.group = some { group0 with trigd := true }) ∧
    (let p := pool.pairAt (pool.spawnRow 1 0)
     pool.hidden = false ∧ pool.spawnOk p = true ∧ pool.me.task = some task0 ∧ pool.cmds.find task0.cmd = some cmd0 ∧ cmd0.launch = some launch0 ∧
       trDep (trFor (p.truncate 1024) launch0.spawn 0) = 0 ∧ pool.freeGref (dieOfCore pool.coreNo) = some 1 ∧ pool.wf) := by unfold State.wf; decide +kernel
theorem witness_FlagsAndFences : s0.hidden = false ∧ s0.me.hold = .none ∧ (one { Ctx.reset with hold := .rdv 8 1 true }).me.hold = .rdv 8 1 true ∧
    (one { Ctx.reset with hold := .rdv 8 1 false }).me.hold = .rdv 8 1 false ∧ (one { Ctx.reset with hold := .late 8 }).me.hold = .late 8 ∧
    inHandler.hidden = true := by decide +kernel
theorem witness_TrapEntry : (handled Ctx.reset).hidden = false ∧ (handled Ctx.reset).cur < 2048 ∧
    (((handled Ctx.reset).core (handled Ctx.reset).coreNo).regionOf 0xFFFF).isSome = true := by decide +kernel
theorem witness_SoftwareTraps :
    ((handled Ctx.reset).hidden = false ∧ (handled Ctx.reset).cur < 2048 ∧ (((handled Ctx.reset).core 0).regionOf 0xFFFF).isSome = true) ∧
    (let s := { inHandler with ctxs := inHandler.ctxs.put 2048 { Ctx.reset with land := [landE 1] } }; s.cur < 2048 ∧ s.hidden = true ∧ s.me.land ≠ []) ∧
    (inHandler.me.land = [] ∧ fld inHandler.tgt.csr.tframe 50 2 = 0 ∧ inHandler.tgt.cap = none) ∧
    (inHandler.hidden = true ∧ inHandler.cur < 2048 ∧ inHandler.tgt.task = some task0) := by decide +kernel
def shadowed : State :=
  { one { Ctx.reset with shadowId := some 5, csr := { Csrs.reset with dictl := 0x400040, dictb := 0x400000 } } with
    cores := [(0, { Core.reset with region := [(1, (5, 0, 0))] })] }
def rec_ (r : W64) : State := one { Ctx.reset with csr := { Csrs.reset with recst := r, logl := 3407872 } }
theorem witness_DictionarySwapAndRecordMode :
    (shadowed.hidden = false ∧ shadowed.me.lp = none ∧ shadowed.dictldOut = false ∧ shadowed.me.shadowId = some 5 ∧ fld shadowed.me.csr.dictl 16 15 ≠ 0 ∧
      (shadowed.core shadowed.coreNo).region.find? (fun e => e.2.1 == 5) = some (1, (5, 0, 0))) ∧
    (bit (rec_ 1).me.csr.recst 3 = false ∧ bit (rec_ 1).me.csr.recst 0 = true) ∧ bit (rec_ 8).me.csr.recst 3 = true ∧
    (bit (rec_ 0).me.csr.recst 3 = false ∧ bit (rec_ 0).me.csr.recst 0 = false ∧ fld (rec_ 0).me.csr.logb 62 2 = 0 ∧
      fld (rec_ 0).me.csr.logb 0 48 + fld (rec_ 0).me.csr.logl 0 48 ≤ 3407872) ∧
    (rec_ 1).logOut (rec_ 1).act = false ∧
    (let s := one { Ctx.reset with q := [⟨false, true, 0, 1, 0, .log 0 false, .waiting, 0, 0, false⟩] }; s.logOut s.act = true) := by decide +kernel
theorem witness_CsrReads : ((inHandler.hidden = true ∧ csrListed 0x451 = true) ∧ (s0.hidden = false ∧ csrListed 0xFF = false ∧ csrListed 0x11 = true)) ∧
    (s0.hidden = false ∧ 0x100 ≤ (0x100#12).toNat ∧ (0x4FF#12).toNat < 0x500) ∧ csrListed 0x500 = false := by decide +kernel
theorem witness_CsrWrites : (bit s0.tgt.csr.recst 0 = false ∧ bit s0.tgt.csr.recst 3 = false) ∧ bit (rec_ 1).tgt.csr.recst 0 = true ∧
    bit (rec_ 8).tgt.csr.recst 3 = true ∧ s0.hidden = false ∧ (inHandler.hidden = true ∧ inHandler.cur < 2048) := by decide +kernel
/-- One stream in the table at 0, VALID and not bound. -/
def streams : State := { s0 with regs := State.reset.regs.put 0x332 1, mem := [(0x15, 1)] }
theorem witness_RegisterWrites : (12 ≤ fld 0xF000 12 4 ∧ (6 ≤ fld 0x6000 12 4 ∧ fld 0xB000 12 4 < 12)) ∧ bit 0 63 = false ∧
    (bit (streams.ctx 0).csr.rngsel 63 = false ∧ bit 0 16 = false ∧ fld 0 0 12 < fld (streams.reg 0x332) 0 13 ∧
      streams.bytes (streams.strEntry (fld 0 0 12) + 0x15) 1 = 1 ∧ streams.bytes (streams.strEntry (fld 0 0 12) + 0x14) 1 < 16 ∧
      streams.bytes (streams.strEntry (fld 0 0 12) + 0x16) 10 = 0) ∧ streams.dev.rst ≠ .badImage ∧
    { s0 with dev := { s0.dev with rst := .badImage } }.dev.rst = .badImage ∧ 0x11FF < 0x1200 := by decide +kernel

theorem witness_MatrixIssue : ∀ o ∈ mxOps (xa 1 0x2000 0 true 1 1), let c := s0.mxCmd o.1 (xa 1 0x2000 0 true 1 1) none
    s0.recording = false ∧ s0.mxTrap o.2 c = none ∧ s0.mxFull c = false ∧ s0.mxLanding c = false := by decide +kernel
def mx (op : Nat) (a : XArgs) : MxCmd := s0.mxCmd op a none
def owned : State := { tasked Ctx.reset with cores := [(0, { Core.reset with accown := 0x8000000000000009 })] }
def fullQ : State := { s0 with cores := [(0, { Core.reset with q0 := List.replicate 8 (mx 3 (xa 0 0 0 false 0 0)) })] }
def ent (op : Nat) (a : XArgs) : WinEnt := ⟨mx op a, [], [], [], [], none, 0⟩
theorem witness_MatrixRefusals :
    (let a := xa 1 0 0x1FFF true 1 1
     a.ga = false ∧ a.gb = false ∧ meets (bankGroups a.arow.toNat (aRows a)) (bankGroups a.brow.toNat (bRows 1 a)) = true ∧
       meets (bankGroups a.arow.toNat (aRows a)) (bankGroups a.brow.toNat (bRows 2 a)) = true ∧ metaRow (s0.mxCmd 2 a none) % 2 = 0) ∧
    (owned.hidden = false ∧ owned.me.task = some task0 ∧ bit (owned.core owned.coreNo).accown 63 = true ∧
      fld (owned.core owned.coreNo).accown 0 48 ≠ task0.serial % 2 ^ 48) ∧
    (∀ o ∈ mxOps (xa 1 0x2000 0 true 1 1), let c := fullQ.mxCmd o.1 (xa 1 0x2000 0 true 1 1) none; fullQ.mxTrap o.2 c = none ∧ fullQ.mxFull c = true) ∧
    (((tasked Ctx.reset).ctx 0).task = some task0 ∧ bit ((tasked Ctx.reset).core (0 / 4)).accown 63 = false) ∧
    ((ent 3 (xa 0 0 0 false 0 0)).c.op = 3 ∧ (ent 8 (xa 0 0 0 false 0 0)).c.op = 8 ∧ (ent 13 (xa 0 0 0 false 0 0)).c.op = 13 ∧
      (ent 15 (xa 0 0 0 false 0 0)).c.op = 15 ∧ (ent 7 (xa 0 0 0 false 0 0)).c.op = 7 ∧ (ent 7 (xa 0 0 0 false 0 0)).c.a.acc = false) := by decide +kernel
def zero3 : MxCmd := { mx 3 (xa 0 0 0 false 0 0) with ready := 0 }
def idleQ : State := { s0 with cores := [(0, { Core.reset with q0 := [zero3] })] }
def running : State := { s0 with cores := [(0, { Core.reset with eng := some (ent 3 (xa 0 0 0 false 0 0)) })] }
def adjoint : WinEnt := ent 16 (xa 0 0 0 false 0 0)
def stopped2 : State := { one { Ctx.reset with halted := true } with cores := [(0, { Core.reset with dbgcfg := 2 })] }
theorem witness_MatrixRuns : stopped2.stepHeld stopped2.unit = true ∧
    (let s := { s0 with cores := [(0, { Core.reset with eng := some adjoint })] }
     (s.core s.unit).eng = some adjoint ∧ s.stepHeld s.unit = false ∧ adjoint.c.op = 16) ∧
    ((running.core running.unit).eng ≠ none ∧ ({ s0 with cores := [(0, { Core.reset with suspect := true })] }.core 0).suspect = true) ∧
    ((idleQ.core idleQ.unit).suspect = false ∧ (idleQ.core idleQ.unit).eng = none ∧ idleQ.stepHeld idleQ.unit = false ∧ (idleQ.core idleQ.unit).q0 = zero3 :: [] ∧ zero3.home = idleQ.unit ∧
      zero3.op ≠ 0 ∧ (∀ x ∈ (idleQ.core idleQ.unit).q0 ++ (idleQ.core idleQ.unit).q1, fetchTotal x = 0) ∧ idleQ.mxPresent idleQ.unit zero3 = true) ∧
    (let w := ent 3 (xa 0 0 0 false 0 0)
     (running.core running.unit).eng = some w ∧ running.stepHeld running.unit = false ∧ w.c.op ≠ 0 ∧ w.c.op ≠ 16 ∧ w.c.home = running.unit ∧ w.poison = none ∧ (mxOut w).sp = [] ∧ (mxOut w).regs = [] ∧
       (mxOut w).sat = false) := by decide +kernel
def mul1 : MxCmd := { mx 1 { xa 1 0x2000 0 false 1 1 with m := true } with ready := 0 }
def moving : State := { s0 with cores := [(0, { Core.reset with migcfg := 0x201, q0 := [mul1], eng := some (ent 3 (xa 0 0 0 false 0 0)) }),
  (1, { Core.reset with migcfg := 0x202 })] }
theorem witness_MatrixGuardAndMigration : s0.mxFull (s0.mxCmd 0 noXArgs (some (1, 2, 3))) = false ∧
    fullQ.mxFull (fullQ.mxCmd 0 noXArgs (some (1, 2, 3))) = true ∧
    (let s := { s0 with dies := [(0, { Die.reset with cyc := 64 })] }
     (s.core s.unit).eng = none ∧ (s.core s.unit).started + 64 ≤ s.cyc (4 * s.unit)) ∧
    s0.cyc (4 * s0.unit) < (s0.core s0.unit).started + 64 ∧
    (let w := ent 3 (xa 0 0 0 false 0 0)
     let s := { s0 with cores := [(0, { Core.reset with back := [w] })] }
     (s.core s.unit).back = w :: [] ∧ s.stepHeld s.unit = false ∧ w.c.home = s.unit ∧ w.poison = none ∧ (mxOut w).sp = [] ∧ (mxOut w).regs = [] ∧ (mxOut w).sat = false) ∧
    ((moving.core 0).q0 = mul1 :: [] ∧ mul1.op = 1 ∧ mul1.a.m = true ∧ mul1.a.acc = false ∧ mul1.home = 0 ∧ bit (moving.core 0).migcfg 0 = true ∧
      (moving.core 0).out.length + (moving.core 0).back.length < fld (moving.core 0).migcfg 8 4 ∧ (moving.core 0).eng ≠ none ∧ moving.stepHeld 0 = false ∧
      moving.mxPresent 0 mul1 = true ∧ (neighbours 0).find? moving.takesMigrants = some 1) := by decide +kernel

def ea : EArgs := ⟨false, 2, 0, 0⟩
def queued (n : Nat) : State := one { Ctx.reset with eq := List.replicate n ⟨1, ea, 0, 0, 7, 0, 3, false, 0, [], 0, 0⟩ }
theorem witness_EngineIssue : (∀ o ∈ ecOps ea, o.1 ∈ [0x0C, 0x0D, 0x0F, 0x10, 0x14, 0x15] → inHandler.hidden = true) ∧
    (let e := s0.ecCmd 6 { ea with pri := true }
     s0.me.eq.length < 16 ∧ s0.isPrio e = true ∧ (s0.core s0.coreNo).prio.length < 4 ∧ s0.storesUpTo s0.act s0.me.ops s0.clk = false) ∧
    (let s := one { Ctx.reset with q := [⟨false, true, 0, 0, 0, .log 0 false, .waiting, 0, 0, false⟩] }
     s.isPrio (s.ecCmd 6 { ea with pri := true }) = true ∧ s.storesUpTo s.act s.me.ops s.clk = true) ∧ s0.isPrio (s0.ecCmd 1 ea) = false ∧
    (let s := { s0 with cores := [(0, { Core.reset with prio := List.replicate 4 ⟨6, ea, 0, 0, 7, 0, 3, false, 0, [], 0, 0⟩ })] }
     s.isPrio (s.ecCmd 6 { ea with pri := true }) = true ∧ 4 ≤ (s.core s.coreNo).prio.length) ∧
    (queued 15).me.eq.length < 16 ∧ s0.hidden = false ∧ 16 ≤ (queued 16).me.eq.length := by decide +kernel

def copyCmd : EngCmd := ⟨1, ea, 0, 0, 7, 0, 3, false, 0, [], 0, 0⟩
def toAccept : State := one { Ctx.reset with eq := [copyCmd] }
def runCopy (nest : Option Nest) (status : Option Nat) (lnr : BitVec 2048) : RunCmd :=
  ⟨copyCmd, 0, lnr, 0, nest, 0, 0, [], false, status, 0, 0, [], [], Csrs.reset, 0, 0, none⟩
def ending : State := { tasked Ctx.reset with cores := [(0, { Core.reset with copyE := some (runCopy none (some 0) 0) })] }
theorem witness_EngineLifetime : { s0 with map := { s0.map with cores := 0 } }.map.cores.getLsbD 0 = false ∧
    (toAccept.map.cores.getLsbD 0 = true ∧ (toAccept.core 0).engine .copy = none ∧ toAccept.pickHead 0 .copy = some (0, copyCmd) ∧
      (toAccept.ctx 0).engs = copyCmd :: []) ∧
    (let r := runCopy none (some 0) 0
     ending.wf ∧ (ending.core 0).engine .copy = some r ∧ ending.engOut 0 .copy = false ∧ ending.haltedCmd r.c = false ∧ r.status = some 0 ∧ r.c.ctx < 2048 ∧
       holderOf r.c.serial ending.ctxs = some 0 ∧ ending.groups.any (fun g => g.2.cmd == r.c.cmd) = true ∧ ending.isPoison (spAddr 0 r.c.row) = false ∧
       r.c.a.flag ≠ 15 ∧ ending.treeQuiet (treePart r) (treeHandle r) = true) ∧
    (let s := { s0 with cmds := [(3, { cmd0 with pubmap := 2 })] }
     s.pubDone copyCmd.cmd 1 = true ∧ mpPubno 0 ≠ 1 ∧ s.pubDone copyCmd.cmd 254 = false ∧ mpPubno 0 ≠ 254 ∧ s.wf ∧ copyCmd.seg = false ∧
       s.mine (devOf (BitVec.ofNat 64 Config.spBase)) = true ∧ homeOf (localOf (BitVec.ofNat 64 Config.spBase)) = .sp 0 ∧ s.jCount = 0) := by
  unfold State.wf; decide +kernel
/-- A COPY of one row in each of two runs, from panel-relative space 0 to itself: the record of the transfer. -/
def nest2 : Nest := ⟨1, [2], [false], [0], [0], [2], none, false⟩
def copyRec : BitVec 2048 := BitVec.ofNat 2048 (1 + 2 ^ 8 + 128 * 2 ^ (8 * 0x20) + 2 * 2 ^ (8 * 0x28))
def copying : State := { s0 with arg := 1, cores := [(0, { Core.reset with copyE := some (runCopy (some nest2) none copyRec) })] }
theorem witness_CopyChunk : let s := copying
    let r := runCopy (some nest2) none copyRec
    let x : W64 := BitVec.ofNat 64 Config.spBase
    s.arg = 1 ∧ (s.core s.unit).copyE = some r ∧ r.c.op = 1 ∧ r.status = none ∧ s.haltedCmd r.c = false ∧ r.nest = some nest2 ∧ nest2.await = none ∧
    nest2.done = false ∧ r.prog = 0 ∧ lnPub r.lnr = false ∧ lnDspace r.lnr ≠ 3 ∧ lnBytes r.lnr / 128 ≤ 32 ∧ bit (s.reg 0x301) 63 = false ∧
    s.engSpan s.unit r.ext (lnSspace r.lnr) (lnSext r.lnr) false (walkSrc r.lnr nest2) (lnBytes r.lnr / 128) = .ok [x] ∧
    s.engSpan s.unit r.ext (lnDspace r.lnr) (lnDext r.lnr) true (walkDst r.lnr nest2) (lnBytes r.lnr / 128) = .ok [x] ∧
    devOf x = s.dev.devid.toNat ∧ homeOf (localOf x) = .sp s.unit ∧ s.isPoison (localOf x) = false := by decide +kernel
def waitLive : LoopSt := { looping with nest := { looping.nest with await := some 0, liveAddr := [syn] } }
theorem witness_LiveBound : (s0.ctx s0.unit).lp = none ∧ ((inLoop.ctx inLoop.unit).lp = some looping ∧ looping.nest.await = none) ∧
    (let s := one { Ctx.reset with lp := some waitLive }
     let a := waitLive.nest.liveAddr.getD 0 0
     (s.ctx s.unit).lp = some waitLive ∧ waitLive.nest.await = some 0 ∧ waitLive.live = none ∧ devOf a = s.dev.devid.toNat ∧ s.syPresent (localOf a) = true) ∧
    (let l : LoopSt := { looping with nest := { looping.nest with await := some 0, liveAddr := [syn + 0x400000] } }
     devOf (l.nest.liveAddr.getD 0 0) = s0.dev.devid.toNat ∧ s0.syPresent (localOf (l.nest.liveAddr.getD 0 0)) = false) ∧
    (∀ v ∈ [0, 1, 2 ^ 32 - 1], let l := { waitLive with live := some (5, v) }
      l.live = some (5, v) ∧ l.live ≠ none ∧ l.nest.await = some 0 ∧ 0 < l.nest.run.length ∧ (min v (l.nest.bound.getD 0 0) = 0 ↔ v = 0)) ∧
    (4 < 5 ∧ 5 ≤ 5) := by
  decide +kernel
theorem witness_LoopNestOrder : (∀ l, l < nest2.levels → nest2.run[l]? = some 2 ∧ nest2.bound[l]? = some 2 ∧ nest2.live[l]? = some false ∧
      ∃ i, nest2.idx[l]? = some i ∧ i < 2) ∧ nest2.levels ≤ 6 ∧ nest2.done = false ∧ nest2.await = none :=
  ⟨fun l h => by
    obtain rfl : l = 0 := Nat.lt_one_iff.mp h
    exact ⟨rfl, rfl, rfl, 0, rfl, by decide⟩, by decide⟩

theorem witness_DecodeEncode : (Instr.wf (.add (ra 1 2 3)) = true ∧ encode (.add (ra 1 2 3)) ≠ none ∧ Instr.isFiller (.add (ra 1 2 3)) = false) ∧
    (Instr.wf .tend = true ∧ encode .tend ≠ none) := by decide +kernel
theorem witness_StepKeepsForm : State.wf State.reset ∧ ∃ t, step State.reset = .next t := ⟨by unfold State.wf; decide, _, rfl⟩
/-- The bundle `add s1, s2, s3`, placed where the first step fetches. -/
def oneAdd : State := State.reset.withFetchWord 96 (match encode (.add (ra 1 2 3)) with | some ps => joinParcels ps | none => 0)
def isNext (o : Host.Outcome State Fault Refusal) : Bool := match o with | .next _ => true | _ => false
theorem witness_StepRunsBundle :
    let q := ({ oneAdd with turn := 1 }.stopTarget 0).countDown 0
    let p := (q.order 0).foldl State.prepare q
    let u := { p with cur := 0 }
    let e := u.head 0
    let t1 := after (runAll (instrsOf (e.slots.filter (·.bit != 0))) (u.beginBundle 0 e))
    let t2 := after (runAll (instrsOf (e.slots.filter (·.bit == 0))) (t1.afterSlots 0 (u.ctx 0).lp.isSome))
    let t := t2.tick 0
    (oneAdd.pend = [] ∧ oneAdd.agenda = [] ∧ oneAdd.activeFrom oneAdd.turn = some 0) ∧
    ((q.core 0).run = none ∧ (p.core 0).run = none ∧ p.order 0 = [0] ∧ (p.core 0).lead % 4 = 0 ∧ (p.ctx 0).halted = false ∧ (u.ctx 0).hold.open = true ∧
      u.stands 0 = none ∧ u.rowsLate 0 = false ∧ e.poison = none ∧ e.bad = none ∧ u.bundleTrap e.slots = none ∧ bit (u.reg 0x301) 63 = false ∧ e.mask ≠ 0) ∧
    (isNext (runAll (instrsOf (e.slots.filter (·.bit != 0))) (u.beginBundle 0 e)) = true ∧
      isNext (runAll (instrsOf (e.slots.filter (·.bit == 0))) (t1.afterSlots 0 (u.ctx 0).lp.isSome)) = true ∧ (t.ctx 0).halted = false ∧
      landCount (t.ctx 0).land ≤ u.landCap) ∧
    ((decodeBundle e.parcels).isSome = true ∧ (e.parcels.headD 0).toNat % 2 ^ 12 ≠ 0) ∧
    (let s := oneAdd
     (s.ctx 0).lp = none ∧ (s.ctx 0).fq = [] ∧ s.codeWord (s.ctx 0).pc.toNat = 0xFFFF ∧
       hdrOk (s.codeWord ((s.ctx 0).pc.toNat + 1) + s.codeWord ((s.ctx 0).pc.toNat + 2) * 2 ^ 16) = true) := by
  decide +kernel
/-- A context whose code is dictionary entry 5 of 64. -/
def coded : State := { one { Ctx.reset with pc := 0x40, csr := { Csrs.reset with dictl := 64 } } with mem := [(0x80, 5)] }
theorem witness_StepRunsBundle_dict : (coded.ctx 0).lp = none ∧ (coded.ctx 0).fq = [] ∧ (coded.ctx 0).owed = 0 ∧ coded.codeWord 0x40 = 5 ∧
    5 < fld (coded.ctx 0).csr.dictl 0 15 ∧ fld (coded.ctx 0).csr.dictb 0 14 + 5 < Config.dictEntries := by decide +kernel

/-- A row of the first stack. -/
def plainAt : Nat := 0x10000
theorem witness_Plain : Plain s0 plainAt ∧ Plain s0 Config.tierBase ∧ Plain s0 Config.spBase ∧ Plain s0 Config.psBase ∧
    Plain s0 (Config.nStacks * Config.stackBytes - 1) := by unfold Plain; decide +kernel
def poisoned : State := { s0 with poison := [plainAt] }
def rdAcc : TAcc := ⟨0, false, 0, 0, 7, 0, 1, 0, 0, 0, false, 0⟩
def wrAcc : TAcc := ⟨0, true, 1000, 0, 7, 0, 0, 0, 5, fullMask, false, 0⟩
def rowE : LandEntry := ⟨.row, 8, 3, 0, 3, 0, 0, fullMask, 0, none, false, none, 1, none, 0⟩
def timed2 : State := { one { Ctx.reset with land := [rowE] } with timed := [wrAcc, rdAcc] }
theorem witness_RowStores : (s0.wf ∧ s0.isPoison plainAt = false) ∧ (poisoned.wf ∧ poisoned.isPoison plainAt = true ∧ (1 : Row) ≠ fullMask ∧ (1 : Row) ≠ 0) ∧
    (rdAcc.store = false ∧ wrAcc.store = true ∧ timed2.timed = [wrAcc, rdAcc] ∧ rdAcc.due ≤ timed2.cyc rdAcc.ctx ∧ wrAcc.due ≤ timed2.cyc wrAcc.ctx ∧
      timed2.ticks (dieOfCtx wrAcc.ctx) = true ∧ (fun _ : TAcc => false) rdAcc = false ∧ rdAcc.op ≠ 0 ∧
      bit (timed2.reg 0x301) 63 = false ∧ timed2.isPoison (tAddr rdAcc) = false) ∧
    ((timed2.ctx rdAcc.ctx).land[0]? = some rowE ∧ rowE.op = rdAcc.op ∧ rowE.sub = rdAcc.idx ∧ rowE.got = false ∧ rowE.kind = .row) := by
  unfold State.wf; decide +kernel
def landOne1 (e : LandEntry) : State := one { Ctx.reset with schc := 4, land := [e] }
theorem witness_ResultsLand :
    (let s := landOne1 { rowE with tick := 4 }
     s.unit < 2048 ∧ (s.ctx s.unit).land = [{ rowE with tick := 4 }] ∧ 4 ≤ (s.ctx s.unit).schc ∧ bit (s.reg 0x301) 63 = false ∧ s.frozenLand s.unit = true ∧
       (s.ctx s.unit).poisoned = none) ∧
    (∀ e ∈ [landE 3, { landE 3 with kind := .guard, flags := 1 }, { landE 3 with kind := .scale }, { landE 3 with kind := .vec, tick := 0 },
        { rowE with got := true }], let s := landOne1 e
      s.frozenLand s.unit = false ∧ e.gone = none ∧ e.poison = none ∧ (s.ctx s.unit).poisoned = none ∧
        e.flags.toNat &&& fld (s.ctx s.unit).csr.fpmode 8 5 = 0 ∧ e.tick ≤ (s.ctx s.unit).schc) ∧
    (let e := { rowE with got := true, arr := some (notYet + 9) }
     let s := { landOne1 e with arg := 1 }
     (s.ctx s.unit).land[0]? = some e ∧ e.arr = some (notYet + 9) ∧ e.op = s.arg ∧ notYet ≤ notYet + 9) := by decide +kernel
def stQ : QAcc := ⟨false, true, BitVec.ofNat 64 plainAt, 1, 0, .st 5 fullMask false, .waiting, 0, 0, false⟩
def ldQ : QAcc := ⟨true, false, BitVec.ofNat 64 plainAt, 1, 0, .ld, .waiting, 0, 0, false⟩
/-- The access in the queue of context 0, whose die has counted cycle `n`. -/
def atCyc (n : Nat) (q : QAcc) : State := { one { Ctx.reset with q := [q], land := [rowE] } with dies := [(0, { Die.reset with cyc := n })] }
def withQ (q : QAcc) : State := atCyc 10 q
def holeAt : Nat := 2 ^ 50
theorem witness_AccessesPerform :
    (∀ q ∈ [stQ, ldQ], let s := withQ q
      s.unit < 4096 ∧ (s.ctx s.unit).q[s.arg]? = some q ∧ s.mayPerform s.unit s.arg = true ∧ q.ext = false ∧ devOf q.addr = s.dev.devid.toNat ∧
        localOf q.addr = plainAt ∧ bit (s.reg 0x301) 63 = false ∧ s.isPoison plainAt = false) ∧
    ((atCyc 9 stQ).mayPerform 0 0 = false) ∧
    (let q := { stQ with addr := BitVec.ofNat 64 holeAt }
     (withQ q).mayPerform 0 0 = true ∧ homeOf (localOf q.addr) = .hole) ∧
    ((withQ ldQ).ctx 0).land[0]? = some rowE ∧ ({ poisoned with unit := plainAt }.isPoison plainAt = true) ∧
    (s0.wf ∧ Plain s0 { s0 with unit := plainAt }.unit) ∧ ({ s0 with dev := { s0.dev with rst := .badImage } }.dev.rst = .badImage ∧ s0.dev.rst ≠ .badImage) ∧
    ((homeOf Config.capBase = .desc ∧ Config.capBase < Config.capBase + 65536) ∧ (homeOf (Config.capBase + 0xC000) = .desc ∧
      homeOf (Config.capBase + 0xCFFF) = .desc ∧ 0xCFFF < 0xD000)) ∧
    ((homeOf plainAt).array = 10 ∧ (homeOf Config.tierBase).array = 11 ∧ s0.lost plainAt = false ∧ s0.isPoison plainAt = false) ∧
    ((homeOf Config.spBase).array = 6 ∧ (homeOf Config.psBase).array = 7 ∧ (homeOf (localOf syn)).array = 8 ∧ homeOf holeAt = .hole) := by
  unfold State.wf Plain; decide +kernel

/-- A flit of kind `k` on channel `v`, with a CRC, that receive slot 0, locked, takes. -/
def flitOf (k : BitVec 4) (v : BitVec 3) (addr : W64) (word : W32) (pay : Row) : Flit :=
  let f : Flit := ⟨addr, word, 0, 0, k, 1, false, false, v, 5, false, 0, pay, 0, 0⟩
  { f with trailer := BitVec.ofNat 128 (flitCrc f) }
def hears (s : State) : State := { s with rxs := [(0, { RxSlot.reset with locked := true })] }
theorem heard_in (s : State) (k : BitVec 4) (v : BitVec 3) (addr : W64) (word : W32) (pay : Row)
    (h : (s.rx 0).locked = true ∧ kindOk k.toNat v.toNat = true ∧ s.integ v.toNat = false) : Heard s 0 (flitOf k v addr word pay) :=
  ⟨h.1, h.2.1, show (1 : BitVec 2) ≠ 3 by decide, rfl, rfl, h.2.2, flitCrc_trailer _⟩
theorem heard_flitOf (k : BitVec 4) (v : BitVec 3) (addr : W64) (word : W32) (pay : Row) (h : kindOk k.toNat v.toNat = true ∧ s0.integ v.toNat = false) :
    Heard (hears s0) 0 (flitOf k v addr word pay) := heard_in _ k v addr word pay ⟨by decide, h⟩
theorem witness_Heard (a : W64) (w : W32) (p : Row) : Heard (hears s0) 0 (flitOf 0 2 a w p) ∧ Heard (hears s0) 0 (flitOf 1 2 a w p) ∧
    Heard (hears s0) 0 (flitOf 11 4 a w p) ∧ Heard (hears s0) 0 (flitOf 3 2 a w p) ∧ Heard (hears s0) 0 (flitOf 2 3 a w p) ∧
    Heard (hears s0) 0 (flitOf 7 4 a w p) := by
  refine ⟨?_, ?_, ?_, ?_, ?_, ?_⟩ <;> exact heard_flitOf _ _ _ _ _ (by decide)
/-- Slot 0 of both directions lit and locked. -/
def wired : State := { hears s0 with
  txs := [(0, { TxSlot.reset with locked := true })], rxs := [(0, { RxSlot.reset with locked := true })], planTx := [(0, 0xC5)], planRx := [(0, 0xC5)] }
theorem witness_DeviceRequests : (0 < 256 ∧ (s0.rx 0).locked = false) ∧ (256 ≤ 256 ∧ ∀ f, Taken s0 256 f) ∧
    (∀ f ∈ [flitOf 0 2 (BitVec.ofNat 64 plainAt) 0 5, flitOf 3 2 syn 0 0, flitOf 2 3 0 0 5], (hears s0).hopFrom (slotDie 0) (flitHome f) = none) ∧
    (let f := flitOf 0 2 (BitVec.ofNat 64 (2 * Config.stackBytes)) 0 5
     flitHome f = 1 ∧ (hears s0).hopFrom (slotDie 0) (flitHome f) = some 0) ∧
    ((flitOf 1 2 (BitVec.ofNat 64 holeAt) 0 0).rows ≠ 0 ∧ homeOf (localOf (flitOf 1 2 (BitVec.ofNat 64 holeAt) 0 0).addr) = .hole) ∧
    ((hears s0).wf ∧ Plain (hears s0) (localOf (flitOf 0 2 (BitVec.ofNat 64 plainAt) 0 5).addr) ∧ Plain (hears s0) (rowBase plainAt) ∧
      (flitOf 0 2 (BitVec.ofNat 64 plainAt) 0 5).rows = 1 ∧ (hears s0).isPoison plainAt = false ∧ bit ((hears s0).reg 0x301) 63 = false) ∧
    (let f := { flitOf 0 2 (BitVec.ofNat 64 (plainAt + 1)) 0 5 with rows := 2, pay1 := 0xFF }
     isPart f = true ∧ Plain s0 (localOf f.addr) ∧ Plain s0 (rowBase (localOf f.addr)) ∧ s0.isPoison (localOf f.addr) = false ∧ f.pay1 ≠ fullMask) ∧
    (let f := flitOf 1 2 (BitVec.ofNat 64 plainAt) 0 0
     let r := wired.flit 2 3 f.srcCore.toNat f.srcCtx.toNat f.part.toNat f.addr f.word.toNat 1 f.c (wired.rawRow plainAt) 0
     wired.wp = none ∧ Plain wired (localOf f.addr) ∧ wired.slotFor (rxDie 0) f.srcDev.toNat r = some 0 ∧ slotDie 0 = rxDie 0) ∧
    (let f := flitOf 3 2 syn 0 (BitVec.ofNat 1024 ((12 * 2 ^ 5 + 2 ^ 10) * 2 ^ 512))
     let w := f.pay0.toNat / 2 ^ 512 % 2 ^ 32
     let y := rowBase (localOf f.addr) + 8 * (w % 2 ^ 5)
     bitsOf w 5 5 = 12 ∧ bitsOf w 10 1 = 1 ∧ bitsOf w 11 1 = 0 ∧ bitsOf (localOf f.addr) 52 4 = 15 ∧ s0.syPresent y = true ∧ SyncSound s0 y ∧
       (s0.syWord y).kind = .plain) ∧
    (let f := flitOf 2 3 0 (BitVec.ofNat 32 (tagOf 0 1 0)) 5
     let q := { ldQ with st := .sent }
     (hears (withQ q)).tagHolder f = some 0 ∧ ((hears (withQ q)).ctx 0).q.find? (fun q => (accRow f q).isSome && q.isLoad) = some q ∧ q.what = .ld ∧
       ((hears (withQ q)).ctx 0).land[0]? = some rowE ∧ rowE.op = q.op ∧ rowE.sub = q.idx ∧ rowE.got = false ∧ rowE.kind = .row) := by
  refine ⟨by decide, ⟨by decide, fun _ => .inl (by decide)⟩, ?_⟩
  unfold State.wf Plain SyncSound State.wf; decide +kernel
def words (k : SyncKind) (v : W64) : State := { s0 with sync := [(syKey (localOf syn), ⟨k, v⟩)] }
def bound (v : W64) : State := { words .dep v with entries := [(7, ⟨.new, .bound, 0, 0, 7, 0, 0, 0, 0, 0, []⟩)] }
/-- An overflow area of 4 MiB of die 0's sync words. -/
def overflowing : State := { s0 with regs := State.reset.regs.put 0x320 2 }
theorem witness_SyncWords : (devOf syn = s0.dev.devid.toNat ∧ s0.syPresent (localOf syn) = true ∧ s0.syPresent (localOf (syn + 0x400000)) = false) ∧
    (syView (localOf syn) = 0 ∧ syView (localOf (syn + 2 ^ 57)) = 2 ∧ syView (localOf (syn + 2 ^ 56)) = 1 ∧ s0.syPresent (localOf (syn + 2 ^ 57)) = true ∧
      s0.syPresent (localOf (syn + 2 ^ 56)) = true) ∧ (s0.syWord (localOf syn)).kind = .plain ∧
    (∀ n ∈ [0, 1, 2], let v : W64 := BitVec.ofNat 64 n
      ((words .dep v).syWord (localOf syn)).kind = .dep ∧ fld ((words .dep v).syWord (localOf syn)).val 0 32 = n ∧
        ((words .arr v).syWord (localOf syn)).kind = .arr ∧ fld ((words .arr v).syWord (localOf syn)).val 0 32 = n) ∧
    (let v : W64 := 0x1000700000001
     ((bound v).syWord (localOf syn)).kind = .dep ∧ fld v 0 32 = 1 ∧ bit v 48 = true ∧
       (bound v).entries.find (syDie (localOf syn) * 65536 + fld v 32 16) ≠ none) ∧
    (let s := { words .arr 1 with sync := [(syKey (localOf syn), ⟨.arr, 1⟩), (syKey (localOf syn) + 1, ⟨.plain, 0x8000000000000800⟩)] }
     fld (s.syAt (syKey (localOf syn) + 1)).val 62 2 = 2) ∧
    (SyncSound s0 (localOf syn) ∧ SyncSound (words .dep 1) (localOf syn) ∧ SyncSound (words .arr 1) (localOf syn) ∧
      SyncSound (bound 0x1000700000001) (localOf syn) ∧ ((bound 1).entries.map Prod.fst).Nodup) ∧
    (let s := overflowing
     let a := localOf (syn + 2 ^ 22)
     s.syPresent a = true ∧ syOver (syKey a) = true ∧ SyncSound s a ∧ s.isPoison (s.ovAddr (syKey a)) = false ∧ (s.syWord a).kind = .plain) := by
  unfold SyncSound State.wf; decide +kernel
def arrived1 : State := { s0 with dies := [(0, { Die.reset with rdv := [⟨syn, [3], 2, [4]⟩] })] }
def rdvWaits (lim : W64) (at' : Option Nat) : State :=
  { tasked { Ctx.reset with hold := .rdv syn 1 false, csr := { Csrs.reset with rdvto := lim }, rdvAt := at' } with dies := [(0, { Die.reset with cyc := 5 })] }
theorem witness_Rendezvous : (SyncSound s0 (localOf syn) ∧ SyncSound arrived1 (localOf syn) ∧ (3 : Nat) ≠ 2 ∧ (4 : Nat) ≠ 5) ∧ ((rdvWaits 1 none).ctx 0).hold = .rdv syn 1 false ∧
    (devOf syn = s0.dev.devid.toNat ∧ s0.syPresent (localOf syn) = true ∧ (s0.syWord (localOf syn)).kind = .plain) ∧
    (0 : W32).toNat < ((words .plain 1).syWord (localOf syn)).val.toNat ∧
    ((s0.syWord (localOf syn)).val.toNat = (0 : W32).toNat ∧ (s0.die (syDie (localOf syn))).rdv = []) ∧
    ((arrived1.die (syDie (localOf syn))).rdv = [⟨syn, [3], 2, [4]⟩] ∧ (arrived1.die (syDie (localOf syn))).rdvWait = [] ∧
      (arrived1.syWord (localOf syn)).val.toNat = (0 : W32).toNat) ∧
    (((tasked Ctx.reset).syWord (localOf syn)).val.toNat < (1 : W32).toNat ∧ ((tasked Ctx.reset).ctx 0).task.isSome = true) ∧
    (((rdvWaits 0 none).ctx 0).hold = .rdv syn 1 false ∧ ((rdvWaits 0 none).ctx 0).rdvAt = none ∧ fld ((rdvWaits 0 none).ctx 0).csr.rdvto 0 32 = 0 ∧
      ((rdvWaits 5 (some 0)).ctx 0).hold = .rdv syn 1 false ∧ ((rdvWaits 5 (some 0)).ctx 0).rdvAt = some 0 ∧
      fld ((rdvWaits 5 (some 0)).ctx 0).csr.rdvto 0 32 = 5 ∧ (rdvWaits 5 (some 0)).cyc 0 = 5 ∧ fld ((rdvWaits 6 (some 0)).ctx 0).csr.rdvto 0 32 = 6 ∧
      { rdvWaits 1 none with arg := syn.toNat }.arg = syn.toNat) := by
  unfold SyncSound State.wf; decide +kernel

def reporting (c : Ctx) : State := { tasked c with cores := [(0, { Core.reset with region := [(0, 0xFFFF, 64, 64)] })] }
def twoTasks (c : Ctx) : State := { tasked c with groups := [(groupKey 3 0, { group0 with live := 2 })] }
theorem witness_TaskEvents : (((inHandler.core 0).run.isSome = true ∧ (s0.ctx 0).task = none) ∧
    (let s := reporting { Ctx.reset with reports := [⟨0x17, 5, 0, none⟩] }
     s.unit < 2048 ∧ (s.core 0).run = none ∧ (s.ctx 0).task ≠ none ∧ (s.ctx 0).reports = [⟨0x17, 5, 0, none⟩] ∧ ((s.core 0).regionOf 0xFFFF).isSome = true)) ∧
    (((s0.ctx 0).grace = false ∧ { Ctx.reset with halted := true }.halted = true) ∧
      (let s := tasked { Ctx.reset with grace := true }
       (s.ctx 0).grace = true ∧ (s.ctx 0).halted = false ∧ (s.ctx 0).task ≠ none ∧ (s.ctx 0).hold = .none)) ∧
    (let s := twoTasks { Ctx.reset with hold := .ending none }
     (s.ctx 0).hold = .ending none ∧ (s.ctx 0).task = some task0 ∧ s.groups.find task0.group = some { group0 with live := 2 } ∧ s.drained 0 = true) ∧
    ((twoTasks { Ctx.reset with hold := .ending none, land := [rowE] }).drained 0 = false) ∧
    (((tasked Ctx.reset).ctx 0).watch = 0 ∧ fld ((tasked Ctx.reset).reg 0x312) 0 16 ≠ 0 ∧
      fld ({ s0 with regs := State.reset.regs.put 0x312 0 }.reg 0x312) 0 16 = 0) ∧
    (let s := tasked { Ctx.reset with watch := 1 }
     (s.ctx 0).halted = false ∧ (s.ctx 0).hold ≠ .stuck ∧ s.arg = 0 ∧ { s with arg := 1 }.arg ≠ 0 ∧ fld (s.reg 0x312) 0 16 ≠ 0 ∧ (s.ctx 0).task = some task0 ∧ (s.ctx 0).watch = 1 ∧ s.cmds.find task0.cmd = some cmd0 ∧ cmd0.st ≠ .done) ∧
    (let s := tasked { Ctx.reset with watch := 2 }
     (s.ctx 0).watch = 2 ∧ (s.ctx 0).task ≠ none ∧ fld (s.reg 0x312) 0 16 ≠ 0) := by decide +kernel
def snap0 : Snapshot := ⟨[], [], 0, 0, 0x20, 0, [0, 0, 0, 0, 0, 0], none, 0, 0, 0, false, 0, 0⟩
def rolling (irrev : Bool) (q : List QAcc) : State :=
  reporting { Ctx.reset with hold := .rollback, snap := some snap0, poisoned := some (6, 8), irrev := irrev, q := q }
theorem witness_Segments : ((landOne1 rowE).segReady (landOne1 rowE).unit = false ∧ s0.segReady s0.unit = true) ∧ (inHandler.hidden = true ∧ s0.hidden = false) ∧
    (let s := rolling true []
     s.unit < 2048 ∧ (s.ctx s.unit).hold = .rollback ∧ (s.ctx s.unit).snap = some snap0 ∧ (s.ctx s.unit).poisoned = some (6, 8) ∧ s.rollReady s.unit = true ∧
       (s.ctx s.unit).irrev = true ∧ (s.core (s.unit / 4)).run = none ∧ ((s.core (s.unit / 4)).regionOf 0xFFFF).isSome = true) ∧
    ((rolling false [stQ]).rollReady 0 = false ∧ (rolling false []).rollReady 0 = true ∧ ((rolling false []).ctx 0).irrev = false) ∧
    (let s := { rolling false [] with ctxs := (rolling false []).ctxs.put 1 { Ctx.reset with hold := .rdv 8 1 false, task := some task0, rdvAt := some 1 } }
     s.rollReady 0 = true ∧ (s.ctx 0).irrev = false ∧ (s.ctx 0).hold = .rollback ∧ (s.ctx 0).task = some task0 ∧ (s.ctx 1).hold = .rdv 8 1 false ∧
       (s.ctx 1).task = some task0 ∧ (s.ctx 1).rdvAt = some 1) := by decide +kernel
/-- A pool on die 0 of 512 MiB, so with save slots. -/
def saving (h : Hold) : State := { tasked { Ctx.reset with hold := h, req := true } with regs := State.reset.regs.put 0x320 9 }
def saved0 : Saved := ⟨0, task0, 0, [ldQ], [rowE], [], none, [], .none, [], []⟩
theorem plain_stack0 (a : Nat) (h : a < 0x44000) : Plain s0 a := by
  refine ⟨witness_Quiet.2 a, ?_⟩
  have h1 : bitsOf a 52 4 = 0 := by unfold bitsOf; omega
  have h2 : a < Config.nStacks * Config.stackBytes := Nat.lt_trans h (by decide)
  have : homeOf a = .hbm (a / Config.stackBytes) := by unfold homeOf; rw [h1, if_neg (by decide), if_pos h2]
  rw [this]; simp [Home.array]
theorem witness_ContextSaves : ((s0.ctx s0.unit).req = false ∧ (let c := { Ctx.reset with req := true, remain := 5 }; c.req = true ∧ c.remain ≠ 0)) ∧
    (let s := saving .none
     (s.ctx 0).req = true ∧ (s.ctx 0).remain = 0 ∧ (s.ctx 0).task ≠ none ∧ (s.ctx 0).hold = .none ∧ (s.freeSave (dieOfCore (0 / 4))).isSome = true) ∧
    (let s := saving (.save 0x0F false)
     (s.ctx s.unit).task = some task0 ∧ (s.ctx s.unit).hold = .save 0x0F false ∧ s.freeSave (dieOfCore (s.unit / 4)) = some 0 ∧ s.canSave s.unit 0x0F = true) ∧
    (let s := { saving (.save 0x0F false) with timed := [rdAcc] }; s.canSave s.unit 0x0F = false ∧ s.freeSave 0 = some 0) ∧
    (let s := { s0 with saves := [(0, saved0)], dies := [(0, { Die.reset with cyc := 10 })] }
     s.saves.find s.unit = some saved0 ∧ saved0.q = [ldQ] ∧ ldQ.what = .ld ∧ ldQ.isLoad = true ∧ s.mayPerform (4096 + s.unit) 0 = true ∧ ldQ.ext = false ∧
       devOf ldQ.addr = s.dev.devid.toNat ∧ localOf ldQ.addr = plainAt ∧ bit (s.reg 0x301) 63 = false ∧ s.isPoison plainAt = false ∧
       saved0.land[0]? = some rowE ∧ rowE.op = ldQ.op ∧ rowE.sub = ldQ.idx ∧ rowE.got = false ∧ rowE.kind = .row ∧ Plain s plainAt ∧ s.wf) ∧
    (saved0.addr % 128 = 0 ∧ ∀ a, saved0.addr + 0x40D00 ≤ a → a < saved0.addr + 0x44000 → Plain s0 a) := by
  refine ⟨?_, ?_, ?_, ?_, ?_, rfl, fun a _ h => plain_stack0 a (Nat.lt_of_lt_of_eq h rfl)⟩ <;> (try unfold Plain State.wf) <;> decide +kernel

def dictAt (v : W64) : State := { s0 with regs := (State.reset.regs.put 0x341 0x10000).put 0x342 v }
def stepping : State := { s0 with cores := [(0, { Core.reset with dbgcfg := 2 })] }
def fe : FetchEnt := ⟨0, 1, [], none, none, []⟩
theorem witness_DictionaryAndDebug :
    ((dictAt (0x5001 * 2 ^ 32 + 511)).dictRefused = some 4) ∧
    (let s := dictAt (2 ^ 48 + 2 ^ 32 + 16383 * 2 ^ 16)
     s.dictRefused = none ∧ s.dBase = 16383 ∧ ∀ i, i < s.dCount → entryOk (s.bytes (localOf (s.reg 0x341) / 16 * 16 + 48 * i) 48) = true) ∧
    (let s := { dictAt (5 * 2 ^ 48) with cores := [(0, { Core.reset with region := [(1, (5, 0, 4))] })] }
     s.map.cores.getLsbD s.dCore = true ∧ ((s.core s.dCore).regionOf s.dId).isSome = true) ∧
    (let s := tasked Ctx.reset; (ctxsOf 0).any { s with regs := s.regs.put 0x331 3 }.isTarget = true) ∧
    ((s0.core s0.unit).mode ≠ 2 ∧ (stepping.core stepping.unit).mode = 2) ∧
    ((s0.ctx s0.unit).rngWait = false ∧ { Ctx.reset with rngWait := true }.rngWait = true) ∧
    (let s := tasked { Ctx.reset with fq := [fe] }
     s.unit < 2048 ∧ (s.ctx 0).task ≠ none ∧ (s.ctx 0).lp = none ∧ (s.ctx 0).hold = .none ∧ bit (s.reg 0x301) 63 = false ∧ (s.ctx 0).fq.length < 8 ∧
       (s.ctx 0).fq.getLast? = some fe ∧ ((tasked Ctx.reset).ctx 0).fq = [] ∧ 8 ≤ ((tasked { Ctx.reset with fq := List.replicate 8 fe }).ctx 0).fq.length) ∧
    (let e : FetchEnt := { fe with seen := [(0, 1), (128, 2)] }
     let s := { tasked { Ctx.reset with fq := [fe, e] } with arg := 2 }
     s.unit < 2048 ∧ (s.ctx 0).task ≠ none ∧ (s.ctx 0).lp = none ∧ (s.ctx 0).hold = .none ∧ s.arg = 1 + 1 ∧ (s.ctx 0).fq = [fe] ++ [e] ∧
       1 < e.seen.length ∧ fe.seen.length ≤ 1) ∧
    (s0.wf ∧ 128 % 128 = 0) := by
  unfold State.wf; decide +kernel
def sends : State := { s0 with txs := [(0, { TxSlot.reset with locked := true, q := [flitOf 1 2 0 0 0] })] }
def plainFlit : Flit := ⟨0, 0, 0, 0, 1, 1, false, false, 2, 0, false, 0, 0, 0, 0⟩
def naked (n : Nat) : State := { s0 with
  txs := [(0, { TxSlot.reset with locked := true, fails := n })]
  rxs := [(0, { RxSlot.reset with freed := [0, 0, 1, 0, 0, 0] })] }
/-- A flit that needs a tag, at slot 0: with a key whose counter is spent, or with none. -/
def secret : Flit := { plainFlit with c := true }
def sendsSecret : State := { s0 with txs := [(0, { TxSlot.reset with locked := true, q := [secret] })] }
def replays (f : Flit) : State := { s0 with
  txs := [(0, { TxSlot.reset with locked := true, replay := [f], owed := 1 })]
  dev := { s0.dev with keys := [(keyId 0 (s0.txPeer 0) 0 0, ⟨0, 2 ^ 48⟩)] } }
/-- Both directions of slot 0 locked, its transmit slot as given; a control flit about it. -/
def heardBy (t : TxSlot) : State := { wired with txs := [(0, t)] }
def ctl (k : BitVec 4) (addr : W64) : Flit := flitOf k 4 addr 5 (BitVec.ofNat 1024 (3 + 2 ^ 33))
theorem heardPlain_ctl (t : TxSlot) (k : BitVec 4) (addr : W64) (h : 7 ≤ k.toNat ∧ k.toNat ≤ 11) : HeardPlain (heardBy t) 0 (ctl k addr) :=
  ⟨by decide, heard_in _ _ _ _ _ _ ⟨rfl, by simp [kindOk, h], show s0.integ 4 = false by decide⟩, Nat.zero_lt_succ 14, rfl⟩
theorem witness_LinkSlots :
    (let t := s0.tx 0
     (t.locked = false ∨ t.owed = 0) ∧ (if s0.txReady 0 (arbOwner t.pos) then some (arbOwner t.pos) else [4, 1, 3, 2, 5, 0].find? (s0.txReady 0)) = none) ∧
    (let t := sends.tx 0
     (t.locked = false ∨ t.owed = 0) ∧
     (if sends.txReady 0 (arbOwner t.pos) then some (arbOwner t.pos) else [4, 1, 3, 2, 5, 0].find? (sends.txReady 0)) = some 2 ∧
       (t.q.find? (fun f => f.vc.toNat == 2)).map isMarker = some false ∧
       (t.q.find? (fun f => f.vc.toNat == 2)).map (sends.keyAt (sends.txPeer 0)) = some .send) ∧
    (let t := sendsSecret.tx 0
     (if sendsSecret.txReady 0 (arbOwner t.pos) then some (arbOwner t.pos) else [4, 1, 3, 2, 5, 0].find? (sendsSecret.txReady 0)) = some 2 ∧
       t.q.find? (fun f => f.vc.toNat == 2) = some secret ∧ isMarker secret = false ∧ sendsSecret.keyAt (sendsSecret.txPeer 0) secret = .missing) ∧
    (∀ p ∈ [(plainFlit, KeySt.send), (secret, .wait)], let s := replays p.1
      (s.tx 0).locked = true ∧ (s.tx 0).owed ≠ 0 ∧ (s.tx 0).replay[(s.tx 0).replay.length - (s.tx 0).owed]? = some p.1 ∧ s.keyAt (s.txPeer 0) p.1 = p.2) ∧
    (let f := plainFlit
     let s := { s0 with links := [(linkKey (.bridge 11 true), ⟨[(f, 256 + 7)], 15⟩)] }
     s.links.get LinkQ.reset (linkKey (.bridge 11 true)) = ⟨[(f, 256 + 7)], 15⟩ ∧ f.vc.toNat < 6 ∧ 256 + 7 = 256 + bridgeEnd 11 true) ∧
    ((s0.rx s0.unit).freed.all (· == 0) = true ∧ ((naked 0).rx 0).freed.all (· == 0) = false) ∧ (s0.rx 255).locked = false ∧
    (∀ n ∈ [0, 15], let t := { TxSlot.reset with locked := true, fails := n }; t.locked = true ∧ t.fails < 16) ∧ 16 ≤ { TxSlot.reset with fails := 16 }.fails ∧
    (let t := { TxSlot.reset with locked := true, await := some 9 }
     let s := heardBy t
     s.tx 0 = t ∧ s.txOf (ctl 9 0) = some 0 ∧ s.txOf (ctl 7 (2 ^ 32 + 9)) = some 0 ∧ isMarker (ctl 9 0) = false ∧ isMarker (ctl 7 (2 ^ 32 + 9)) = false ∧
       bit (ctl 7 (2 ^ 32 + 9)).addr 32 = true ∧ t.await = some (fld (ctl 7 (2 ^ 32 + 9)).addr 0 32) ∧ t.await ≠ some (fld (ctl 7 (2 ^ 32 + 8)).addr 0 32)) ∧
    ((ctl 7 9).kind = 7 ∧ bit (ctl 7 9).addr 32 = false ∧
      (List.range 6).map (fun v => (flitOf 7 4 0 5 0).pay0.toNat / 2 ^ (32 * v) % 2 ^ 32) = (wired.rx 0).accepted ∧
      (List.range 6).map (fun v => (ctl 7 9).pay0.toNat / 2 ^ (32 * v) % 2 ^ 32) ≠ (wired.rx 0).accepted) := by decide +kernel
def wp0 (dark relock : Bool) : WpRun := ⟨0, dark, relock, false, 7, [(0, 0x81)], [(0, 0x81)], []⟩
def planning (dark relock : Bool) : State := { s0 with wp := some (wp0 dark relock) }
theorem witness_WavelengthPlan : s0.wp = none ∧ (planning false false).wp = some (wp0 false false) ∧
    ((planning false false).drainOver (wp0 false false) = false ∧
      ({ planning false false with wp := some { wp0 false false with timeout := true } }.drainOver { wp0 false false with timeout := true } = true)) ∧
    ((wp0 false false).dark = false ∧ (wp0 true false).dark = true ∧ (wp0 true false).relock = false ∧ (wp0 true true).relock = true) ∧
    (slotLit ((wp0 true true).tx.get 0 0) = true ∧ ((planning true true).tx 0).locked = false ∧ (planning true true).planTx.get 0 0 ≠ (wp0 true true).tx.get 0 0) ∧
    (slotLit ((wp0 true true).rx.get 0 0) = true ∧ ((planning true true).rx 0).locked = false) ∧
    ({ planning true true with planTx := [(0, 0x81)], planRx := [(0, 0x81)] }.planTx.get 0 0 = (wp0 true true).tx.get 0 0) ∧
    slotLit ((wp0 true true).tx.get 0 255) = false ∧ plainFlit.vc ≠ 4 ∧ (ctl 7 0).vc = 4 := by decide +kernel

/-- A tree of partition 0 in use: entry 1, an all-reduce of 2 rows a segment with 1 buffer, one member, its record at 0x20000: a buffer at
0x30000, a status ring at 0x40000, receiving. -/
def handle : W32 := 0x1001
def treeEntry : Nat := 0x1001 + 2 ^ 32 + 2 * 2 ^ 40 + 2 * 2 ^ 64 + 2 ^ 96 + 2 ^ 160 + 0x20000 * 2 ^ 192
def member0 : Nat := 0x30000 + 0x40000 * 2 ^ 64 + 2 * 2 ^ 216
def seam0 : Seam := { holdOnly 0 handle 0 with ports := [0, 1], ph := .opened, expected := 3, recv := [0, 0], slot := true, idx := 0 }
def treed (x : Seam) : State := { s0 with
  regs := State.reset.regs.put 0x308 0x10001, mem := putBytes 0x20000 32 member0 (putBytes 0x10100 256 treeEntry []), seams := [(seamKey 0 handle 0, x)] }
def up (seg row key : Nat) : Flit := { flitOf 4 0 (treeAddr seg row false false false key) handle 5 with srcDev := 0 }
/-- Member 0 is the whole of the subtree under port 0. -/
def kidSeam : Seam := { seam0 with subs := [[0], []] }
def onePort : Seam := { seam0 with expected := 1 }
theorem witness_Trees_up : let f := up 0 0 0
    (let s := treed seam0
     let e := s.seamEnt seam0
     s.seams.find (seamKey 0 handle 0) = some seam0 ∧ seam0.part = f.part.toNat ∧ seam0.handle = f.word ∧ seam0.place < 2 ^ 17 ∧ seam0.slot = true ∧
       seam0.ports.idxOf? (fKey f) = some 0 ∧ seam0.ph = .opened ∧ seam0.seg = fSeg f ∧ seam0.expected.getLsbD 0 = true ∧ seam0.frozen = false ∧ f.rows = 1 ∧
       fRow f = seam0.recv.getD 0 0 ∧ fRow f + 1 ≤ seam0.folded + placeW seam0.place ∧ fRow f + 1 ≤ teP e ∧ seam0.folded < 256 ∧ seam0.folded < teP e ∧
       (1 ≠ 0 ∧ 1 < seam0.ports.length ∧ seam0.expected.getLsbD 1 = true ∧ seam0.staged.find (stKey 1 seam0.folded) = none)) ∧
    (let e := (treed onePort).seamEnt onePort
     onePort.expected = BitVec.ofNat 64 (2 ^ 0) ∧ onePort.staged = [] ∧ fRow f = onePort.folded ∧ onePort.folded + 1 < teP e ∧ 0 < onePort.ports.length) ∧
    (seam0.ports.idxOf? (fKey (up 0 0 5)) = none ∧ (up 0 0 5).rows ≠ 0 ∧ (treed seam0).injHit 9 (routerName seam0.place) = false) ∧
    (let x := { kidSeam with ph := .idle }
     let s := { treed x with mem := putBytes 0x20000 32 (member0 + 2 ^ 216) (treed x).mem }
     s.seams.find (seamKey 0 handle 0) = some x ∧ x.slot = true ∧ x.ports.idxOf? (fKey (up 0 1 0)) = some 0 ∧ x.ph = .idle ∧ x.seg = fSeg (up 0 1 0) ∧
       (s.expectedAt x x.seg).getLsbD 0 = true ∧ (up 0 1 0).rows ≠ 0 ∧ fRow (up 0 1 0) ≠ x.recv.getD 0 0) ∧
    (let s := treed kidSeam
     kidSeam.ports.idxOf? (fKey f) = some 0 ∧ (kidSeam.sub 0).any (fun m => s.inTree kidSeam.handle (s.seamEnt kidSeam) m (fSeg f)) = true ∧
       kidSeam.late.contains (fKey f, fSeg f) = false ∧ hOwner kidSeam.handle = s.dev.devid.toNat) := by decide +kernel
def downSeam : Seam := { seam0 with ports := [0], kidAt := [(0, 0)] }
theorem witness_Trees_down : let s := treed downSeam
    let f := { up 0 1 0 with kind := 5 }
    let e := s.seamEnt downSeam
    (downSeam.ports = [0] ∧ downSeam.kidAt.map Prod.fst = [s.dev.devid.toNat] ∧ placeLevel downSeam.place ≠ 3 ∧
      s.takesIn downSeam.part downSeam.handle e 0 (fSeg f) = true) ∧
    (let t := { s with mem := putBytes 0x20000 32 (member0 - 2 ^ 216) s.mem }
     t.takesIn downSeam.part downSeam.handle (t.seamEnt downSeam) 0 (fSeg f) = false) ∧
    (∀ k ∈ [0, 1], let d := destOf e (s.recOfMember downSeam.part downSeam.handle e 0) (fSeg f) (fRow f + k)
     devOf d = s.dev.devid.toNat ∧ Plain s (localOf d) ∧ s.wf) ∧ f.rows ≠ 2 ∧ { f with rows := 2 }.rows = 2 ∧
    (let e := s.entOf s.unit handle
     let r := s.recOfMember s.unit handle e 0
     let a := mrStat r + BitVec.ofNat 64 (0 % teNbuf e * 16)
     devOf a = s.dev.devid.toNat ∧ Plain s (localOf a) ∧ s.isPoison (localOf a) = false ∧ a.toNat % 16 = 0) := by
  unfold State.wf Plain; decide +kernel
def noSlot : Seam := { seam0 with slot := false }
/-- Core 0's router with its four slots live. -/
def fullRouter : State := { s0 with seams := (seamKey 0 handle 0, noSlot) :: (List.range 4).map fun k =>
  (seamKey 0 (BitVec.ofNat 32 (0x2001 + 0x1000 * k)) 0, { seam0 with handle := BitVec.ofNat 32 (0x2001 + 0x1000 * k) }) }
/-- A tree of device 1, with a seam in core 0's router. -/
def farHandle : W32 := 0x4001001
def farSeam0 : FarSeam := ⟨BitVec.ofNat 2048 (treeEntry + 2 ^ 26), 0, none, 0, [0], [(0, 0)], [[0]]⟩
def timedOut : Seam := { seam0 with parent := some (1, 0), seg := 1 }
theorem witness_Trees : (s0.seams.find (seamKey 0 handle 0) = none ∧ hOwner handle = s0.dev.devid.toNat ∧ (up 0 0 0).srcDev = s0.dev.devid ∧ placeLevel 0 ≠ 3) ∧
    (let s := treed noSlot
     s.seams.find (seamKey s.unit handle 0) = some noSlot ∧ noSlot.ports ≠ [] ∧ noSlot.handle = handle ∧ noSlot.slot = false ∧
       (s.seams.filter fun y => sameRouter y.2.place 0 && y.2.slot).length < slotsOf 0) ∧
    ({ noSlot with frozen := true }.frozen = true ∧ { noSlot with ph := .idle }.ph = .idle ∧ seam0.slot = true) ∧
    (fullRouter.seams.find (seamKey fullRouter.unit handle 0) = some noSlot ∧
      slotsOf 0 ≤ (fullRouter.seams.filter fun y => sameRouter y.2.place 0 && y.2.slot).length ∧
      ∀ y ∈ fullRouter.seams, y.2.slot = true → y.2.idleNow = false) ∧
    (let s := { s0 with seams := [(seamKey 0 farHandle 0, holdOnly 0 farHandle 0)] }
     s.seams.find (seamKey s.unit farHandle 0) = some (holdOnly 0 farHandle 0) ∧ (holdOnly 0 farHandle 0).ports = [] ∧ (holdOnly 0 farHandle 0).place = 0 ∧
       (holdOnly 0 farHandle 0).part = s.unit ∧ hOwner farHandle ≠ s.dev.devid.toNat ∧ teState farSeam0.entry = 1 ∧ lnrF farSeam0.entry 0 4 = farHandle.toNat) ∧
    (noSlot.ph = .opened ∧ { noSlot with ph := .idle }.ph ≠ .opened ∧ s0.cycle < { noSlot with timer := 1 }.timer) ∧
    (let s := treed timedOut
     s.seams.find (seamKey s.unit handle 0) = some timedOut ∧ timedOut.handle = handle ∧ timedOut.ph = .opened ∧ timedOut.frozen = false ∧ timedOut.slot = true ∧
       timedOut.timer ≤ s.cycle ∧ timedOut.parent = some (1, 0) ∧ (s.win timedOut.part timedOut.handle (4096 + timedOut.idx)).1 ≠ timedOut.seg ∧
       0 < teP (s.seamEnt timedOut) ∧ teP (s.seamEnt timedOut) ≤ 256 ∧ timedOut.folded ≤ teP (s.seamEnt timedOut)) ∧
    (let f := up 0 255 4095; 4095 < 4096 ∧ fPart f = false ∧ segLt (fSeg f) (s0.win f.part.toNat f.word 4095).1 = false) ∧
    ({ s0 with dev := { s0.dev with rst := .badImage } }.mute = true ∧ s0.mute = false) ∧ ((treed seam0).ttBusy 0 = true ∧ (s0.wf ∧ s0.ttBusy 7 = false ∧ fld 0x2000E 0 5 ≠ 0 ∧ (0x2000E : W64).toNat % 2 ^ 16 / 2 ^ 5 = 0 ∧ fld 0x2000E 0 5 ≤ 14 ∧
      (0x2000E : W64) ≠ s0.reg (0x308 + 7))) := by unfold State.wf; decide +kernel

/-- Entry 3 of die 0's expert table: one replica with a ring of 64 rows at 0x10000, with a sync word. -/
def expertRow : Row := BitVec.ofNat 1024 (3 + 2 ^ 16 + (0x10000 + 64 * 2 ^ 64 + syn.toNat * 2 ^ 128) * 2 ^ 256)
def esend : RunCmd := { runCopy none none 0 with c := { copyCmd with op := 7 } }
def routing (tab : AMap Row) : State := { s0 with etab := tab, cores := [(0, { Core.reset with mainE := some esend })] }
def exF : Flit := flitOf 6 5 (exAddr 0 0 1 0) 3 5
def ring0 : Ring := { Ring.reset with waiting := [(recOf exF 0 3 0 0, [5])] }
def record0 : RingRec := { recOf exF 0 3 0 0 with got := 1, src := 0 }
def ringed (g : Ring) : State := { s0 with unit := plainAt, rings := [(plainAt, g)] }
theorem witness_ExpertExchange :
    (let s := routing []
     (s.core exF.srcCore.toNat).mainE = some esend ∧ esend.c.op = 7 ∧ esend.status = none ∧ esend.aux = 0 ∧ esend.side % 2 ^ 32 = exSeq exF ∧ s.chooseRep 7 (exF.word.toNat % 2 ^ 16) = none) ∧
    (let s := routing [(3, expertRow)]
     s.chooseRep 0 (exF.word.toNat % 2 ^ 16) = some 0 ∧ devOf (rpRing (etRep (s.etRow 0 3) 0)) = s.dev.devid.toNat ∧ exRow exF = 0) ∧
    (let s := ringed ring0
     let used := (ring0.reserved + 2 ^ 32 - bitsOf (s.ringCtl s.unit) 32 32) % 2 ^ 32
     s.rings.find s.unit = some ring0 ∧ used + ((recOf exF 0 3 0 0).rows + 1) ≤ ring0.size ∧ (recOf exF 0 3 0 0).void = false ∧
       (recOf exF 0 3 0 0).rows ≤ [(5 : Row)].length) ∧
    (let g := { ring0 with reserved := 63 }
     let used := (g.reserved + 2 ^ 32 - bitsOf ((ringed g).ringCtl plainAt) 32 32) % 2 ^ 32
     g.size < used + ((recOf exF 0 3 0 0).rows + 1)) ∧
    (let g := { Ring.reset with recs := [record0] }
     let s := ringed g
     s.rings.find s.unit = some g ∧ g.waiting = [] ∧ g.recs = [record0] ∧ record0.rows ≤ record0.got ∧ s.wf ∧ Plain s s.unit ∧ s.isPoison s.unit = false ∧
       s.unit % 128 = 0 ∧ record0.src = s.dev.devid.toNat ∧ (recOf exF 0 3 0 0).got < (recOf exF 0 3 0 0).rows) ∧
    (let r := { esend with aux := 1, mapRow := etRep expertRow 0 }
     let s := { routing [(3, expertRow)] with cores := [(0, { Core.reset with mainE := some r })] }
     r.c.ctx < 2048 ∧ r.c.ctx % 4 = 0 ∧ r.side % 2 ^ 32 = 0 ∧ (s.core s.unit).mainE = some r ∧ r.c.op = 7 ∧ r.status = none ∧ r.aux = BitVec.ofNat 64 (0 + 1) ∧ rpRing r.mapRow = BitVec.ofNat 64 plainAt ∧
       0 < etNrep (s.etRow 0 3) ∧ rpRing (etRep (s.etRow 0 3) 0) = BitVec.ofNat 64 plainAt) := by unfold State.wf Plain; decide +kernel

def ready (s : State) : State := { s with dev := { s.dev with rst := .ready } }
/-- An entry of SEQ n, opcode op and payload bytes. -/
def entOf (n op pay : Nat) : Row := BitVec.ofNat 1024 (n + op * 2 ^ 136 + pay * 2 ^ 256)
/-- Queue 0 enabled, with an entry of SEQ n in its ring of 64, and a journal of 2 records. -/
def queueing (q : HQueue) (n : Nat) : State :=
  let s := ready { s0 with queues := [(0, q)], hostMem := putBytes 0 128 (entOf n 0 0).toNat [], regs := State.reset.regs.put 0x310 0x100001 }
  { s with dev := { s.dev with replayed := true } }
def qOn : HQueue := { HQueue.reset with qctl := 0x601, tail := 1 }
def qDev : HQueue := { qOn with qctl := 0x603, qbase := BitVec.ofNat 64 holeAt, qtaila := BitVec.ofNat 64 holeAt }
def cmdOf (op pay : Nat) (st : CSt) : Cmd := { cmd0 with entry := entOf 5 op pay, st := st, launch := none }
def commanded (c : Cmd) : State := ready { s0 with cmds := [(5, c)], unit := 5 }
/-- Record 1 of the journal holds SEQ 9, accepted. -/
def journaled : State :=
  let s := ready { queueing qOn 0 with regs := (queueing qOn 0).regs }
  { s with dev := { s.dev with replayed := false }, mem := ((s.jPut (s.jRec 1) 9).jPut (s.jRec 1 + 128) (BitVec.ofNat 1024 (2 ^ 8))).mem }
theorem witness_HostQueues_accept : ((s0.serving = false ∧ (s0.hq 0).en = false ∧ { qOn with qstat := 256 }.stoppedQ = true) ∧
      ((queueing { qOn with tail := 0 } 0).hq 0).tail = ((queueing { qOn with tail := 0 } 0).hq 0).qhead) ∧
    (∀ n ∈ [0, 1], let s := queueing qOn n
      let h := s.hq s.unit
      let e : Row := BitVec.ofNat 1024 (s.ringGet h.loc (h.qbase.toNat / 128 * 128 + h.qhead.toNat % h.size * 128) 128)
      s.serving = true ∧ h.en = true ∧ h.stoppedQ = false ∧ s.ringOk h.loc (h.qtaila.toNat / 8 * 8) = true ∧ h.tail ≠ h.qhead ∧ s.jCount ≠ 0 ∧ s.dev.replayed = true ∧
        s.ringOk h.loc 0 = true ∧ enSEQ e = n) ∧
    (let s := queueing qDev 0
     s.serving = true ∧ (s.hq 0).en = true ∧ s.ringOk (s.hq 0).loc holeAt = false ∧ s.ringOk (s.hq 0).loc (holeAt / 128 * 128 + 0) = false) ∧
    (enSEQ (entOf 0 0 0) < { qOn with qseq := 1 }.qseq.toNat ∧ qOn.qseq.toNat < enSEQ (entOf 1 0 0) ∧ enSEQ (entOf 0 0 0) = qOn.qseq.toNat ∧
      (∀ c ∈ (queueing qOn 0).cmds, c.2.recNo % (queueing qOn 0).jCount ≠ (queueing qOn 0).dev.jpos % (queueing qOn 0).jCount) ∧ qOn.slotFree 0 = true ∧ (((queueing qOn 0).cmdsOf 0).head?) = none ∧
      entRefused qOn (entOf 0 0 0) = none ∧ entRefused qOn (entOf 0 0x0A 0) = some 1) ∧ (s0.jCount = 0 ∧ (s0.hq 0).en = false ∧ s0.dev.replayed = false) := by decide +kernel
theorem witness_HostQueues_dispatch : (s0.cmds.filter s0.readyCmd = []) ∧ s0.serving = false ∧
    (let s := commanded (cmdOf 0 0 .accepted)
     let x : Nat × Cmd := (5, cmdOf 0 0 .accepted)
     s.serving = true ∧ s.cmds.filter s.readyCmd = [x] ∧ enF x.2.entry 0x10 1 ≠ 7 ∧ s.cmds.find x.1 = some x.2 ∧ decide (entDeadline x.2.entry < s.now.toNat) = false ∧
       entOp x.2.entry ≠ 1) ∧
    entOp (cmdOf 1 0 .accepted).entry = 1 ∧
    (let c := { cmdOf 0 0 .accepted with entry := BitVec.ofNat 1024 (5 + 2 * 2 ^ 144) }
     let s := { commanded c with cycle := 21 }
     s.cmds.filter s.readyCmd = [(5, c)] ∧ decide (entDeadline c.entry < s.now.toNat) = true ∧ entFlags c.entry / 2 % 2 = 1) ∧
    (∀ op ∈ [0, 1], let c := { cmdOf op 0 .accepted with entry := entOf 5 op 0 ||| BitVec.ofNat 1024 (7 * 2 ^ 128) }
     let s := { commanded c with share := 15 }
     s.serving = true ∧ s.share = 15 ∧ s.lowReady = [(5, c)] ∧ s.cmds.find 5 = some c ∧ s.now.toNat ≤ entDeadline c.entry ∧ entOp c.entry = op) := by
  decide +kernel
theorem witness_HostQueues : (∀ a ∈ [(0, cmdOf 0 0 .accepted)], ∀ b ∈ [(1, { cmdOf 0 0 .accepted with queue := 1 })], Before a b) ∧
    (s0.cmdsOf 0).head? = none ∧
    (let s := { commanded (cmdOf 0 0 .done) with queues := [(0, qOn)], unit := 0 }
     s.wf ∧ (s.cmdsOf 0).head? = some (5, cmdOf 0 0 .done) ∧ (cmdOf 0 0 .done).st = .done ∧ (s.hq 0).en = true ∧
       (s.hq 0).slotFree (enSEQ (cmdOf 0 0 .done).entry) = true ∧ (s.hq 0).loc = false ∧ (cmdOf 0 0 .done).status < 256) ∧
    (cmdOf 0 0 .accepted).st ≠ .done ∧
    (let s := journaled
     let key (i : Nat) : Nat := cmdKey (enF (s.jGet (s.jRec i + 128)) 0 1) (enSEQ (s.jGet (s.jRec i)))
     s.wf ∧ s.dev.shown = [] ∧ s.jCount = 2 ∧ s.serving = true ∧ s.dev.replayed = false ∧ 1 ≤ enF (s.jGet (s.jRec 1 + 128)) 1 1 ∧ enF (s.jGet (s.jRec 1 + 128)) 1 1 ≤ 3 ∧
       (∀ i, i < s.jCount → i ≠ 1 → key i ≠ key 1) ∧
       (let x : W64 := BitVec.ofNat 64 plainAt
        let t := { s with dev := { s.dev with shown := [(key 1, 3, x)] }, mem := putBytes (plainAt + 13) 1 3 (putBytes plainAt 8 9 s.mem) }
        t.dev.shown = [(key 1, 3, x)] ∧ enF (t.jGet (t.jRec 1 + 128)) 1 1 ≠ 3 ∧ devOf x = t.dev.devid.toNat ∧ shownIn (t.rawRow (localOf x)) 9 3 = true ∧
          enSEQ (t.jGet (t.jRec 1)) = 9)) := by
  unfold State.wf Before; decide +kernel

/-- An image at 0x10000: its header, a section of templates with one record and one of variants with number 5. -/
def imageHdr (crc : Nat) : Nat := 0x31424754 + 2 ^ 40 + 2 * 2 ^ 48 + crc * 2 ^ 64 + 24 * 2 ^ 128
def imageSecs : Nat := 2 + 0x100 * 2 ^ 64 + 128 * 2 ^ 128 + 0xFFFF * 2 ^ 192 + (6 + 5 * 2 ^ 192) * 2 ^ 256
def imageCrc : Nat := (crc32c (imageHdr 0) 24).toNat
def imaged : State := { s0 with mem := putBytes 0x10000 128 (imageHdr imageCrc + imageSecs * 2 ^ 512) [], regs := State.reset.regs.put 0x320 1 }
def launching (l : Launch) : State := { imaged with cmds := [(5, { cmdOf 1 0x10000 .accepted with launch := some l })], unit := 5 }
def launchOf (spawn : Nat) : Launch := { launch0 with image := 0x10000, next := 0, spawn := spawn }
theorem witness_HostCommands_launch : imaged.imageOk 0x10000 = true ∧
    (let s := launching (launchOf 0)
     let c := { cmdOf 1 0x10000 .accepted with launch := some (launchOf 0) }
     s.cmds.find s.unit = some c ∧ c.launch = some (launchOf 0) ∧ c.st ≠ .done ∧ (launchOf 0).failed = false ∧ (launchOf 0).next < (launchOf 0).count ∧
       (launchOf 0).spawn = 0 ∧ s.launchRefused (launchOf 0) (enF c.entry 0x28 4) = none) ∧
    (s0.launchRefused (launchOf 0) 0 = some 1) ∧
    (let s := launching (launchOf 1)
     let c := { cmdOf 1 0x10000 .accepted with launch := some (launchOf 1) }
     let l := launchOf 1
     let r' := trSet (trFor 0 l.next l.level) 0x60 24 (s.bytes (enF c.entry 0x38 8 % 2 ^ 58 + 24 * l.next) 24)
     l.spawn ≠ 0 ∧ s.template (l.image.toNat % 2 ^ 58) (enF c.entry 0x28 4) = some 0 ∧ s.wf ∧ s.homeDie (s.needsOf s.unit) l.level (trRank 0 + 1) l.next = some 0 ∧ trDep r' = 0 ∧
       s.freeGref 0 = some 0) := by unfold State.wf; decide +kernel
theorem witness_HostCommands_end :
    ((∀ op ∈ [0, 2, 3, 4, 5, 6, 7, 8, 9], s0.running s0.unit op = none)) ∧
    (∀ op ∈ [0, 3, 4, 7, 8, 9], ((commanded (cmdOf op 0 .started)).cmds.find 5 = some (cmdOf op 0 .started)) ∧ (cmdOf op 0 .started).st = .started ∧
      entOp (cmdOf op 0 .started).entry = op) ∧
    (let c := cmdOf 2 (0x20000 * 2 ^ 64 + 128 * 2 ^ 128) .started
     let s := commanded c
     enF c.entry 0x30 8 = 128 ∧ enF c.entry 0x38 1 = 0 ∧ devOf (BitVec.ofNat 64 0x20000) = s.dev.devid.toNat ∧ Plain s (localOf 0x20000) ∧ s.wf) ∧
    (let c := cmdOf 2 (0x20000 + 128 * 2 ^ 128 + 2 ^ 192) .started
     let s := commanded c
     enF c.entry 0x38 1 = 1 ∧ enF c.entry 0x20 8 / 128 * 128 = 0x20000 ∧ Plain s (localOf 0x20000) ∧ s.isPoison 0x20000 = false ∧ bit (s.reg 0x301) 63 = false) ∧
    (s0.toSave (cmdKey 0 0) = [] ∧ s0.im 0 0x40000 4 ≠ 1 ∧ s0.areaLoads 0 2048 = []) ∧
    (let s := { tasked Ctx.reset with ctxs := [(0, { Ctx.reset with task := some { task0 with cmd := 3 } })] }
     s.toSave (cmdKey 0 3) = [0] ∧ (s.ctx 0).hold = .none ∧ (s.modCtx 0 Ctx.stopSave).canSave 0 0xC0 = true) ∧
    (let s := { s0 with saves := [(areaKey 0 0, saved0)], mem := putBytes 0x40000 4 1 (putBytes 0x40010 6 7 []) }
     s.areaLoads 0 2048 = [(areaKey 0 0, saved0)] ∧ s.entries.find (savedEntry (areaKey 0 0)) = none ∧ s.loadCore saved0 = some 0 ∧
       { s with map := { s.map with cores := 0 }, regs := s.regs.put 0x302 1 }.loadCore saved0 = none) := by
  unfold State.wf Plain; decide +kernel
theorem witness_HostCommands_variant : (let c := cmdOf 5 (0x10000 + 5 * 2 ^ 64) .started
     let s := { imaged with cmds := [(5, c)] }
     enF c.entry 0x28 2 = 5 ∧ enF c.entry 0x20 8 % 2 ^ 58 = 0x10000 ∧ s.imageOk 0x10000 = true ∧ (∃ x ∈ s.sections 0x10000, x.1 = 6 ∧ x.2.2.2 = 5) ∧
       ∀ d ∈ s.cmds, entOp d.2.entry ≠ 1) ∧ s0.imageOk 0x10000 = false ∧
    (let d := cmdOf 1 0x10000 .started
     entOp d.entry = 1 ∧ d.st ≠ .done ∧ enF d.entry 0x20 8 = 0x10000 ∧ accLt (4, d) (5, { cmdOf 5 0x10000 .started with recNo := 1 }) = true) := by decide +kernel
theorem witness_HostCommands : (s0.map.unitLive 0 511 = true ∧ s0.map.unitLive 6 0 = false) ∧
    (((s0.map.report (.returned 6 0 [] 0)).close.unitLive 6 0 = true) ∧ ({ s0.map with dies := 0 }.report (.returned 0 0 [0] 0)).close.unitLive 0 0 = false) ∧
    (let c := cmdOf 7 syn.toNat .started
     let s := commanded c
     let x : W64 := BitVec.ofNat 64 (enF c.entry 0x20 8)
     c.pubmap.getLsbD 255 = false ∧ devOf x = s.dev.devid.toNat ∧ s.syPresent (localOf x) = true ∧ (s.syWord (localOf x)).kind = .plain ∧ syView (localOf x) = 0 ∧ SyncSound s (localOf x)) ∧
    { cmdOf 7 0 .started with pubmap := BitVec.allOnes 256 }.pubmap.getLsbD 255 = true ∧
    (let c := cmdOf 8 (syn.toNat + 1 * 2 ^ 128) .started
     let s := commanded c
     (s.word64 (BitVec.ofNat 64 (enF c.entry 0x20 8))).2.toNat < enF c.entry 0x30 8 ∧ enF c.entry 0x28 1 = 0) ∧
    (let a := cmdOf 0 0 .started
     let b := { cmdOf 9 0 .started with recNo := 1 }
     accLt (4, a) (5, b) = true ∧ a.st ≠ .done ∧ a.queue = b.queue ∧ enF b.entry 0x20 1 ≠ 1) ∧
    (devOf (BitVec.ofNat 64 plainAt) = s0.dev.devid.toNat ∧ Plain s0 (localOf (BitVec.ofNat 64 plainAt))) ∧
    (homeOf (localOf syn / 8 * 8) = .sync 0 ∧ s0.syPresent (localOf syn / 8 * 8) = true) ∧
    (homeOf (localOf (syn + 0x400000) / 8 * 8) = .sync 0 ∧ s0.syPresent (localOf (syn + 0x400000) / 8 * 8) = false) := by
  unfold Plain SyncSound State.wf; decide +kernel

/-- Page tables of partition 0: a root at 0, tables at 0x1000 and 0x2000, one 2 MiB leaf at 0x200000, writable. -/
def paged : State := { s0 with
  regs := State.reset.regs.put 0x328 1, mem := putBytes 0 8 0x1001 (putBytes 0x1000 8 0x2001 (putBytes 0x2000 8 0x200007 [])) }
def entry0 : Entry := ⟨.new, .translating, groupKey 3 0, 0, 7, 0, 0, 0, 0, 0, []⟩
/-- A record that declares 4 KiB at 0. -/
def needs : Row := BitVec.ofNat 1024 ((2 ^ 36 + 3 * 2 ^ 62) * 2 ^ 256)
def scheduled (e : Entry) : State := { s0 with entries := [(0, e)], groups := [(groupKey 3 0, group0)], cmds := [(3, { cmd0 with st := .accepted })] }
theorem witness_Scheduling_walk : bit (s0.reg (0x328 + 7)) 0 = false ∧
    (let root := paged.reg 0x328
     let p1 := paged.pteAt (root.toNat / 4096 * 4096) (bitsOf 0 39 9)
     let p2 := paged.pteAt (pteAddr p1) (bitsOf 0 30 9)
     let p3 := paged.pteAt (pteAddr p2) (bitsOf 0 21 9)
     bit root 0 = true ∧ (∀ p ∈ ([p1, p2].map BitVec.toNat), let p : W64 := BitVec.ofNat 64 p
       bit p 0 = true ∧ fld p 4 8 = 0 ∧ bit p 1 = false ∧ fld p 58 6 = paged.dev.devid.toNat) ∧
       bit p3 0 = true ∧ fld p3 4 8 = 0 ∧ bit p3 1 = true ∧ pteAddr p3 % 2 ^ 21 = 0 ∧ bit (paged.pteAt (pteAddr p2) (bitsOf 0x200000 21 9)) 0 = false) := by
  decide +kernel
def okExt (s : State) (r : Row) : Bool := match (s.extentsOf 0 0 r).2 with | .ok _ => true | .error _ => false
theorem witness_Scheduling_entry :
    (let s := scheduled entry0
     s.entries.find s.unit = some entry0 ∧ entry0.st = .translating ∧ okExt s entry0.trec = true ∧ okExt s needs = false ∧
       ((s.reg 0x317).toNat + 2 ^ 64 - (s.reg 0x318).toNat) % 2 ^ 64 < 2 ^ fld (s.reg 0x316) 0 5 ∧ s.wf) ∧
    (let s := { scheduled entry0 with regs := State.reset.regs.put 0x317 16 }
     2 ^ fld (s.reg 0x316) 0 5 ≤ ((s.reg 0x317).toNat + 2 ^ 64 - (s.reg 0x318).toNat) % 2 ^ 64) ∧
    (let e := { entry0 with st := .ready }
     let s := scheduled e
     s.entries.filter (fun x => x.2.st == .ready && s.dieOfEntry x.2 == s.unit) = [(0, e)] ∧ e.kind = .new ∧ s.groups.find e.group = some group0 ∧
       group0.size = 1 ∧ s.place 0 e = some [0] ∧ s.cmds.find group0.cmd = some { cmd0 with st := .accepted }) := by unfold State.wf; decide +kernel
def xctl (op : Nat) (s : State) : State := { s with regs := ((s.regs.put 0x313 (BitVec.ofNat 64 (2 ^ 63 + op))).put 0x315 0x1000000).put 0x314 5 }
theorem witness_Scheduling : s0.xOn 1 = false ∧ (∀ op ∈ [1, 2, 3, 4, 5], (xctl op s0).xOn op = true) ∧
    (((tasked Ctx.reset).ctx 0).task = some task0 ∧ task0.part = (xctl 2 (tasked Ctx.reset)).xPart) ∧
    (let e := { entry0 with st := .parked }
     let s := { xctl 5 (scheduled e) with cmds := [(3, { cmd0 with st := .accepted, entry := 5 })] }
     let c : Cmd := { cmd0 with st := .accepted, entry := 5 }
     s.groups.find e.group = some group0 ∧ s.cmds.find group0.cmd = some c ∧ c.launch = some launch0 ∧ e.kind = .new ∧ s.partOf e.group = s.xPart ∧
       (∀ y ∈ s.entries, y.1 = 0 → y = (0, e)) ∧
       (s.entries.filter fun x => x.2.st == .parked && s.partOf x.2.group == s.xPart &&
         (match (s.groups.find x.2.group).bind fun g => s.cmds.find g.cmd with | some c => enSEQ c.entry == (s.reg 0x314).toNat | none => false)) = [(0, e)]) ∧
    (rows8.valid = true ∧ { rows8 with revoked := true }.revoked = true ∧ rows8.revoked = false) ∧
    ((match (paged.pieces 0 0 rows8.va (128 * rows8.len) false [] (rows8.len / 2 ^ 14 + 2)).2 with | .ok [p] => p.rows == rows8.len | _ => false) = true) := by
  decide +kernel

def inState (r : RState) : State := { s0 with dev := { s0.dev with rst := r } }
def hot (watts : List Nat) (wait under : Nat) : State :=
  ready { s0 with dev := { s0.dev with image := { Image.reset with cap := 100 }, watts := watts, downWait := wait, under := under }, arg := 106 }
theorem witness_NoReport : NoReport [] ∧ NoReport [.clock, .event 0 0 .tend] := by constructor <;> intro u a q h <;> simp at h
theorem witness_ResetSequence : s0.wf ∧ (∀ r ∈ [RState.image, .arrays, .cores, .memory, .links, .badImage], (inState r).dev.rst = r) ∧
    (let c (l : List Nat) := (hot [] 0 0).dev.image.cap * ((sumOf l :: []).take 100).length
     c [101] < sumOf ((sumOf [101] :: []).take 100) ∧ (hot [] 1 0).dev.downWait ≠ 0 ∧ (hot [] 0 0).dev.downWait = 0 ∧ (hot [] 0 0).hottest [101] = some 0 ∧
       (sumOf [100] ≤ c [100] ∧ 9 * c [100] < 10 * sumOf [100]) ∧ (10 * sumOf [90] ≤ 9 * c [90] ∧ (hot [] 0 998).dev.under < 999) ∧
       (hot [] 0 0).serving = true) ∧
    (s0.serving = false ∧ { s0 with map := { s0.map with dies := 0 } }.dieLive 0 = false) ∧
    ((hot [] 0 0).dieLive 0 = true ∧ 105 < (hot [] 0 0).arg ∧ (hot [] 0 0).arg < 115 ∧ 1200 < (hot [] 0 0).map.clock 0) ∧
    (115 ≤ { hot [] 0 0 with arg := 115 }.arg ∧ { hot [] 0 0 with map := { (hot [] 0 0).map with clocks := [(0, 1200)] } }.map.clock 0 ≤ 1200) ∧
    (causeOf (.coreLost 0) = causeOf (.coreLost 1) ∧ unitOf (.coreLost 0) < unitOf (.coreLost 1) ∧
      causeOf (.coreLost 0) < causeOf (.dieLost 0)) ∧
    (((ready s0).map.report (.coreLost 511)).close.same (ready s0).map = false ∧
      (let m : ResMap := { s0.map with cores := clearBits s0.map.cores [3] }; (m.report (.coreLost 3)).close.same m = true) ∧ s0.map.close = s0.map) ∧
    ((MapReport.coreLost 0) ≠ .planLoaded ∧ (s0.ctx 0).csr.ackver.toNat < (s0.dev.keptVersion + 1).toNat) ∧
    ((∀ h ∈ [(0, 0)], s0.rxPeer h.1 = h.2) ∧ ∃ h ∈ [(0, 1)], s0.rxPeer h.1 ≠ h.2) := by unfold State.wf; decide +kernel
/-- A parity group in a table of 2 at 0x10000, with a state and one spare of this device. -/
def grouped (st : Nat) : State := { s0 with
  regs := (State.reset.regs.put 0x338 0x10001).put 0x339 0, mem := putBytes 0x10000 128 (st * 2 ^ 32 + 0x20000 * 2 ^ (8 * 0x50)) [],
  dev := { s0.dev with fills := [(0, ⟨0, List.replicate 8 0, 0⟩)] } }
def mailing (r : RState) : State := { s0 with dev := { s0.dev with mbbusy := true, rst := r } }
theorem witness_Mailbox : s0.dev.mbbusy = false ∧ ((mailing .badImage).dev.mbbusy = true ∧ (mailing .badImage).dev.rst = .badImage) ∧
    ((mailing .ready).wf ∧ (mailing .ready).dev.mbbusy = true ∧ (mailing .ready).dev.rst ≠ .badImage) ∧
    (∀ i, i < 128 → ((mailing .ready).byte (mbBase + i)).toNat = 0) ∧ ({ mailing .ready with mem := [(mbBase + 1, 8)] }.byte (mbBase + 1)).toNat = 8 := by
  unfold State.wf; decide +kernel
theorem witness_ParityGroups : (s0.pgCount ≤ fld (s0.reg 0x339) 0 32 ∧ (grouped 3).pgF 0 4 1 ≠ 1 ∧ (grouped 3).pgF 0 4 1 ≠ 2) ∧
    ((grouped 1).wf ∧ 0 < (grouped 1).pgCount ∧ (grouped 1).pgF 0 4 1 = 1 ∧ (grouped 1).pgSpare 0 = some 0) ∧
    ((grouped 2).wf ∧ (grouped 2).pgF 0 4 1 = 2 ∧ (grouped 2).pgCmds 0 = []) ∧ (s0.dev.fills.find 0 = none) ∧
    ((grouped 3).wf ∧ (grouped 3).pgF 0 4 1 = 3 ∧ (∃ f, (grouped 3).dev.fills.find 0 = some f ∧ (grouped 3).pgMoved 0 f = false ∧ (grouped 3).arg = 0)) ∧
    ((grouped 3).pgMoved 0 ⟨0, List.replicate 8 1, 0⟩ = true ∧ 0 + 32 * 1 < ({ grouped 3 with mem := putBytes 0x10008 8 40 (grouped 3).mem }.pgF 0 8 8)) ∧
    (∀ i ∈ [0, 1], devOf ((grouped 1).pgMemb 0 i + BitVec.ofNat 64 (128 * 0)) = s0.dev.devid.toNat ∧
      Plain (grouped 1) (localOf ((grouped 1).pgMemb 0 i + BitVec.ofNat 64 (128 * 0)))) ∧ bit ((grouped 1).reg 0x301) 63 = false := by
  unfold State.wf Plain; decide +kernel
/-- An UNPICK whose log holds one entry at row 0 of the scratchpad. -/
def unpicking : State := { s0 with cores := [(0, { Core.reset with recE := some { runCopy none none 0 with c := { copyCmd with op := 9 } } })] }
/-- Context 0 bound to stream 7, whose counter a reconciliation is to set to 0x3E80 (the example of R225). -/
def skewed : State := { s0 with
  ctxs := [(0, { Ctx.reset with csr := { Ctx.reset.csr with rngsel := 7 + 3 * 2 ^ 62 }, rngCtr := 0x3E88 })]
  dev := { s0.dev with recon := [(7, 0x3E80)] } }
theorem witness_Reconcile : skewed.dev.recon = [(7, BitVec.ofNat 64 0x3E80)] ∧ bit (skewed.ctx 0).csr.rngsel 63 = true ∧
    fld (skewed.ctx 0).csr.rngsel 0 12 = 7 ∧ (skewed.ctxs.find 0).isSome = true ∧ (skewed.ctx 0).rngWait = false ∧ s0.dev.recon = [] := by
  decide +kernel
/-- The example of R225: stream 7, DPC 2, cursor 3 at 1,000, CTR 16,008. -/
theorem test_stream_skew : (s0.putStream ((16008 * 2 ^ 64 + 2 * 2 ^ 128 + 3 * 2 ^ 160 + 2 ^ 168) * 2 ^ (4096 + 256 * 7) + 1000 * 2 ^ (1536 + 64 * 3)) [] 7).2 =
    [(7, 16000)] := by decide +kernel
theorem test_stream_unskew : bit ((skewed.unskew (7, 0x3E80)).ctx 0).csr.rngsel 62 = false ∧ ((skewed.unskew (7, 0x3E80)).ctx 0).rngCtr = 0x3E80 := by
  decide +kernel
theorem witness_MailboxAndRecovery : bit ({ s0 with regs := State.reset.regs.put 0x337 0x8000000000000000 }.reg 0x337) 63 = true ∧ bit (s0.reg 0x337) 63 = false ∧
    (s0.core s0.unit).recE = none ∧
    (∃ r, (unpicking.core unpicking.unit).recE = some r ∧ r.status = none ∧ unpicking.haltedCmd r.c = false) ∧
    { runCopy none (some 0) 0 with c := { copyCmd with op := 9 } }.status.isSome = true :=
  ⟨by decide +kernel, by decide +kernel, by decide +kernel, ⟨_, rfl, rfl, by decide +kernel⟩, rfl⟩
/-- What the walk's statement asks of an entry whose result nobody asks for. -/
def unasked (r : RunCmd) : Bool :=
  match unpicking.ukEntry 0 r r.prog with
  | .ok _ rows _ _ =>
    (match slotView r.gm (rows.headD 0) 0, (if enQld (rows.headD 0) then .ok none else slotView r.gm (rows.headD 0) 1), slotView r.gm (rows.headD 0) 3 with
    | .ok _, .ok _, .ok none => true
    | _, _, _ => false)
  | _ => false
/-- The same before its walk stands at an entry: its log can be read now. -/
def opening : State := { unpicking with cores := unpicking.cores.map fun k => (k.1, { k.2 with recE := k.2.recE.map fun r =>
  { r with prog := noEntry, csr := { r.csr with recst := 0 } } }) }
theorem witness_UnpickEntry : ((unpicking.core 0).recE.map unasked) = some true ∧ ((unpicking.core 0).recE.map fun r => r.prog != noEntry) = some true ∧
    ((opening.core 0).recE.map fun r => r.prog == noEntry && r.status.isNone && !(opening.haltedCmd r.c) && (opening.unpickOpen 0 r).2.status.isNone) =
      some true := by decide +kernel
theorem crcFrom_add (m n : Nat) : ∀ c x, crcFrom c x (m + n) = crcFrom (crcFrom c x m) (x / 256 ^ m) n := by
  induction m with
  | zero => intro c x; rw [Nat.zero_add, Nat.pow_zero, Nat.div_one]; rfl
  | succ m ih =>
    intro c x
    rw [Nat.succ_add]
    unfold crcFrom
    rw [ih, Nat.div_div_eq_div_mul, Nat.pow_succ, Nat.mul_comm 256]
    cases n <;> rfl
/-- The CRC-32C of 512 zero bytes, 64 at a time. -/
theorem crc_zeros : (crc32c 0 512).toNat = 821882304 := by
  have h0 : crcFrom 4294967295 0 64 = 4231468184 := by decide +kernel
  have h1 : crcFrom 4231468184 0 64 = 4158167844 := by decide +kernel
  have h2 : crcFrom 4158167844 0 64 = 2345306063 := by decide +kernel
  have h3 : crcFrom 2345306063 0 64 = 1200442991 := by decide +kernel
  have h4 : crcFrom 1200442991 0 64 = 64332339 := by decide +kernel
  have h5 : crcFrom 64332339 0 64 = 1158271177 := by decide +kernel
  have h6 : crcFrom 1158271177 0 64 = 3425213895 := by decide +kernel
  have h7 : crcFrom 3425213895 0 64 = 3473084991 := by decide +kernel
  unfold crc32c
  simp only [show (512 : Nat) = 64 + (64 + (64 + (64 + (64 + (64 + (64 + 64)))))) from rfl, crcFrom_add, Nat.zero_div, h0, h1, h2, h3, h4, h5, h6, h7]
  decide
/-- A reconciliation record of no streams that checks: only its CRC is not zero. -/
def reconciling : State := { s0 with mem := putBytes 0x10000 128 (821882304 * 2 ^ 256) [], regs := State.reset.regs.put 0x336 0x10000 }
theorem witness_Reconciliation :
    let base := localOf (reconciling.reg 0x336) / 128 * 128
    let d := reconciling.engReads ((List.range ((512 + 32 * 0 + 127) / 128)).map fun k => reconciling.here (base + 128 * k))
    let x := packRegs 1024 (fun i => (d.2.1.getD i 0).toNat) d.2.1.length % 2 ^ (8 * (512 + 32 * 0))
    fld (reconciling.reg 0x332) 0 13 = 0 ∧ d.2.2 = false ∧ bitsOf x 224 32 = 0 ∧ bitsOf x 192 16 = 0 ∧ bitsOf x 256 32 = 821882304 ∧
      x - bitsOf x 256 32 * 2 ^ 256 = 0 := by decide +kernel
/-- The CRC-32C of a record of one stream that is zero but for its count. -/
theorem crc_bound : (crc32c (2 ^ 224) 544).toNat = 3851501520 := by
  have h0 : crcFrom 4294967295 (2 ^ 224) 64 = 3489378084 := by decide +kernel
  have h1 : crcFrom 3489378084 0 64 = 1056375465 := by decide +kernel
  have h2 : crcFrom 1056375465 0 64 = 3117232945 := by decide +kernel
  have h3 : crcFrom 3117232945 0 64 = 1257217484 := by decide +kernel
  have h4 : crcFrom 1257217484 0 64 = 2365512930 := by decide +kernel
  have h5 : crcFrom 2365512930 0 64 = 3031963181 := by decide +kernel
  have h6 : crcFrom 3031963181 0 64 = 3496023575 := by decide +kernel
  have h7 : crcFrom 3496023575 0 64 = 325589842 := by decide +kernel
  have h8 : crcFrom 325589842 0 32 = 443465775 := by decide +kernel
  have hz : (2 : Nat) ^ 224 / 256 ^ 64 = 0 := by decide +kernel
  unfold crc32c
  simp only [show (544 : Nat) = 64 + (64 + (64 + (64 + (64 + (64 + (64 + (64 + 32))))))) from rfl, crcFrom_add, hz, Nat.zero_div, h0, h1, h2, h3, h4, h5, h6,
    h7, h8]
  decide
/-- A record of one stream that checks, while the stream is bound. -/
def reconcilingBound : State := { s0 with
  mem := putBytes 0x10000 128 (2 ^ 224 + 3851501520 * 2 ^ 256) (putBytes 0x100015 1 4 []), regs := (State.reset.regs.put 0x336 0x10000).put 0x332 0x100001 }
theorem witness_Reconciliation_bound :
    let s := reconcilingBound
    let base := localOf (s.reg 0x336) / 128 * 128
    let d := s.engReads ((List.range ((512 + 32 * 1 + 127) / 128)).map fun k => s.here (base + 128 * k))
    let x := packRegs 1024 (fun i => (d.2.1.getD i 0).toNat) d.2.1.length % 2 ^ (8 * (512 + 32 * 1))
    fld (s.reg 0x332) 0 13 = 1 ∧ d.2.2 = false ∧ bitsOf x 224 32 = 1 ∧ bitsOf x 256 32 = 3851501520 ∧ x - bitsOf x 256 32 * 2 ^ 256 = 2 ^ 224 ∧ d.1 = s ∧
      0 < 1 ∧ s.bytes (s.strEntry 0 + 0x15) 1 / 4 % 2 = 1 := by decide +kernel
end Sys2Proof.Tests
end

section
/-! Both memories stay in canonical form: at reset, and through every step. -/

namespace Sys2Proof.Claims

open Sys2Proof.Machine

/-- A step is the machine's next turn, so it keeps the canonical form that every turn keeps (an event's meaning by `exec_wf`, the
clock's part of a cycle by `State.clock_wf`). -/
theorem step_wf {s : State} (hs : s.wf) : wfOut (step s) :=
  State.next_wf hs

/-- Settles O38: memory at reset lists no cell. -/
theorem resetWellFormed : Obligations.ResetWellFormed :=
  reset_wf

/-- Settles O39: the state that the next turn answers is in canonical form. -/
theorem stepKeepsForm : Obligations.StepKeepsForm := by
  intro s t hs hnext
  have hout : wfOut (step s) := step_wf hs
  exact wf_outNext hnext hout

end Sys2Proof.Claims
end

section
/-! The order of memory accesses in a context: flags, fences, marks and the rendezvous (O20), and extent loads and stores as they
enter the context's queues (O12). -/

namespace Sys2Proof.Claims

open Sys2Proof.Machine

/-! What a change of one context leaves unchanged. -/

/-- A change of context `n` changes nothing else. -/
theorem ctxOnly_modCtx (s : State) (n : Nat) (f : Ctx → Ctx) : CtxOnly s (s.modCtx n f) n (f (s.ctx n)) :=
  ⟨rfl, State.ctx_modCtx_same s n f, fun _ hm => State.ctx_modCtx_ne s hm f, fun _ => rfl⟩

/-- After a change of the issuing context alone, one more change of it is still a change of it alone. -/
theorem CtxOnly.modMe {s t : State} {c : Ctx} (h : CtxOnly s t s.act c) (f : Ctx → Ctx) : CtxOnly s (t.modMe f) s.act (f c) := by
  obtain ⟨hstate, hctx, hother, hbyte⟩ := h
  have hact : t.act = s.act := by rw [hstate]; rfl
  have hmod : t.modMe f = t.modCtx s.act f := by rw [← hact]; rfl
  rw [hmod]
  refine ⟨?_, ?_, fun m hm => ?_, hbyte⟩
  · rw [hstate]; rfl
  · rw [State.ctx_modCtx_same, hctx]
  · rw [State.ctx_modCtx_ne t hm, hother m hm]

/-- So it is when the change puts entries at the end of its queues. -/
theorem CtxOnly.enqueue {s t : State} {c : Ctx} (h : CtxOnly s t s.act c) (src : Nat) (qs : List QAcc) :
    CtxOnly s (t.enqueue src qs) s.act { c with q := c.q ++ qs.map fun q => { q with iss := s.clk, src := src } } := by
  have hclk : t.clk = s.clk := by rw [h.1]; rfl
  rw [State.enqueue, hclk]
  exact h.modMe _

theorem me_of_modMe {s : State} {i : Instr} {f : Ctx → Ctx} (h : exec i s = .next (s.modMe f)) : Me s i (f s.me) :=
  ⟨_, h, ctxOnly_modCtx s s.act f⟩

theorem target_of_modTgt {s : State} {i : Instr} {f : Ctx → Ctx} (h : exec i s = .next (s.modTgt f)) : Target s i (f s.tgt) :=
  ⟨_, h, ctxOnly_modCtx s s.cur f⟩

/-! Flags (R286, R292). -/

/-- The flags that FSET and FCLR may name are f0 to f14. -/
theorem getLsbD_userFlags (k : Nat) : (0x7FFF : BitVec 16).getLsbD k = decide (k < 15) := by
  rw [show (0x7FFF : BitVec 16) = (BitVec.allOnes 15).setWidth 16 from rfl, BitVec.getLsbD_setWidth, BitVec.getLsbD_allOnes]
  simp only [Bool.and_eq_right_iff_imp, decide_eq_true_eq]
  omega

/-- A flag that an operation clears stays set where the device has set it in the same cycle. -/
theorem getLsbD_clearFlags (c : Ctx) (m : BitVec 16) (k : Nat) :
    (c.clearFlags m).f.getLsbD k = (c.f.getLsbD k && !(m.getLsbD k && !c.fset.getLsbD k)) := by
  by_cases hk : k < 16
  · simp [Ctx.clearFlags, hk]
  · simp [Ctx.clearFlags, BitVec.getLsbD_of_ge, Nat.le_of_not_lt hk]

/-- Clearing f15 leaves the flags below it. -/
theorem getLsbD_clearF15 (c : Ctx) (k : Nat) :
    (c.clearFlags 0x8000).f.getLsbD k = (c.f.getLsbD k && (decide (k < 15) || c.fset.getLsbD k)) := by
  rw [getLsbD_clearFlags, show (0x8000 : BitVec 16) = BitVec.twoPow 16 15 from rfl, BitVec.getLsbD_twoPow]
  rcases Nat.lt_trichotomy k 15 with hk | rfl | hk
  · simp [hk, Nat.ne_of_gt hk]
  · simp
  · simp [BitVec.getLsbD_of_ge c.f k hk]

theorem fset_sets (s : State) (m : BitVec 16) : ∃ f : BitVec 16, Me s (.fset m) { s.me with f := f } ∧
    ∀ k : Nat, f.getLsbD k = (s.me.f.getLsbD k || (decide (k < 15) && m.getLsbD k)) := by
  refine ⟨s.me.f ||| (m &&& 0x7FFF), me_of_modMe (f := fun c => { c with f := c.f ||| (m &&& 0x7FFF) }) rfl, fun k => ?_⟩
  rw [BitVec.getLsbD_or, BitVec.getLsbD_and, getLsbD_userFlags, Bool.and_comm]

theorem fclr_clears (s : State) (m : BitVec 16) : ∃ f : BitVec 16, Me s (.fclr m) { s.me with f := f } ∧
    ∀ k : Nat, f.getLsbD k = (s.me.f.getLsbD k && !(decide (k < 15) && m.getLsbD k && !s.me.fset.getLsbD k)) := by
  refine ⟨(s.me.clearFlags (m &&& 0x7FFF)).f, me_of_modMe (f := fun c => c.clearFlags (m &&& 0x7FFF)) rfl, fun k => ?_⟩
  rw [getLsbD_clearFlags, BitVec.getLsbD_and, getLsbD_userFlags, Bool.and_comm (m.getLsbD k)]

/-! Marks and rotation (R159, R291). -/

/-- RRB counts modulo 1,024, so its low ten bits decide. -/
theorem rot_rotates (s : State) (n : BitVec 10) : Target s (.rot n) { s.tgt with csr := { s.tgt.csr with
    rrb := BitVec.ofNat 64 ((s.tgt.csr.rrb.toNat + n.toNat) % 1024) } } := by
  have hrrb : (fld s.tgt.csr.rrb 0 10 + n.toNat) % 1024 = (s.tgt.csr.rrb.toNat + n.toNat) % 1024 := by
    simp [fld, bitsOf]
  rw [← hrrb]
  exact target_of_modTgt (f := fun c => { c with csr := { c.csr with
    rrb := BitVec.ofNat 64 ((fld c.csr.rrb 0 10 + n.toNat) % 1024) } }) rfl

/-! RMACK and the rendezvous (R284, R292), which a handler may not issue (R274). -/

theorem issue_noTask_of_not_hidden {s : State} (h : s.hidden = false) (i : Instr) (eff : State) : issue s (s.noTask i) eff = .next eff := by
  rw [State.noTask, h]
  rfl

theorem trapsAt_of_noTask {s eff : State} {i : Instr} (hexec : exec i s = issue s (s.noTask i) eff) (h : s.hidden = true) :
    TrapsAt s i 0x01 (slotTval i) := by
  rw [TrapsAt, hexec, State.noTask, h]
  rfl

theorem rmack_acknowledges {s : State} (h : s.hidden = false) : ∃ f : BitVec 16,
    Me s .rmack { s.me with f := f, grace := s.me.fset.getLsbD 15, csr := { s.me.csr with ackver := s.reg 0x302 } } ∧
    ∀ k : Nat, f.getLsbD k = (s.me.f.getLsbD k && (decide (k < 15) || s.me.fset.getLsbD k)) :=
  ⟨(s.me.clearFlags 0x8000).f, me_of_modMe
    (f := fun c => { c.clearFlags 0x8000 with grace := c.fset.getLsbD 15, csr := { c.csr with ackver := s.reg 0x302 } })
    (issue_noTask_of_not_hidden h .rmack _), getLsbD_clearF15 s.me⟩

section Rendezvous

variable {s : State} (sa se : BitVec 6)

theorem exec_rdv : exec (.rdv sa se) s = execRdv sa se s := rfl

/-- With no arrival of its own under way, RDV starts one. -/
theorem rdv_starts (h : s.hidden = false) (hold : s.me.hold = .none) :
    Me s (.rdv sa se) { s.me with hold := .rdv (s.rdS sa) ((s.rdS se).extractLsb' 0 32) false, rdvAt := none } := by
  rw [← BitVec.setWidth_eq_extractLsb' (by decide : 32 ≤ 64)]
  exact me_of_modMe (f := fun c => { c with hold := .rdv (s.rdS sa) ((s.rdS se).setWidth 32) false, rdvAt := none })
    (by rw [exec_rdv, execRdv, issue_noTask_of_not_hidden h, hold])

/-- RDV issues once its arrival is answered. -/
theorem rdv_completes (h : s.hidden = false) {a : W64} {e : BitVec 32} (hold : s.me.hold = .rdv a e true) :
    Me s (.rdv sa se) { s.me with hold := .none } :=
  me_of_modMe (f := fun c => { c with hold := .none }) (by rw [exec_rdv, execRdv, issue_noTask_of_not_hidden h, hold])

/-- Until then it waits, and nothing changes. -/
theorem rdv_waits (h : s.hidden = false) {a : W64} {e : BitVec 32} (hold : s.me.hold = .rdv a e false) : Me s (.rdv sa se) s.me := by
  have hsame : { s.me with hold := .rdv a e false } = s.me := by rw [← hold]
  rw [← hsame]
  exact me_of_modMe (f := fun c => { c with hold := .rdv a e false }) (by rw [exec_rdv, execRdv, issue_noTask_of_not_hidden h, hold])

/-- An RDV that has been held for RDVTO cycles traps RDVTIMEOUT with its address (R285). -/
theorem rdv_late (h : s.hidden = false) {a : W64} (hold : s.me.hold = .late a) :
    exec (.rdv sa se) s = .next ((s.modMe fun c => { c with hold := .none }).takeTrap 0x17 a s.me.pc) := by
  rw [exec_rdv, execRdv, issue_noTask_of_not_hidden h, hold]

end Rendezvous

/-- Settles O20: each operation changes one context at most, and RDV and RMACK trap in a handler, which holds no task. -/
theorem flagsAndFences : Obligations.FlagsAndFences := by
  intro s m scope kind n sa se
  refine ⟨fset_sets s m, fclr_clears s m, ?fence, ?mark, rot_rotates s n, rfl, fun _ => rfl, fun h => ⟨rmack_acknowledges h,
    rdv_starts sa se h, fun _ _ => rdv_completes sa se h, fun _ _ => rdv_waits sa se h, fun _ => rdv_late sa se h⟩,
    fun h => ⟨trapsAt_of_noTask rfl h, trapsAt_of_noTask rfl h⟩⟩
  case fence => exact me_of_modMe (f := fun c => { c with hold := .fence scope.toNat kind.toNat }) rfl
  case mark =>
    exact me_of_modMe (f := fun c => { c with
      ops := c.ops + 1, q := c.q ++ [⟨true, true, 0, c.ops + 1, 0, .mark, .waiting, s.clk, 0, false⟩] }) rfl

/-! Extent loads and stores (R154, R326). -/

/-- The places of rows that all lie in their extent. -/
def placesAt (a : MArgs) (x : Nat → W64) : List (W64 × Bool) := (List.range (nRows a)).map fun k => (x k, false)

/-- The checks of R326 let an operation pass whose rows all lie in the extent at reachable addresses. -/
theorem gsCheck_of_inExtent {s : State} {a : MArgs} {write : Bool} {stride : Int} {x : Nat → W64} (h : InExtent s a write stride x) (on : Bool) :
    s.gsCheck write a.ext.toNat (s.offsets a stride) on = .ok (placesAt a x) := by
  have hrow : ∀ k ∈ List.range (nRows a), extRow s.tgt write a.ext.toNat (rowK (s.rowAddr a) stride k) = .at (x k) ∧ s.reach (x k) = true := by
    intro k hk
    rw [rowK_rowAddr]
    exact h k (Nat.lt_succ_iff.mp (List.mem_range.mp hk))
  have hhits : (s.offsets a stride).map (fun o => (o, extRow s.tgt write a.ext.toNat o)) =
      (List.range (nRows a)).map fun k => (rowK (s.rowAddr a) stride k, ExtHit.at (x k)) := by
    rw [State.offsets, List.map_map]
    exact List.map_congr_left fun k hk => congrArg _ (hrow k hk).1
  have hbound : ((List.range (nRows a)).map fun k => (rowK (s.rowAddr a) stride k, ExtHit.at (x k))).find? (fun h => h.2 == .bound) = none := by
    simp
  have hreach : (placesAt a x).find? (fun p => !p.2 && !s.reach p.1) = none := by
    simpa [placesAt] using fun k hk => (hrow k (List.mem_range.mpr hk)).2
  rw [placesAt] at hreach ⊢
  cases on <;> simp [State.gsCheck, hhits, hbound, hreach, Function.comp_def]

/-- The load queue's entry for row `k`, at address `x k`. -/
def loadAcc (s : State) (i : Instr) (a : MArgs) (x : Nat → W64) (k : Nat) : QAcc :=
  ⟨true, false, x k, s.me.ops + 1, k, .ld, .waiting, s.clk, s.srcOf i a, false⟩

/-- The store queue's entry for row `k`: register V + k as it is now, under the guard's lanes. -/
def storeAcc (s : State) (i : Instr) (a : MArgs) (x : Nat → W64) (k : Nat) : QAcc :=
  ⟨false, true, x k, s.me.ops + 1, k, .st (s.rdV (a.v.toNat + k)) (laneMask (s.lanes a.gd)) false, .waiting, s.clk, s.srcOf i a, false⟩

/-- The entries of a load's rows from `j` on, once they carry the cycle of issue and the captured source. -/
theorem ldAccs_issued (s : State) (i : Instr) (a : MArgs) (x : Nat → W64) (j n : Nat) :
    (ldAccs (s.me.ops + 1) j ((List.range' j n).map fun k => (x k, false))).map (fun q => { q with iss := s.clk, src := s.srcOf i a }) =
      (List.range' j n).map (loadAcc s i a x) := by
  induction n generalizing j with
  | zero => rfl
  | succ n ih =>
    rw [List.range'_succ, List.map_cons, List.map_cons, ldAccs, List.map_cons, ih]
    rfl

/-- The entries of a store's rows from `j` on. -/
theorem stAccs_issued (s : State) (i : Instr) (a : MArgs) (x : Nat → W64) (j n : Nat) :
    (s.stAccs a (s.me.ops + 1) j ((List.range' j n).map fun k => (x k, false))).map (fun q => { q with iss := s.clk, src := s.srcOf i a }) =
      (List.range' j n).map (storeAcc s i a x) := by
  induction n generalizing j with
  | zero => rfl
  | succ n ih =>
    rw [List.range'_succ, List.map_cons, List.map_cons, State.stAccs, List.map_cons, ih]
    rfl

section Queued

variable {s : State} {i : Instr} {a : MArgs} {x : Nat → W64}

/-- A new operation number changes the issuing context alone. -/
theorem ctxOnly_newOp (s : State) : CtxOnly s s.newOp.1 s.act { s.me with ops := s.me.ops + 1 } :=
  ctxOnly_modCtx s s.act fun c => { c with ops := c.ops + 1 }

/-- A load of rows that lie in the extent takes its landing entries and, if a lane is active, a place in the load queue for each row. -/
theorem queues_queuedLoad (h : exec i s = .next (s.queuedLoad i a (placesAt a x))) :
    Queues s i s.me.irrev (rowEntries s a 6) (if s.lanes a.gd = 0 then [] else (List.range (nRows a)).map (loadAcc s i a x)) := by
  have hland := (ctxOnly_newOp s).modMe fun c => { c with land := c.land ++ rowEntries s a 6 }
  refine ⟨_, h, ?_⟩
  by_cases hoff : s.lanes a.gd = 0
  · rw [if_pos hoff, List.append_nil, State.queuedLoad, if_pos hoff]
    exact hland
  · rw [if_neg hoff, State.queuedLoad, if_neg hoff, List.range_eq_range', ← ldAccs_issued, ← List.range_eq_range']
    exact hland.enqueue _ _

/-- A store of rows that lie in the extent takes a place in the store queue for each row; with no active lane it does nothing. -/
theorem queues_queuedStore (h : exec i s = .next (s.queuedStore i a (placesAt a x))) :
    if s.lanes a.gd = 0 then NoEffect s i else Queues s i s.me.irrev [] ((List.range (nRows a)).map (storeAcc s i a x)) := by
  rw [State.queuedStore] at h
  by_cases hoff : s.lanes a.gd = 0
  · rw [if_pos hoff] at h ⊢
    exact h
  · rw [if_neg hoff] at h ⊢
    refine ⟨_, h, ?_⟩
    rw [List.append_nil, List.range_eq_range', ← stAccs_issued, ← List.range_eq_range']
    exact (ctxOnly_newOp s).enqueue _ _

variable {write : Bool} {stride : Int} {on : Bool} {eff : List (W64 × Bool) → State}

/-- A GS operation over rows that lie in the extent has its effect at their addresses. -/
theorem exec_of_inExtent (hexec : exec i s = gsOut s (s.gsCheck write a.ext.toNat (s.offsets a stride) on) eff)
    (h : InExtent s a write stride x) : exec i s = .next (eff (placesAt a x)) := by
  rw [hexec, gsCheck_of_inExtent h]
  rfl

end Queued

/-- Settles O12: the rows pass the checks of R326 together, and the effect queues one access a row. -/
theorem extentAccess : Obligations.ExtentAccess := by
  intro s a x
  refine ⟨fun h => ?gld, fun h => ?glds, fun h => ?gst, fun h => ?gsts⟩
  case gld => exact queues_queuedLoad (exec_of_inExtent rfl h)
  case glds => exact queues_queuedLoad (exec_of_inExtent rfl h)
  case gst => exact queues_queuedStore (exec_of_inExtent rfl h)
  case gsts => exact queues_queuedStore (exec_of_inExtent rfl h)

end Sys2Proof.Claims
end

section
/-! Random draws and the conversion between formats (O10): what a draw leaves for the result that follows it, a result of elements as
it lands, and the traps of a draw that finds no usable stream. -/

namespace Sys2Proof.Claims

open Sys2Proof.Machine

/-! What a draw leaves for the result that follows it (R207). -/

/-- A result lands from `t` as it would from `s`: for the same context, at the same tick and in the same physical register. -/
structure LandsAlike (s t : State) : Prop where
  act : t.act = s.act
  schc : t.me.schc = s.me.schc
  phys : ∀ v, t.phys v = s.phys v

theorem LandsAlike.refl (s : State) : LandsAlike s s := ⟨rfl, rfl, fun _ => rfl⟩

/-- A draw changes a stream's counter, and no result's place depends on it; the context that issues may be the one that draws. -/
theorem landsAlike_drawn (s : State) : LandsAlike s (drawn s) where
  act := rfl
  schc := by
    show ((drawn s).ctx s.act).schc = (s.ctx s.act).schc
    by_cases h : s.act = s.cur
    · rw [h, drawn, State.modTgt, State.ctx_modCtx_same]
    · rw [drawn, State.modTgt, State.ctx_modCtx_ne s h]
  phys v := by rw [State.phys, drawn, State.modTgt_tgt]; rfl

/-! A result of elements as it lands (R131, R305, R306). -/

/-- A vector result of `b` for VD, due `lat` ticks on. -/
def vecEntry (s : State) (a : VArgs) (lat : Nat) (b : Built) : LandEntry :=
  entryOf s.me .vec (s.phys a.vd.toNat) lat (pbit a.p) 1 b.data b.mask b.flags

/-- It is one more entry in the landing buffer of the issuing context. -/
theorem ctxOnly_landV (s : State) (a : VArgs) (lat : Nat) (b : Built) :
    CtxOnly s (s.landV a.p a.vd.toNat lat b) s.act { s.me with land := s.me.land ++ [vecEntry s a lat b] } :=
  ctxOnly_modCtx s s.act fun c => { c with land := c.land ++
    [entryOf c .vec (s.phys a.vd.toNat) lat (pbit a.p) 1 b.data b.mask b.flags] }

/-- Bit `k` of element `j` lies below the elements' end. -/
theorem bit_of_elem_lt {w n j k : Nat} (hj : j < n) (hk : k < w) : w * j + k < w * n :=
  calc w * j + k < w * j + w := Nat.add_lt_add_left hk _
    _ = w * (j + 1) := (Nat.mul_succ w j).symm
    _ ≤ w * n := Nat.mul_le_mul_left w hj

section Elements

variable {w n : Nat} (on : Nat → Bool) (f : Nat → Nat × Nat) (hfit : w * n ≤ 1024)
include hfit

/-- Elements that fit in a register keep their bits in it: an element that is on is written whole, with its value. -/
theorem row_of_build {j k : Nat} (hj : j < n) (hk : k < w) :
    (BitVec.ofNat 1024 (build w on f n).mask).getLsbD (w * j + k) = on j ∧
      (on j = true → (BitVec.ofNat 1024 (build w on f n).data).getLsbD (w * j + k) = (f j).1.testBit k) := by
  obtain ⟨-, -, hbits⟩ := build_spec w on f n
  obtain ⟨hmask, hdata⟩ := hbits j k hj hk
  have hrow : w * j + k < 1024 := Nat.lt_of_lt_of_le (bit_of_elem_lt hj hk) hfit
  rw [BitVec.getLsbD_ofNat, BitVec.getLsbD_ofNat, hmask, hdata]
  exact ⟨by simp [hrow], fun hon => by simp [hrow, hon]⟩

omit hfit in
/-- Above the elements nothing is written. -/
theorem mask_above_build {k : Nat} (hk : w * n ≤ k) : (BitVec.ofNat 1024 (build w on f n).mask).getLsbD k = false := by
  obtain ⟨hmask, -, -⟩ := build_spec w on f n
  rw [BitVec.getLsbD_ofNat, Nat.testBit_lt_two_pow (Nat.lt_of_lt_of_le hmask (Nat.pow_le_pow_right (by decide) hk)), Bool.and_false]

/-- An operation whose effect, from a state that lands alike, is a result built from elements that fit in a register. -/
theorem landsElems_of_landV {s t : State} {a : VArgs} {lat : Nat} {i : Instr} (halike : LandsAlike s t)
    (hexec : exec i s = .next (t.landV a.p a.vd.toNat lat (build w on f n))) : LandsElems s t a lat w n on f i := by
  refine ⟨_, vecEntry t a lat (build w on f n), hexec, ?only, ?entry, fun j hj k hk => row_of_build on f hfit hj hk,
    fun k hk _ => mask_above_build on f hk, fun k hk => ?flags⟩
  case only => exact halike.act ▸ ctxOnly_landV t a lat _
  case entry => exact ⟨rfl, halike.phys _, congrArg (· + lat) halike.schc, halike.schc, rfl, rfl, rfl, rfl⟩
  case flags =>
    rw [← build_flags w on f n k, vecEntry, entryOf, BitVec.getLsbD_ofNat, decide_eq_true hk, Bool.true_and]

end Elements

/-! What the issue of a draw answers (R201, R207). -/

section Draws

variable {s eff : State} {i : Instr} (hexec : exec i s = issue s (s.drawTrap (slotTval i)) eff)
include hexec

theorem exec_of_usable_stream (hbound : bit s.tgt.csr.rngsel 63 = true) (hskewed : bit s.tgt.csr.rngsel 62 = false) :
    exec i s = .next eff := by
  rw [hexec, show s.drawTrap (slotTval i) = none by simp [State.drawTrap, hbound, hskewed], issue_none]

theorem exec_of_no_stream (hbound : bit s.tgt.csr.rngsel 63 = false) :
    exec i s = .next (s.takeTrap 0x01 (BitVec.ofNat 64 (slotTval i)) s.me.pc) := by
  rw [hexec, show s.drawTrap (slotTval i) = some (0x01, slotTval i) by simp [State.drawTrap, hbound], issue_some]

theorem exec_of_skewed_stream (hbound : bit s.tgt.csr.rngsel 63 = true) (hskewed : bit s.tgt.csr.rngsel 62 = true) :
    exec i s = .next (s.takeTrap 0x14 (BitVec.ofNat 64 (fld s.tgt.csr.rngsel 0 12)) s.me.pc) := by
  rw [hexec, show s.drawTrap (slotTval i) = some (0x14, fld s.tgt.csr.rngsel 0 12) by
    simp [State.drawTrap, hbound, hskewed], issue_some]

end Draws

/-! VRNG and VRNGF (R207, R325). -/

theorem exec_vrng (s : State) (a : VArgs) : exec (.vrng a) s = issue s (s.drawTrap (slotTval (.vrng a)))
    ((drawn s).landV a.p a.vd.toNat 10 (build 32 (laneOn (s.lanes a.gd)) (fun l => (lane s.draw.2 l, 0)) 32)) := rfl

theorem exec_vrngf (s : State) (a : VArgs) : exec (.vrngf a) s = issue s (s.drawTrap (slotTval (.vrngf a)))
    ((drawn s).landV a.p a.vd.toNat 10 (build 32 (laneOn (s.lanes a.gd)) (fun l =>
      ((encodeFp fp32 .rne (.fin false (lane s.draw.2 l / 2 ^ 8) (-24))).1, 0)) 32)) := rfl

/-! VCVT (R201, R314). -/

section Conversion

variable {s : State} {a : VArgs}

/-- In a mode that draws nothing VCVT rounds without random bits. -/
theorem exec_vcvt_of_not_sr (hrm : s.rm ≠ 4) :
    exec (.vcvt a) s = .next (s.landV a.p a.vd.toNat 4 (s.cvtElems a 0)) := by
  have hsr : s.isSr = false := beq_eq_false_iff_ne.mpr hrm
  show execVcvt a s = _
  rw [execVcvt, State.srTrap, State.srDraw, hsr]
  rfl

/-- Under SR it meets the checks of a draw and draws, whatever its formats. -/
theorem exec_vcvt_of_sr (hrm : s.rm = 4) : exec (.vcvt a) s =
    issue s (s.drawTrap (slotTval (.vcvt a))) ((drawn s).landV a.p a.vd.toNat 4 (s.cvtElems a s.draw.2)) := by
  have hsr : s.isSr = true := beq_iff_eq.mpr hrm
  show execVcvt a s = _
  rw [execVcvt, State.srTrap, State.srDraw, hsr]
  rfl

/-- The elements of part `h` of a narrowing, with those below the part, fit in a register. -/
theorem narrowed_fits {ws wd h : Nat} (hpart : h < ws / wd) : wd * (1024 / ws * h + 1024 / ws) ≤ 1024 :=
  calc wd * (1024 / ws * h + 1024 / ws) = 1024 / ws * (wd * (h + 1)) := by rw [← Nat.mul_succ, Nat.mul_left_comm]
    _ ≤ 1024 / ws * (wd * (ws / wd)) := Nat.mul_le_mul_left _ (Nat.mul_le_mul_left wd hpart)
    _ ≤ 1024 / ws * ws := Nat.mul_le_mul_left _ (Nat.mul_div_le ws wd)
    _ ≤ 1024 := Nat.div_mul_le_self 1024 ws

/-- VCVT lands from `t`, with the random bits `u`: its destination elements, each converted from the element that its part names. -/
def CvtLands (s : State) (a : VArgs) (t : State) (u : Row) : Prop :=
  let src := a.vc.toNat % 16
  let dst := a.fmt.toNat
  let h := a.vc.toNat / 16 % 4
  let ws := fmtWidth src
  let wd := fmtWidth dst
  let n := 1024 / max ws wd
  let on := fun j => laneOn (s.lanes a.gd) (laneOf wd j)
  (ws ≤ wd → LandsElems s t a 4 wd n on (fun j =>
    convert src dst (modeOf s.rm u wd j) a.mod (elem ws (s.rdV a.va.toNat) (j + n * h))) (.vcvt a)) ∧
  (wd < ws → h < ws / wd → LandsElems s t a 4 wd (n * h + n) (fun j => decide (n * h ≤ j) && on j) (fun j =>
    convert src dst (modeOf s.rm u wd j) a.mod (elem ws (s.rdV a.va.toNat) (j - n * h))) (.vcvt a))

/-- The built elements of VCVT are those of its part, and they fit in a register. -/
theorem cvtLands_of_landV {t : State} {u : Row} (halike : LandsAlike s t)
    (hexec : exec (.vcvt a) s = .next (t.landV a.p a.vd.toNat 4 (s.cvtElems a u))) : CvtLands s a t u := by
  refine ⟨fun hwide => ?widening, fun hnarrow hpart => ?narrowing⟩
  case widening =>
    have helems : s.cvtElems a u = _ := if_pos hwide
    rw [helems] at hexec
    refine landsElems_of_landV _ _ ?_ halike hexec
    rw [Nat.max_eq_right hwide]
    exact Nat.mul_div_le 1024 _
  case narrowing =>
    have helems : s.cvtElems a u = _ := if_neg (Nat.not_le_of_lt hnarrow)
    rw [helems] at hexec
    refine landsElems_of_landV _ _ ?_ halike hexec
    rw [Nat.max_eq_left (Nat.le_of_lt hnarrow)]
    exact narrowed_fits hpart

end Conversion

/-- Settles O10: every operation's effect is one result of elements that lands from the state as it has drawn or not, and the checks
of a draw decide between the effect and the two traps. -/
theorem vectorDrawsAndConversion : Obligations.VectorDrawsAndConversion := by
  intro s a
  refine ⟨fun hbound hskewed => ⟨?vrng, ?vrngf⟩, ?noStream, ?skewed, ?noDraw, ?draw, ?cvtNoStream, ?cvtSkewed⟩
  case vrng =>
    exact landsElems_of_landV _ _ (by decide) (landsAlike_drawn s) (exec_of_usable_stream (exec_vrng s a) hbound hskewed)
  case vrngf =>
    exact landsElems_of_landV _ _ (by decide) (landsAlike_drawn s) (exec_of_usable_stream (exec_vrngf s a) hbound hskewed)
  case noStream =>
    intro hbound
    refine List.forall_mem_cons.mpr ⟨?_, List.forall_mem_singleton.mpr ?_⟩
    · exact exec_of_no_stream (exec_vrng s a) hbound
    · exact exec_of_no_stream (exec_vrngf s a) hbound
  case skewed =>
    intro hbound hskewed
    refine List.forall_mem_cons.mpr ⟨?_, List.forall_mem_singleton.mpr ?_⟩
    · exact exec_of_skewed_stream (exec_vrng s a) hbound hskewed
    · exact exec_of_skewed_stream (exec_vrngf s a) hbound hskewed
  case noDraw => exact fun hrm => cvtLands_of_landV (LandsAlike.refl s) (exec_vcvt_of_not_sr hrm)
  case draw =>
    exact fun hrm hbound hskewed =>
      cvtLands_of_landV (landsAlike_drawn s) (exec_of_usable_stream (exec_vcvt_of_sr hrm) hbound hskewed)
  case cvtNoStream => exact fun hrm => exec_of_no_stream (exec_vcvt_of_sr hrm)
  case cvtSkewed => exact fun hrm => exec_of_skewed_stream (exec_vcvt_of_sr hrm)

end Sys2Proof.Claims
end
